-- ==== Sys2Proof/Word.lean ====
section
/-!
DEFINITION. The word types of the Valone TK900 (R5): bytes, 32-bit registers, 64-bit pairs, 49-bit virtual
addresses (R83, R321) and the 128-bit lane mask of a group (R11).
-/
namespace Sys2Proof

abbrev Byte := BitVec 8
abbrev Word := BitVec 32
abbrev DWord := BitVec 64
/-- A virtual address, 49 bits (R321). -/
abbrev VAddr := BitVec 49
/-- One bit per lane of a group, bit `l` for lane `l` (R11, R12). -/
abbrev LaneMask := BitVec 128
/-- One bit per quad of a group (R11). -/
abbrev QuadMask := BitVec 32
/-- One bit per lane of a quad (R13). -/
abbrev Nibble := BitVec 4
/-- A register operand code: 0 to 95 name V0 to V95, 96 to 127 name S0 to S31 (R26). -/
abbrev RegCode := BitVec 7
/-- A predicate code: 0 to 11 name P0 to P11, 15 names PT (R50, R55). -/
abbrev PredCode := BitVec 4

end Sys2Proof
end

