-- ==== Sys2Proof/Syntax.lean ====
section
/-!
DEFINITION. The syntax of the machine's steps: one constructor per row of spec/opcode_table.json, first the encoded
instructions in the order of the opcode map (R62), then the events and host commands of 95_what_each_step_holds.md (the two
without fields last: the compiler bounds the number of a constructor that has fields).
-/
namespace Sys2Proof

/-- The type codes of R53. -/
inductive Ty where
  | i8 | i16 | i32 | i64 | n8 | n16 | n32 | n64 | b8 | b16 | b32 | b64 | b128
  | f16 | bf16 | tf32 | f32 | f64 | e5m2 | e4m3 | e3m2 | e2m3 | e2m1 | i4 | n4 | fx64
  deriving DecidableEq, Repr

/-- The rounding codes of R54. -/
inductive Rnd where
  | rne | rtz | rup | rdn | rna | sr
  deriving DecidableEq, Repr

/-- The cache-hint codes of R54. -/
inductive Hint where
  | ca | ro | st | na
  deriving DecidableEq, Repr

/-- The ORD codes of R62. -/
inductive Ord where
  | plain | acq | rel | ar
  deriving DecidableEq, Repr

/-- Operand B: a register code or a 64-bit literal (R52). -/
inductive SrcB where
  | reg (r : RegCode)
  | lit (v : DWord)
  deriving DecidableEq, Repr

/-- The guard, its negation and the flag select of word 1 (R50). -/
structure Ctl where
  pred : PredCode
  neg : Bool
  fs : Bool
  deriving DecidableEq, Repr

/-- The header of a host command: the function that issues it, PART, CTX and TAG (R371, R373). -/
structure Hdr where
  func : Nat
  part : Nat
  ctx : Nat
  tag : Nat
  deriving DecidableEq, Repr

/-- A group as a host command names it (R373). -/
structure GroupName where
  launch : Nat
  team : Nat
  group : Nat
  deriving DecidableEq, Repr

/-- Where an error strikes (R380). -/
inductive Strike where
  | hbm (pa : Nat)
  | homeSlice (pa : Nat)
  | l1 (core line sector : Nat)
  | scratchpad (team off : Nat)
  | tile (team tile : Nat)
  | apexNode (stack slot : Nat)
  | regFile (core : Nat)
  | coreState (core : Nat)
  | anvilCtl (cluster : Nat)
  | apexCtl (stack : Nat)
  deriving DecidableEq, Repr

/-- Every step of the machine that spec/opcode_table.json lists. -/
inductive Instr where
  /-- NOP: Retires with no effect other than advancing LCLK and DIX (R140). -/
  | nop (c : Ctl)
  /-- YIELD: Takes the gang's ready stamp afresh when it retires (R140). -/
  | yield (c : Ctl)
  /-- TRAP: Raises TRAPN with an 8-bit code after it retires (R141). -/
  | trap (c : Ctl) (code : BitVec 8)
  /-- BRK: Raises BRK after it retires (R141). -/
  | brk (c : Ctl)
  /-- PPOINT: Marks a pre-emption point, and stops the group with its liveness record when a pre-emption is pending (R143). -/
  | ppoint (a : RegCode)
  /-- EXIT: Removes the active lanes from their quad and unwinds the quad's stack while its mask is empty (R138). -/
  | exit (c : Ctl)
  /-- BRA: Branches each quad to a label, and pushes a PEND entry when the branch diverges (R134). -/
  | bra (c : Ctl) (disp : BitVec 32)
  /-- BRX: Branches each lane to the address in its own register pair, and pushes PEND entries for the extra targets (R135). -/
  | brx (c : Ctl) (a : RegCode)
  /-- CALL: Pushes a CALL entry and continues at the label (R136). -/
  | call (disp : BitVec 32)
  /-- RET: Pops a CALL entry and resumes at its PC with the exited lanes removed from the mask (R136). -/
  | ret
  /-- RTT: Pops a TRAP entry and holds the handler quad for trap return (R142). -/
  | rtt
  /-- MARK: Pushes a MARK entry that names the rejoin clause (R137). -/
  | mark (disp : BitVec 32)
  /-- JOIN: Pops a PEND or MARK entry and resumes the lanes it names (R18). -/
  | join
  /-- REGANG: Holds arriving quads until every quad of the group has arrived, then releases them as one gang (R23). -/
  | regang
  /-- LNCH: Submits a launch record from scratchpad to the partition's launch queue and returns a LAUNCHID or 0 (R144). -/
  | lnch (c : Ctl) (d a : RegCode) (disp : BitVec 32)
  /-- QSWZ: Permutes values within each quad according to a pattern (R147). -/
  | qswz (c : Ctl) (ty : Ty) (d a : RegCode) (pat : BitVec 8)
  /-- QBC: Broadcasts one lane's value within each quad (R147). -/
  | qbc (c : Ctl) (ty : Ty) (d a : RegCode) (src : BitVec 2)
  /-- SHFL_IDX: Reads a source lane chosen by index across the group (R147). -/
  | shflIdx (c : Ctl) (ty : Ty) (d a : RegCode) (b : SrcB)
  /-- SHFL_UP: Reads the lane B positions below (R147). -/
  | shflUp (c : Ctl) (ty : Ty) (d a : RegCode) (b : SrcB)
  /-- SHFL_DOWN: Reads the lane B positions above (R147). -/
  | shflDown (c : Ctl) (ty : Ty) (d a : RegCode) (b : SrcB)
  /-- SHFL_XOR: Reads the lane whose index is the lane's own index XOR B (R147). -/
  | shflXor (c : Ctl) (ty : Ty) (d a : RegCode) (b : SrcB)
  /-- BALLOT: Gathers a predicate from the present lanes into a bit mask (R148). -/
  | ballot (c : Ctl) (ty : Ty) (d : RegCode) (p : PredCode)
  /-- VOTE_ALL: Writes true when the predicate holds in every present lane (R148). -/
  | voteAll (c : Ctl) (pd p : PredCode)
  /-- VOTE_ANY: Writes true when the predicate holds in some present lane (R148). -/
  | voteAny (c : Ctl) (pd p : PredCode)
  /-- VOTE_UNI: Writes true when the predicate is equal in all present lanes (R148). -/
  | voteUni (c : Ctl) (pd p : PredCode)
  /-- MATCH: Writes the LANEID of the lowest present lane with an equal value (R148). -/
  | matchAny (c : Ctl) (ty : Ty) (d a : RegCode)
  /-- ELECT: Sets a predicate true in the lowest active present lane only (R148). -/
  | elect (c : Ctl) (pd : PredCode)
  /-- REDUX_ADD: Sums a value over the present lanes (R148). -/
  | reduxAdd (c : Ctl) (ty : Ty) (d a : RegCode)
  /-- REDUX_MIN: Takes the minimum of a value over the present lanes (R148). -/
  | reduxMin (c : Ctl) (ty : Ty) (d a : RegCode)
  /-- REDUX_MAX: Takes the maximum of a value over the present lanes (R148). -/
  | reduxMax (c : Ctl) (ty : Ty) (d a : RegCode)
  /-- REDUX_AND: Takes the AND of a value over the present lanes (R148). -/
  | reduxAnd (c : Ctl) (ty : Ty) (d a : RegCode)
  /-- REDUX_OR: Takes the OR of a value over the present lanes (R148). -/
  | reduxOr (c : Ctl) (ty : Ty) (d a : RegCode)
  /-- REDUX_XOR: Takes the XOR of a value over the present lanes (R148). -/
  | reduxXor (c : Ctl) (ty : Ty) (d a : RegCode)
  /-- SCAN_ADD: Computes a prefix sum in ascending LANEID order (R148). -/
  | scanAdd (c : Ctl) (ty : Ty) (exc : Bool) (d a : RegCode)
  /-- SCAN_MIN: Computes a prefix minimum (R148). -/
  | scanMin (c : Ctl) (ty : Ty) (exc : Bool) (d a : RegCode)
  /-- SCAN_MAX: Computes a prefix maximum (R148). -/
  | scanMax (c : Ctl) (ty : Ty) (exc : Bool) (d a : RegCode)
  /-- SCAN_AND: Computes a prefix AND (R148). -/
  | scanAnd (c : Ctl) (ty : Ty) (exc : Bool) (d a : RegCode)
  /-- SCAN_OR: Computes a prefix OR (R148). -/
  | scanOr (c : Ctl) (ty : Ty) (exc : Bool) (d a : RegCode)
  /-- SCAN_XOR: Computes a prefix XOR (R148). -/
  | scanXor (c : Ctl) (ty : Ty) (exc : Bool) (d a : RegCode)
  /-- IADD: Adds two integers, wrapping or saturating (R150). -/
  | iadd (c : Ctl) (ty : Ty) (sat : Bool) (d a : RegCode) (b : SrcB)
  /-- ISUB: Subtracts two integers (R150). -/
  | isub (c : Ctl) (ty : Ty) (sat : Bool) (d a : RegCode) (b : SrcB)
  /-- IMUL: Multiplies two integers, keeping the low part (R150). -/
  | imul (c : Ctl) (ty : Ty) (sat : Bool) (d a : RegCode) (b : SrcB)
  /-- IADDC: Adds with a carry-in predicate and may write a carry-out predicate (R150). -/
  | iaddc (c : Ctl) (ty : Ty) (d : RegCode) (pd : PredCode) (a : RegCode) (b : SrcB) (p : PredCode)
  /-- IMULH: Writes the high 32 bits of an integer product (R150). -/
  | imulh (c : Ctl) (ty : Ty) (d a : RegCode) (b : SrcB)
  /-- IMAD: Computes an integer multiply-add (R150). -/
  | imad (c : Ctl) (ty : Ty) (sat : Bool) (d a : RegCode) (b : SrcB) (k : RegCode)
  /-- IMIN: Writes the smaller of two integers (R149). -/
  | imin (c : Ctl) (ty : Ty) (d a : RegCode) (b : SrcB)
  /-- IMAX: Writes the larger of two integers (R149). -/
  | imax (c : Ctl) (ty : Ty) (d a : RegCode) (b : SrcB)
  /-- IABS: Writes the absolute value of an integer (R150). -/
  | iabs (c : Ctl) (ty : Ty) (sat : Bool) (d a : RegCode)
  /-- AND: Computes a bitwise AND (R151). -/
  | and (c : Ctl) (ty : Ty) (d a : RegCode) (b : SrcB)
  /-- OR: Computes a bitwise OR (R151). -/
  | or (c : Ctl) (ty : Ty) (d a : RegCode) (b : SrcB)
  /-- XOR: Computes a bitwise XOR (R151). -/
  | xor (c : Ctl) (ty : Ty) (d a : RegCode) (b : SrcB)
  /-- NOT: Computes a bitwise NOT (R151). -/
  | not (c : Ctl) (ty : Ty) (d a : RegCode)
  /-- SHL: Shifts left (R151). -/
  | shl (c : Ctl) (ty : Ty) (d a : RegCode) (b : SrcB)
  /-- SHR: Shifts right logically (R151). -/
  | shr (c : Ctl) (ty : Ty) (d a : RegCode) (b : SrcB)
  /-- SAR: Shifts right arithmetically (R151). -/
  | sar (c : Ctl) (ty : Ty) (d a : RegCode) (b : SrcB)
  /-- FSHF: Performs a funnel shift of two 32-bit values (R151). -/
  | fshf (c : Ctl) (d a : RegCode) (b : SrcB) (k : RegCode)
  /-- POPC: Counts the one bits (R151). -/
  | popc (c : Ctl) (ty : Ty) (d a : RegCode)
  /-- CLZ: Counts the leading zero bits (R151). -/
  | clz (c : Ctl) (ty : Ty) (d a : RegCode)
  /-- BREV: Reverses the bit order (R151). -/
  | brev (c : Ctl) (ty : Ty) (d a : RegCode)
  /-- BFE: Extracts a bit field (R152). -/
  | bfe (c : Ctl) (ty : Ty) (d a : RegCode) (pos : BitVec 6) (len : BitVec 7)
  /-- BFI: Inserts a bit field (R152). -/
  | bfi (c : Ctl) (ty : Ty) (d a : RegCode) (b : SrcB) (pos : BitVec 6) (len : BitVec 7)
  /-- LEA: Adds a shifted 32-bit index to a 64-bit address (R153). -/
  | lea (c : Ctl) (d a : RegCode) (b : SrcB) (sh : BitVec 5)
  /-- MOV: Copies a register or register set (R153). -/
  | mov (c : Ctl) (ty : Ty) (d a : RegCode)
  /-- MOVI: Writes the 32-bit immediate from word 2 (R153). -/
  | movi (c : Ctl) (d : RegCode) (imm : BitVec 32)
  /-- SPR_READ: Reads a special register into the destination (R154). -/
  | sprRead (c : Ctl) (ty : Ty) (d : RegCode) (sel : BitVec 7)
  /-- SPR_WRITE: Writes STICKY: stores the ARM bits and clears the flags written as 1 (R154). -/
  | sprWrite (c : Ctl) (b : SrcB)
  /-- ISETP: Compares two integers into a predicate (R155). -/
  | isetp (c : Ctl) (ty : Ty) (cmp : BitVec 4) (pd : PredCode) (a : RegCode) (b : SrcB)
  /-- FSETP: Compares two F32 values into a predicate (R168). -/
  | fsetp (c : Ctl) (cmp : BitVec 4) (pd : PredCode) (a : RegCode) (b : SrcB)
  /-- DSETP: Compares two F64 values into a predicate (R168). -/
  | dsetp (c : Ctl) (cmp : BitVec 4) (pd : PredCode) (a : RegCode) (b : SrcB)
  /-- SEL: Selects one of two values by a predicate (R156). -/
  | sel (c : Ctl) (ty : Ty) (d a : RegCode) (b : SrcB) (p : PredCode)
  /-- PLOP: Computes any function of three predicates through a lookup table (R157). -/
  | plop (c : Ctl) (pd p q r : PredCode) (lut : BitVec 8)
  /-- FADD: Adds two F32 values with one rounding (R162). -/
  | fadd (c : Ctl) (rm : Rnd) (d a : RegCode) (b : SrcB)
  /-- FMUL: Multiplies two F32 values (R162). -/
  | fmul (c : Ctl) (rm : Rnd) (d a : RegCode) (b : SrcB)
  /-- FFMA: Computes an F32 fused multiply-add (R162). -/
  | ffma (c : Ctl) (rm : Rnd) (d a : RegCode) (b : SrcB) (k : RegCode)
  /-- FMIN: Returns the smaller F32 operand (R164). -/
  | fmin (c : Ctl) (d a : RegCode) (b : SrcB)
  /-- FMAX: Returns the larger F32 operand (R164). -/
  | fmax (c : Ctl) (d a : RegCode) (b : SrcB)
  /-- FSCALE: Multiplies an F32 value by a power of two with one rounding (R165). -/
  | fscale (c : Ctl) (rm : Rnd) (d a : RegCode) (b : SrcB)
  /-- FCLASS: Classifies a float into a one-hot word (R166). -/
  | fclass (c : Ctl) (ty : Ty) (d a : RegCode)
  /-- FRCP: Computes a correctly rounded reciprocal (R167). -/
  | frcp (c : Ctl) (rm : Rnd) (d a : RegCode)
  /-- FRSQ: Computes a correctly rounded reciprocal square root (R167). -/
  | frsq (c : Ctl) (rm : Rnd) (d a : RegCode)
  /-- FSQRT: Computes a correctly rounded square root (R167). -/
  | fsqrt (c : Ctl) (rm : Rnd) (d a : RegCode)
  /-- FEXP2: Computes a correctly rounded 2^a (R167). -/
  | fexp2 (c : Ctl) (rm : Rnd) (d a : RegCode)
  /-- FLOG2: Computes a correctly rounded log2 a (R167). -/
  | flog2 (c : Ctl) (rm : Rnd) (d a : RegCode)
  /-- FSIN: Computes a correctly rounded sine (R167). -/
  | fsin (c : Ctl) (rm : Rnd) (d a : RegCode)
  /-- FCOS: Computes a correctly rounded cosine (R167). -/
  | fcos (c : Ctl) (rm : Rnd) (d a : RegCode)
  /-- DADD: Adds two F64 values (R162). -/
  | dadd (c : Ctl) (rm : Rnd) (d a : RegCode) (b : SrcB)
  /-- DMUL: Multiplies two F64 values (R162). -/
  | dmul (c : Ctl) (rm : Rnd) (d a : RegCode) (b : SrcB)
  /-- DFMA: Computes an F64 fused multiply-add (R162). -/
  | dfma (c : Ctl) (rm : Rnd) (d a : RegCode) (b : SrcB) (k : RegCode)
  /-- HADD2: Adds two packed 16-bit float pairs (R163). -/
  | hadd2 (c : Ctl) (ty : Ty) (rm : Rnd) (d a : RegCode) (b : SrcB)
  /-- HMUL2: Multiplies two packed 16-bit float pairs (R163). -/
  | hmul2 (c : Ctl) (ty : Ty) (rm : Rnd) (d a : RegCode) (b : SrcB)
  /-- HFMA2: Computes a fused multiply-add on packed 16-bit float pairs (R163). -/
  | hfma2 (c : Ctl) (ty : Ty) (rm : Rnd) (d a : RegCode) (b : SrcB) (k : RegCode)
  /-- CVT: Converts a value between numeric types (R171). -/
  | cvt (c : Ctl) (ty src : Ty) (rm : Rnd) (sat : Bool) (d a : RegCode)
  /-- CVTP: Converts two values and packs them into one register (R172). -/
  | cvtp (c : Ctl) (ty src : Ty) (rm : Rnd) (sat : Bool) (d a : RegCode) (b : SrcB)
  /-- CVTX: Unpacks one element exactly (R173). -/
  | cvtx (c : Ctl) (ty src : Ty) (e : BitVec 3) (d a : RegCode)
  /-- DOT2: Accumulates an exact two-element dot product (R177). -/
  | dot2 (c : Ctl) (ty el : Ty) (d a : RegCode) (b : SrcB)
  /-- DOT4: Accumulates an exact four-element dot product, optionally scaled (R177). -/
  | dot4 (c : Ctl) (ty el : Ty) (sc : Bool) (bs : BitVec 2) (d a : RegCode) (b : SrcB) (k : RegCode)
  /-- DOT8: Accumulates an exact eight-element dot product (R177). -/
  | dot8 (c : Ctl) (ty el : Ty) (sc : Bool) (bs : BitVec 2) (d a : RegCode) (b : SrcB) (k : RegCode)
  /-- LD: Loads from global memory into registers (R181). -/
  | ld (c : Ctl) (ty : Ty) (h : Hint) (d a : RegCode) (off : BitVec 32)
  /-- ST: Stores to global memory (R181). -/
  | st (c : Ctl) (ty : Ty) (h : Hint) (a : RegCode) (b : SrcB) (off : BitVec 32)
  /-- LDS: Loads a row from the team's scratchpad (R181). -/
  | lds (c : Ctl) (ty : Ty) (d a : RegCode) (off : BitVec 32)
  /-- STS: Stores a row to the team's scratchpad (R181). -/
  | sts (c : Ctl) (ty : Ty) (a : RegCode) (b : SrcB) (off : BitVec 32)
  /-- LDC: Loads from a cluster peer's scratchpad (R181). -/
  | ldc (c : Ctl) (ty : Ty) (d a : RegCode) (slot : BitVec 2) (off : BitVec 32)
  /-- STC: Stores to a cluster peer's scratchpad (R181). -/
  | stc (c : Ctl) (ty : Ty) (a : RegCode) (b : SrcB) (slot : BitVec 2) (off : BitVec 32)
  /-- PREF: Prefetches sectors into L1 under a hint (R182). -/
  | pref (c : Ctl) (h : Hint) (a : RegCode) (off : BitVec 32)
  /-- ATOM_ADD: Atomically adds and returns the old value (R183). -/
  | atomAdd (c : Ctl) (ty : Ty) (ord : Ord) (d a : RegCode) (b : SrcB)
  /-- ATOM_MIN: Atomically takes the minimum and returns the old value (R183). -/
  | atomMin (c : Ctl) (ty : Ty) (ord : Ord) (d a : RegCode) (b : SrcB)
  /-- ATOM_MAX: Atomically takes the maximum and returns the old value (R183). -/
  | atomMax (c : Ctl) (ty : Ty) (ord : Ord) (d a : RegCode) (b : SrcB)
  /-- ATOM_AND: Atomically ANDs and returns the old value (R183). -/
  | atomAnd (c : Ctl) (ty : Ty) (ord : Ord) (d a : RegCode) (b : SrcB)
  /-- ATOM_OR: Atomically ORs and returns the old value (R183). -/
  | atomOr (c : Ctl) (ty : Ty) (ord : Ord) (d a : RegCode) (b : SrcB)
  /-- ATOM_XOR: Atomically XORs and returns the old value (R183). -/
  | atomXor (c : Ctl) (ty : Ty) (ord : Ord) (d a : RegCode) (b : SrcB)
  /-- ATOM_EXCH: Atomically exchanges and returns the old value (R183). -/
  | atomExch (c : Ctl) (ty : Ty) (ord : Ord) (d a : RegCode) (b : SrcB)
  /-- CAS: Atomically compares and swaps, returning the old value (R184). -/
  | cas (c : Ctl) (ty : Ty) (ord : Ord) (d a : RegCode) (b : SrcB) (k : RegCode)
  /-- RED_ADD: Adds into a location without returning a value (R186). -/
  | redAdd (c : Ctl) (ty : Ty) (a : RegCode) (b : SrcB) (off : BitVec 32)
  /-- RED_MIN: Takes the minimum into a location without returning a value (R186). -/
  | redMin (c : Ctl) (ty : Ty) (a : RegCode) (b : SrcB) (off : BitVec 32)
  /-- RED_MAX: Takes the maximum into a location without returning a value (R186). -/
  | redMax (c : Ctl) (ty : Ty) (a : RegCode) (b : SrcB) (off : BitVec 32)
  /-- RED_AND: ANDs into a location without returning a value (R186). -/
  | redAnd (c : Ctl) (ty : Ty) (a : RegCode) (b : SrcB) (off : BitVec 32)
  /-- RED_OR: ORs into a location without returning a value (R186). -/
  | redOr (c : Ctl) (ty : Ty) (a : RegCode) (b : SrcB) (off : BitVec 32)
  /-- RED_XOR: XORs into a location without returning a value (R186). -/
  | redXor (c : Ctl) (ty : Ty) (a : RegCode) (b : SrcB) (off : BitVec 32)
  /-- ACQ: Performs an acquire read of a location (R187). -/
  | acq (c : Ctl) (ty : Ty) (h : Hint) (d a : RegCode) (off : BitVec 32)
  /-- REL: Performs a release write to a location (R188). -/
  | rel (c : Ctl) (ty : Ty) (a : RegCode) (b : SrcB) (off : BitVec 32)
  /-- FENCE: Holds the group's later accesses until every earlier one has been performed (R189). -/
  | fence
  /-- BINIT: Initialises a barrier object in one step (R193). -/
  | binit (c : Ctl) (gl : Bool) (a : RegCode) (b : SrcB)
  /-- ARRIVE: Releases and counts the gang's present lanes as arrivals at a barrier (R195). -/
  | arrive (c : Ctl) (gl : Bool) (a : RegCode)
  /-- EXPECT: Adds expected bytes to a barrier's current phase (R194). -/
  | expect (c : Ctl) (gl : Bool) (a : RegCode) (b : SrcB)
  /-- WAIT: Blocks the gang until a barrier phase has passed, then acquires (R196). -/
  | wait (c : Ctl) (gl : Bool) (pd : PredCode) (a : RegCode) (b : SrcB)
  /-- RINIT: Initialises a ring header and its slot barriers (R198). -/
  | rinit (c : Ctl) (gl : Bool) (a : RegCode) (b : SrcB) (k : RegCode)
  /-- RGIVE: Returns one permit to a ring (R199). -/
  | rgive (c : Ctl) (gl : Bool) (a : RegCode)
  /-- ADECL: Declares an aggregate region and builds its tree (R206). -/
  | adecl (c : Ctl) (pd : PredCode) (a : RegCode) (b : SrcB) (k : RegCode) (lg : BitVec 5)
  /-- AFREE: Frees a declared region and its slot (R213). -/
  | afree (c : Ctl) (pd : PredCode) (a : RegCode)
  /-- ASTAT: Reads the 128-bit status of a region (R213). -/
  | astat (c : Ctl) (d a : RegCode)
  /-- ARSUM: Queries the sum of a range of leaves (R215). -/
  | arsum (c : Ctl) (fx : Bool) (d : RegCode) (pd : PredCode) (a : RegCode) (b : SrcB) (k : RegCode)
  /-- ARMAX: Queries the maximum over a range of leaves (R215). -/
  | armax (c : Ctl) (d : RegCode) (pd : PredCode) (a : RegCode) (b : SrcB) (k : RegCode)
  /-- ARMIN: Queries the minimum over a range of leaves (R215). -/
  | armin (c : Ctl) (d : RegCode) (pd : PredCode) (a : RegCode) (b : SrcB) (k : RegCode)
  /-- APFX: Finds the first leaf whose inclusive prefix exceeds t (R217). -/
  | apfx (c : Ctl) (d : RegCode) (pd : PredCode) (a : RegCode) (b : SrcB)
  /-- APICK: Picks a leaf in proportion to its contribution (R218). -/
  | apick (c : Ctl) (d : RegCode) (pd : PredCode) (a : RegCode) (b : SrcB)
  /-- HTCLAIM: Claims a Crucible table in scratchpad (R234). -/
  | htclaim (c : Ctl) (tab : BitVec 2) (pd : PredCode) (a : RegCode)
  /-- HTFREE: Releases a claimed Crucible table (R234). -/
  | htfree (c : Ctl) (tab : BitVec 2) (pd : PredCode) (a : RegCode)
  /-- HTINS: Inserts keys that are absent from a table (R233). -/
  | htins (c : Ctl) (tab : BitVec 2) (raw : Bool) (d : RegCode) (pd : PredCode) (a : RegCode) (b : SrcB)
  /-- HTPROBE: Looks up keys in a table (R233). -/
  | htprobe (c : Ctl) (tab : BitVec 2) (d : RegCode) (pd : PredCode) (a : RegCode)
  /-- HTDEL: Deletes keys from a table (R233). -/
  | htdel (c : Ctl) (tab : BitVec 2) (d a : RegCode)
  /-- HTACC: Combines values into a table by key, without results (R233). -/
  | htacc (c : Ctl) (tab : BitVec 2) (raw : Bool) (a : RegCode) (b : SrcB)
  /-- HTACC_RES: Combines values into a table by key and returns status and value (R233). -/
  | htaccRes (c : Ctl) (tab : BitVec 2) (raw : Bool) (d a : RegCode) (b : SrcB)
  /-- HTDRAIN: Drains a table, merged with its spilled records, to a destination in key order (R235). -/
  | htdrain (c : Ctl) (tab : BitVec 2) (dgl bgl : Bool) (a bs k : RegCode)
  /-- HTSTAT: Reads a table's 128-bit status (R236). -/
  | htstat (c : Ctl) (tab : BitVec 2) (d : RegCode)
  /-- THSET: Installs a handle descriptor in a slot and returns its token (R240). -/
  | thset (c : Ctl) (slot : BitVec 4) (d a : RegCode)
  /-- THGET: Reads a handle slot's status (R241). -/
  | thget (c : Ctl) (d a : RegCode)
  /-- THDROP: Invalidates a handle slot and advances its generation (R242). -/
  | thdrop (c : Ctl) (a : RegCode)
  /-- THDROP_REVOKE: Invalidates a slot and aborts the team's commands in flight that use it (R242). -/
  | thdropRevoke (c : Ctl) (a : RegCode)
  /-- CPY: Copies a tensor extent between spaces (R245). -/
  | cpy (c : Ctl) (bgl : Bool) (a bs k : RegCode)
  /-- CPYG: Gathers indexed source rows into consecutive destination rows (R246). -/
  | cpyg (c : Ctl) (bgl : Bool) (a bs k : RegCode)
  /-- CPYS: Scatters consecutive rows to indexed destination rows (R247). -/
  | cpys (c : Ctl) (bgl : Bool) (a bs k : RegCode)
  /-- CPYS_RADD: Scatters rows, adding each element into the destination (R247). -/
  | cpysRadd (c : Ctl) (bgl : Bool) (a bs k : RegCode)
  /-- CPYR: Fills a ring slot under a permit (R248). -/
  | cpyr (c : Ctl) (bgl : Bool) (a bs k : RegCode)
  /-- MRSV: Maps logical tiles at a priority (R267). -/
  | mrsv (c : Ctl) (wide : Bool) (pd : PredCode) (a bs : RegCode)
  /-- MREL: Releases logical tiles, discarding the requests named in the abort mask (R268). -/
  | mrel (c : Ctl) (a bs : RegCode)
  /-- MPRI: Sets the priority of mapped tiles (R269). -/
  | mpri (c : Ctl) (a bs : RegCode)
  /-- MZERO: Enters requests that zero tiles (R270). -/
  | mzero (c : Ctl) (a : RegCode)
  /-- MMA: Enters a matrix multiply-accumulate request on a tile (R271). -/
  | mma (c : Ctl) (tile : BitVec 3) (a bs k : RegCode)
  /-- MMAT: Enters a multiply request that is triggered by a barrier phase (R272). -/
  | mmat (c : Ctl) (tile : BitVec 3) (bgl : Bool) (a bs k : RegCode)
  /-- MLD: Enters a request that loads a tile from a handle (R273). -/
  | mld (c : Ctl) (tile : BitVec 3) (acct : BitVec 2) (a bs k : RegCode)
  /-- MST: Enters a request that stores a tile through a handle (R273). -/
  | mst (c : Ctl) (tile : BitVec 3) (acct : BitVec 2) (a bs k : RegCode)
  /-- CSRR: Reads a control and status register in supervisor mode (R317). -/
  | csrr (c : Ctl) (d : RegCode) (csr : BitVec 12)
  /-- CSRW: Writes a control and status register in supervisor mode (R317). -/
  | csrw (c : Ctl) (a : RegCode) (csr : BitVec 12)
  /-- TLBI_PAGE: Invalidates the translations that cover one address (R318). -/
  | tlbiPage (c : Ctl) (loc : Bool) (a : RegCode)
  /-- TLBI_ALL: Invalidates every translation of the ASID (R318). -/
  | tlbiAll (c : Ctl) (loc : Bool) (a : RegCode)
  /-- L1WB: Writes back every dirty line of the core's L1 and combines its update-only copies (R318). -/
  | l1wb (c : Ctl)
  /-- HALT: Parks the group in its handler and posts a host event (R319). -/
  | halt (c : Ctl)
  /-- CLAUSE_ISSUE: A port chooses a ready gang at a clause boundary and begins issuing its clause (R21). -/
  | clauseIssue (core port : Nat)
  /-- REGANG_BOUND_RELEASE: After 64 arbitration rounds, the quads waiting at a REGANG are released (R23). -/
  | regangBoundRelease (gid : Nat) (addr : VAddr)
  /-- DET_REGANG_BOUND: Under DET, waiting quads are released once the group's LCLK has advanced by 1,536 (R280). -/
  | detRegangBound (gid : Nat) (addr : VAddr)
  /-- MIN_CLOCK_RELEASE: A DET instruction held under the minimum-clock rule performs its step once its condition holds (R282). -/
  | minClockRelease (core port : Nat)
  /-- DET_YIELD: A waiting DET gang yields its port to a lower-clocked gang of its team (R362). -/
  | detYield (core port : Nat)
  /-- WAIT_WAKE: A change of a barrier's PHASE releases the gangs blocked in WAIT on it (R196). -/
  | waitWake (gid quad : Nat)
  /-- LOAD_DATA_RETURN: A load's data returns, its destination is written and its flag count falls (R61). -/
  | loadDataReturn (op line : Nat)
  /-- ATOMIC_STEP_AT_HOME: An atomic step is performed at the home or scratchpad and its old value is returned (R183). -/
  | atomicStepAtHome (op : Nat)
  /-- RELEASE_AT_HOME: A release's write and its Hallmark entry are recorded at the home once earlier accesses are performed (R114). -/
  | releaseAtHome (op : Nat)
  /-- REMOTE_ACQUIRE: An acquire at the home pulls the pending releasers, self-invalidates and completes (R115). -/
  | remoteAcquire (op : Nat)
  /-- PULL: A named core writes back the dirty lines covered by a release count and acknowledges (R115). -/
  | pullCore (core : Nat) (upTo : Word)
  /-- UPDATE_ONLY_RECALL: The home recalls and combines the U copies of a line before serving a conflicting access (R118). -/
  | updateOnlyRecall (line : Nat)
  /-- L1_EVICTION: An L1 line is written back and replaced (R90). -/
  | l1Eviction (core line : Nat)
  /-- HOME_EVICTION: A home slice pulls every entry of a line's Hallmark record and drops the line (R113). -/
  | homeEviction (line : Nat)
  /-- LEAFWRITE: The apex unit applies a leaf store or RED and updates the leaf's path (R208). -/
  | leafwrite (op : Nat)
  /-- RANGE: The apex unit walks a range query in one step (R215). -/
  | rangeStep (op : Nat)
  /-- DESCEND: The apex unit performs a prefix descent in one step (R217). -/
  | descendStep (op : Nat)
  /-- REGION_BUILD: ADECL's recall and tree build complete at the apex unit (R211). -/
  | regionBuild (op : Nat)
  /-- SWAGE_ACCEPT: The Swage accepts a command into a command slot, and its flag clears (R238). -/
  | swageAccept (core : Nat)
  /-- SWAGE_CREDIT: Landed bytes of a command are credited to its barrier's LANDED count (R249). -/
  | swageCredit (core cmd move : Nat)
  /-- CPYR_PERMIT: A waiting CPYR takes its permit once one is free, and expects its bytes (R248). -/
  | cpyrPermit (core cmd : Nat)
  /-- DRAIN_CREDIT: A drain's header and records land and are credited to its barrier (R235). -/
  | drainCredit (op n : Nat)
  /-- ANVIL_GRANT: At a grant point the Anvil grants the next unit to the eligible request of highest effective priority (R258). -/
  | anvilGrant (cluster : Nat)
  /-- PASS: An Anvil pass over a whole tile commits (R264). -/
  | passStep (cluster : Nat)
  /-- MMAT_TRIGGER: A barrier completion passes an MMAT's trigger, or discards it when the completion was forced (R272). -/
  | mmatTrigger (cluster req : Nat)
  /-- ANVIL_FAULT_SUSPEND: A streamed B read fault suspends its request at a step (R275). -/
  | anvilFaultSuspend (cluster : Nat)
  /-- IMPRECISE_STORE_FAULT: A write that fails in transit kills the context (R311). -/
  | impreciseStoreFault (core entry : Nat)
  /-- PLACEMENT: The first fitting unit in placement order is placed, starting or resuming its teams (R343). -/
  | placement (part : Nat)
  /-- TEAM_END: A team ends once its groups have ended and its commands and requests have completed (R139). -/
  | teamEnd (team : Nat)
  /-- LAUNCH_END: A launch ends: writebacks, the hint report, the DONEA arrival and the host event (R345). -/
  | launchEnd (launch : Nat)
  /-- HINT_CHECK: A hinted range's count reaches a multiple of 4,096 and its ratio is checked (R95). -/
  | hintCheck (launch idx : Nat)
  /-- PREEMPTION_REQUEST: The device requests a pre-emption of a context once its floor has passed (R347). -/
  | preemptionRequest (ctx : Nat)
  /-- DEADLINE: The stop deadline passes and every remaining group stops with full liveness (R349). -/
  | deadline (ctx : Nat)
  /-- SUSPENSION: A stopped context completes its operations, performs the hard release and writes its save area (R354). -/
  | suspension (ctx : Nat)
  /-- TIMELIMIT: A context's residency passes its time limit and the context is killed (R348). -/
  | timelimit (ctx : Nat)
  /-- ECC_CORRECTED: A correctable error is corrected in place and logged (R380). -/
  | eccCorrected (strike : Strike)
  /-- ECC_UNCORRECTABLE: An uncorrectable error poisons data or quarantines cores (R380). -/
  | eccUncorrectable (strike : Strike)
  /-- CORE_REJOIN: A quarantined core passes its self-test and returns to placement (R381). -/
  | coreRejoin (core : Nat)
  /-- SCRUB: Scrubbing finds a poisoned HBM sector and records it (R380). -/
  | scrub (sector : Nat)
  /-- LINK_DOWN: A Chord link that fails to recover within 10 ms is taken down (R377). -/
  | linkDown (link : Nat)
  /-- PEER_INBOUND_ACCESS: An inbound peer access is performed at the target home (R379). -/
  | peerInboundAccess (link addr : Nat) (data : Option (List Byte))
  /-- HOST_COMPLETION_ERROR: A host-memory completion that returns with an error delivers poisoned data (R376). -/
  | hostCompletionError (op line : Nat)
  /-- THERMAL_THROTTLE: A die passes 95 °C and issue is throttled (R385). -/
  | thermalThrottle (die temp : Nat)
  /-- THERMAL_STOP: A die reaches 110 °C and the module stops (R385). -/
  | thermalStop (die temp : Nat)
  /-- EVENT_POST: An event is written to the event queue once there is room, and signalled (R371). -/
  | eventPost (func : Nat)
  /-- LAUNCH_PORT_WRITE: The host posts a 64-byte launch record to a context's launch port (R339). -/
  | launchPortWrite (func off : Nat) (data : List Byte)
  /-- BAR2_WRITE: The host writes device memory through BAR2 at the home (R370). -/
  | bar2Write (func addr : Nat) (data : List Byte)
  /-- BAR2_READ: The host reads device memory through BAR2 at the home (R370). -/
  | bar2Read (func addr len : Nat)
  /-- REGISTER_WRITE: The host writes a BAR0 queue register that has no row of its own (R370). -/
  | registerWrite (func off : Nat) (data : List Byte)
  /-- CTXCREATE: Installs a context table entry and assigns an ASID (R368). -/
  | ctxcreate (h : Hdr) (img : Nat)
  /-- CTXDESTROY: Kills a context and frees its regions, queue entries and ASID (R371). -/
  | ctxdestroy (h : Hdr)
  /-- PREEMPT: The host requests a pre-emption of a context (R347). -/
  | preempt (h : Hdr)
  /-- RESUME: Continues a parked handler, or starts it for a PFAULT park (R319). -/
  | hostResume (h : Hdr) (g : GroupName)
  /-- RETURN: Performs trap return for a parked group (R319). -/
  | hostReturn (h : Hdr) (g : GroupName)
  /-- KILL: Kills the context of a parked group (R319). -/
  | hostKill (h : Hdr) (g : GroupName)
  /-- PTWRITE: Performs an 8-byte write at a physical address at its home (R373). -/
  | ptwrite (h : Hdr) (pa : Nat) (value : DWord)
  /-- INVAL_PAGE: Invalidates one page's translations of a context partition-wide (R328). -/
  | invalPage (h : Hdr) (va : VAddr)
  /-- INVAL_ALL: Invalidates all translations of a context partition-wide (R328). -/
  | invalAll (h : Hdr)
  /-- ADMIT_APPROVE: Approves a held launch record into its queue (R315). -/
  | admitApprove (h : Hdr) (hid : Nat)
  /-- ADMIT_REFUSE: Refuses a held launch record (R315). -/
  | admitRefuse (h : Hdr) (hid : Nat)
  /-- RGRANT_GRANT: Grants a held ADECL a region slot (R200). -/
  | rgrantGrant (h : Hdr) (rid : Nat)
  /-- RGRANT_REFUSE: Refuses a held ADECL (R200). -/
  | rgrantRefuse (h : Hdr) (rid : Nat)
  /-- FRAME_TRAP: Copies a parked group's trap frame to host memory (R373). -/
  | frameTrap (h : Hdr) (g : GroupName) (dst : Nat)
  /-- FRAME_RECORD: Copies a held launch record to host memory (R373). -/
  | frameRecord (h : Hdr) (hid dst : Nat)
  /-- PSET: Writes a partition table entry and, on enabling, keys and zeroes its extents (R367). -/
  | pset (h : Hdr) (img : Nat)
  /-- ATTEST: Produces a signed attestation report for a nonce (R384). -/
  | attest (h : Hdr) (nonce : List Byte) (dst : Nat)
  /-- ERRLOG: Copies the module error log to host memory (R374). -/
  | errlog (h : Hdr) (len dst : Nat)
  /-- ERRLOG_CERTS: Copies the identity certificate chain to host memory (R384). -/
  | errlogCerts (h : Hdr) (len dst : Nat)
  /-- PEERWIN_OUTBOUND: Sets or removes an outbound Chord window of a partition (R378). -/
  | peerwinOutbound (h : Hdr) (link len : Nat)
  /-- PEERWIN_INBOUND: Maps or removes an inbound Chord window onto one extent (R378). -/
  | peerwinInbound (h : Hdr) (link ext len : Nat)
  /-- FWSTAGE_IMAGE: Stages a firmware image for the next reset (R383). -/
  | fwstageImage (h : Hdr) (stage len src : Nat)
  /-- FWSTAGE_SVN: Raises a stage's fused minimum SVN (R383). -/
  | fwstageSvn (h : Hdr) (stage svn : Nat)
  /-- POWER: Sets the board power limit (R385). -/
  | power (h : Hdr) (watts : Nat)
  /-- STORE_ACKNOWLEDGEMENT: A write-through store (.RO or .NA store, cluster-scratchpad STC, peer store) is performed at its home or scratchpad and acknowledged to the issuing core (R93). -/
  | storeAcknowledgement (op : Nat)
  /-- UNIT_END: An MZERO, MLD or MST unit on the Anvil ends after its clocks, commits its tile or writes and frees the grant point (R259). -/
  | unitEnd (cluster : Nat)
  /-- CRUCIBLE_OPERATION_APPLIED: The core's Crucible logic applies a queued table operation, writes its results and any spill record, and clears its flag count (R229). -/
  | crucibleOperationApplied (core : Nat)
  /-- LINK_RETRY: A Chord flit fails its CRC and the link enters retry and recovery (R377). -/
  | linkRetry (link : Nat)
  /-- MODULE_RESET: Reset runs secure boot of three firmware stages, trains HBM and self-tests the cores (R383). -/
  | moduleReset
  /-- POWER_THROTTLE: Board power would exceed the limit and idle clocks are inserted (R385). -/
  | powerThrottle
  deriving DecidableEq, Repr

end Sys2Proof
end

