-- ==== Sys2Proof/WellFormed.lean ====
section
/-!
DEFINITION. Which instruction terms stand for an encoding: operand classes (R26, R55), accepted types (R53, R62),
literal widths (R52), rounding and hint limits (R54), the pair tables of R79 and R175, and the SPR uses of R32.
An event or host command is no encoding and is well formed.
-/
namespace Sys2Proof

namespace Ty

/-- The code of R53. -/
def code : Ty → BitVec 5
  | i8 => 1 | i16 => 2 | i32 => 3 | i64 => 4 | n8 => 5 | n16 => 6 | n32 => 7 | n64 => 8 | b8 => 9 | b16 => 10
  | b32 => 11 | b64 => 12 | b128 => 13 | f16 => 14 | bf16 => 15 | tf32 => 16 | f32 => 17 | f64 => 18 | e5m2 => 19
  | e4m3 => 20 | e3m2 => 21 | e2m3 => 22 | e2m1 => 23 | i4 => 24 | n4 => 25 | fx64 => 26

/-- The width of a value in bits, in its container (R65, R67, R68). -/
def width : Ty → Nat
  | i8 | n8 | b8 | e5m2 | e4m3 | e3m2 | e2m3 => 8
  | i16 | n16 | b16 | f16 | bf16 => 16
  | i32 | n32 | b32 | f32 | tf32 => 32
  | i64 | n64 | b64 | f64 | fx64 => 64
  | b128 => 128
  | e2m1 | i4 | n4 => 4

/-- INT of R62. -/
def isInt : Ty → Bool
  | i32 | n32 | i64 | n64 => true
  | _ => false

/-- The types .B32 and .B64. -/
def isB3264 : Ty → Bool
  | b32 | b64 => true
  | _ => false

/-- MEMB of R62. -/
def isMemB : Ty → Bool
  | b8 | b16 | b32 | b64 | b128 => true
  | _ => false

/-- The types of a load (R62, R180). -/
def isLoad (t : Ty) : Bool := t.isMemB || t == i8 || t == i16

/-- A numeric type of R79: every type but the bit types. -/
def isNum : Ty → Bool
  | b8 | b16 | b32 | b64 | b128 => false
  | _ => true

/-- A type read as a signed integer (R68). -/
def signed : Ty → Bool
  | i4 | i8 | i16 | i32 | i64 | fx64 => true
  | _ => false

/-- The bits below the binary point and the exponent range of a floating format: fraction bits, least exponent of
its quantum and greatest exponent of a value's top bit (R65). -/
def floatSpan : Ty → Option (Nat × Int × Int)
  | f64 => some (53, -1074, 1023) | f32 => some (24, -149, 127) | tf32 => some (11, -136, 127)
  | f16 => some (11, -24, 15) | bf16 => some (8, -133, 127) | e5m2 => some (3, -16, 15)
  | e4m3 => some (4, -9, 8) | e3m2 => some (3, -4, 4) | e2m3 => some (4, -3, 2) | e2m1 => some (2, -1, 2)
  | _ => none

/-- Every value of the first type is a value of the second (R79). -/
def inside (a b : Ty) : Bool :=
  match a.floatSpan, b.floatSpan with
  | some (p, q, e), some (p', q', e') =>
    decide (p ≤ p' ∧ q' ≤ q ∧ e ≤ e')
  | none, some (p, q, e) =>
    -- an integer's magnitude bits; a signed type's least value has its top bit one place higher
    decide (q ≤ 0 ∧ (if a.signed then a.width - 1 else a.width) ≤ p ∧ (a.width : Int) - 1 ≤ e)
  | none, none =>
    if a.signed then b.signed && decide (a.width ≤ b.width)
    else if b.signed then decide (a.width < b.width) else decide (a.width ≤ b.width)
  | some _, none => false

end Ty

/-- Bit `i` of word 2. -/
def flag (b : Bool) (i : Nat) : BitVec 32 := if b then BitVec.ofNat 32 (2 ^ i) else 0

/-- A predicate field: 0 to 11, or 15 (R50, R55). -/
def predOk (p : PredCode) : Bool := decide (p.toNat ≤ 11) || p == 15

/-- A required predicate destination (R55). -/
def pdReq (p : PredCode) : Bool := decide (p.toNat ≤ 11)

/-- The mark v of R55. -/
def vOk (r : RegCode) : Bool := decide (r.toNat ≤ 95)

/-- The mark s of R55. -/
def sOk (r : RegCode) : Bool := decide (96 ≤ r.toNat)

/-- A displacement's bits [1:0] are zero (R51). -/
def dispOk (d : BitVec 32) : Bool := decide (d.toNat % 4 = 0)

/-- A literal's reserved bits are zero for an operand of width `w` (R52). -/
def SrcB.fits (w : Nat) : SrcB → Bool
  | .reg _ => true
  | .lit v => decide (w ≤ 64 ∧ v.toNat < 2 ^ w)

/-- A rounding mode of an instruction that is no conversion (R54). -/
def Rnd.det : Rnd → Bool
  | .sr => false
  | _ => true

/-- A store's literal: low bits of the width, none for .B128 (R52, R180). -/
def storeLitOk (t : Ty) (b : SrcB) : Bool := b.fits t.width

/-- ACQ accepts .CA and .RO, and in scratchpad no hint (R54, R187). -/
def acqHintOk (h : Hint) (a : RegCode) : Bool := h == .ca || (h == .ro && vOk a)

/-- Guard codes (R63); the flag select is 0 on a fixed-latency instruction (R60). -/
def Ctl.fixed (c : Ctl) : Bool := predOk c.pred && !c.fs

/-- Guard codes of a variable-latency instruction. -/
def Ctl.variable (c : Ctl) : Bool := predOk c.pred

/-- SPR reads: assigned selectors, the selector's width, no lane or quad scope into an S register (R31, R32). -/
def sprReadOk (t : Ty) (d : RegCode) (sel : BitVec 7) : Bool :=
  decide (sel.toNat ≤ 15) &&
  (if 10 ≤ sel.toNat ∧ sel.toNat ≤ 14 then t == .b64 else t == .b32) &&
  !(sOk d && (sel == 0 || sel == 1 || sel == 2 || sel == 10 || sel == 13))

/-- CVT's legal pairs, and .SR only into a narrower destination (R79). -/
def cvtOk (dst src : Ty) (rm : Rnd) : Bool :=
  dst.isNum && src.isNum && dst != src && (rm != .sr || !src.inside dst)

/-- CVTP's legal pairs (R79). -/
def cvtpOk (dst src : Ty) (rm : Rnd) : Bool :=
  (match src, dst with
   | .f32, .f16 | .f32, .bf16 | .f32, .e5m2 | .f32, .e4m3 | .f32, .e3m2 | .f32, .e2m3 | .f32, .e2m1 => true
   | .f32, .i16 | .f32, .n16 | .f32, .i8 | .f32, .n8 | .f32, .i4 | .f32, .n4 => true
   | .i32, .i16 | .i32, .n16 | .i32, .i8 | .i32, .n8 | .i32, .i4 | .i32, .n4 => true
   | _, _ => false) && (rm != .sr || !src.inside dst)

/-- CVTX's legal pairs and element index (R78, R79). -/
def cvtxOk (dst src : Ty) (e : BitVec 3) : Bool :=
  (match src, dst with
   | .f16, .f32 | .bf16, .f32 | .e5m2, .f32 | .e4m3, .f32 | .e3m2, .f32 | .e2m3, .f32 | .e2m1, .f32 => true
   | .i16, .f32 | .i8, .f32 | .i4, .f32 | .i16, .i32 | .i8, .i32 | .i4, .i32 => true
   | .n16, .f32 | .n8, .f32 | .n4, .f32 | .n16, .n32 | .n8, .n32 | .n4, .n32 => true
   | _, _ => false) && decide (e.toNat < 32 / src.width)

/-- DOT2's legal elements (R175). -/
def dot2Ok (acc el : Ty) : Bool :=
  match acc, el with
  | .f32, .f16 | .f32, .bf16 | .i32, .i16 | .i32, .n16 => true
  | _, _ => false

/-- DOT4's legal elements (R175). -/
def dot4Ok (acc el : Ty) (sc : Bool) : Bool :=
  match acc, el with
  | .f32, .e5m2 | .f32, .e4m3 | .f32, .e3m2 | .f32, .e2m3 => true
  | .i32, .i8 | .i32, .n8 => !sc
  | .f32, .i8 => sc
  | _, _ => false

/-- DOT8's legal elements (R175). -/
def dot8Ok (acc el : Ty) (sc : Bool) : Bool :=
  match acc, el with
  | .f32, .e2m1 => true
  | .i32, .i4 | .i32, .n4 => !sc
  | _, _ => false

/-- The term is one that an encoding stands for (R63). -/
def WellFormed : Instr → Bool
  | .nop c => c.fixed
  | .yield c => c.fixed
  | .trap c _ => c.fixed
  | .brk c => c.fixed
  | .ppoint a => sOk a
  | .exit c => c.fixed
  | .bra c disp => c.fixed && dispOk disp
  | .brx c a => c.fixed && vOk a
  | .call disp => dispOk disp
  | .ret => true
  | .rtt => true
  | .mark disp => dispOk disp
  | .join => true
  | .regang => true
  | .lnch c _ a disp => c.variable && sOk a && dispOk disp
  | .qswz c ty _ _ _ => c.fixed && ty.isB3264
  | .qbc c ty _ _ _ => c.fixed && ty.isB3264
  | .shflIdx c ty _ _ b => c.fixed && ty.isB3264 && b.fits 32
  | .shflUp c ty _ _ b => c.fixed && ty.isB3264 && b.fits 32
  | .shflDown c ty _ _ b => c.fixed && ty.isB3264 && b.fits 32
  | .shflXor c ty _ _ b => c.fixed && ty.isB3264 && b.fits 32
  | .ballot c ty _ p => c.fixed && (ty == .b32 || ty == .b128) && predOk p
  | .voteAll c pd p => c.fixed && pdReq pd && predOk p
  | .voteAny c pd p => c.fixed && pdReq pd && predOk p
  | .voteUni c pd p => c.fixed && pdReq pd && predOk p
  | .matchAny c ty _ _ => c.fixed && ty.isB3264
  | .elect c pd => c.fixed && pdReq pd
  | .reduxAdd c ty _ _ => c.fixed && ty.isInt
  | .reduxMin c ty _ _ => c.fixed && ty.isInt
  | .reduxMax c ty _ _ => c.fixed && ty.isInt
  | .reduxAnd c ty _ _ => c.fixed && ty.isInt
  | .reduxOr c ty _ _ => c.fixed && ty.isInt
  | .reduxXor c ty _ _ => c.fixed && ty.isInt
  | .scanAdd c ty _ _ _ => c.fixed && ty.isInt
  | .scanMin c ty _ _ _ => c.fixed && ty.isInt
  | .scanMax c ty _ _ _ => c.fixed && ty.isInt
  | .scanAnd c ty _ _ _ => c.fixed && ty.isInt
  | .scanOr c ty _ _ _ => c.fixed && ty.isInt
  | .scanXor c ty _ _ _ => c.fixed && ty.isInt
  | .iadd c ty _ _ _ b => c.fixed && ty.isInt && b.fits ty.width
  | .isub c ty _ _ _ b => c.fixed && ty.isInt && b.fits ty.width
  | .imul c ty _ _ _ b => c.fixed && ty.isInt && b.fits ty.width
  | .iaddc c ty _ pd _ b p => c.fixed && (ty == .n32 || ty == .n64) && predOk pd && b.fits ty.width && predOk p
  | .imulh c ty _ _ b => c.fixed && (ty == .i32 || ty == .n32) && b.fits 32
  | .imad c ty _ _ _ b _ => c.fixed && ty.isInt && b.fits ty.width
  | .imin c ty _ _ b => c.fixed && ty.isInt && b.fits ty.width
  | .imax c ty _ _ b => c.fixed && ty.isInt && b.fits ty.width
  | .iabs c ty _ _ _ => c.fixed && (ty == .i32 || ty == .i64)
  | .and c ty _ _ b => c.fixed && ty.isB3264 && b.fits ty.width
  | .or c ty _ _ b => c.fixed && ty.isB3264 && b.fits ty.width
  | .xor c ty _ _ b => c.fixed && ty.isB3264 && b.fits ty.width
  | .not c ty _ _ => c.fixed && ty.isB3264
  | .shl c ty _ _ b => c.fixed && ty.isB3264 && b.fits 32
  | .shr c ty _ _ b => c.fixed && ty.isB3264 && b.fits 32
  | .sar c ty _ _ b => c.fixed && ty.isB3264 && b.fits 32
  | .fshf c _ _ b _ => c.fixed && b.fits 32
  | .popc c ty _ _ => c.fixed && ty.isB3264
  | .clz c ty _ _ => c.fixed && ty.isB3264
  | .brev c ty _ _ => c.fixed && ty.isB3264
  | .bfe c ty _ _ pos len => c.fixed && (ty.isB3264 || ty == .i32 || ty == .i64) && decide (pos.toNat + len.toNat ≤ ty.width)
  | .bfi c ty _ _ b pos len => c.fixed && ty.isB3264 && b.fits ty.width && decide (pos.toNat + len.toNat ≤ ty.width)
  | .lea c _ _ b _ => c.fixed && b.fits 32
  | .mov c ty _ _ => c.fixed && (ty.isB3264 || ty == .b128)
  | .movi c _ _ => c.fixed
  | .sprRead c ty d sel => c.fixed && sprReadOk ty d sel
  | .sprWrite c b => c.fixed && b.fits 32
  | .isetp c ty cmp pd _ b => c.fixed && ty.isInt && decide (cmp.toNat ≤ 5) && pdReq pd && b.fits ty.width
  | .fsetp c cmp pd _ b => c.fixed && decide (cmp.toNat ≤ 13) && pdReq pd && b.fits 32
  | .dsetp c cmp pd _ _ => c.fixed && decide (cmp.toNat ≤ 13) && pdReq pd
  | .sel c ty _ _ b p => c.fixed && ty.isB3264 && b.fits ty.width && predOk p
  | .plop c pd p q r _ => c.fixed && pdReq pd && predOk p && predOk q && predOk r
  | .fadd c rm _ _ b => c.fixed && rm.det && b.fits 32
  | .fmul c rm _ _ b => c.fixed && rm.det && b.fits 32
  | .ffma c rm _ _ b _ => c.fixed && rm.det && b.fits 32
  | .fmin c _ _ b => c.fixed && b.fits 32
  | .fmax c _ _ b => c.fixed && b.fits 32
  | .fscale c rm _ _ b => c.fixed && rm.det && b.fits 32
  | .fclass c ty _ _ => c.fixed && (ty == .f32 || ty == .f64)
  | .frcp c rm _ _ => c.fixed && rm.det
  | .frsq c rm _ _ => c.fixed && rm.det
  | .fsqrt c rm _ _ => c.fixed && rm.det
  | .fexp2 c rm _ _ => c.fixed && rm.det
  | .flog2 c rm _ _ => c.fixed && rm.det
  | .fsin c rm _ _ => c.fixed && rm.det
  | .fcos c rm _ _ => c.fixed && rm.det
  | .dadd c rm _ _ _ => c.fixed && rm.det
  | .dmul c rm _ _ _ => c.fixed && rm.det
  | .dfma c rm _ _ _ _ => c.fixed && rm.det
  | .hadd2 c ty rm _ _ b => c.fixed && (ty == .f16 || ty == .bf16) && rm.det && b.fits 32
  | .hmul2 c ty rm _ _ b => c.fixed && (ty == .f16 || ty == .bf16) && rm.det && b.fits 32
  | .hfma2 c ty rm _ _ b _ => c.fixed && (ty == .f16 || ty == .bf16) && rm.det && b.fits 32
  | .cvt c ty src rm _ _ _ => c.fixed && cvtOk ty src rm
  | .cvtp c ty src rm _ _ _ b => c.fixed && cvtpOk ty src rm && b.fits 32
  | .cvtx c ty src e _ _ => c.fixed && cvtxOk ty src e
  | .dot2 c ty el _ _ b => c.fixed && dot2Ok ty el && b.fits 32
  | .dot4 c ty el sc bs _ _ b k => c.fixed && dot4Ok ty el sc && b.fits 32 && (sc || (k == 0 && bs == 0))
  | .dot8 c ty el sc bs _ _ b k => c.fixed && dot8Ok ty el sc && b.fits 32 && (sc || (k == 0 && bs == 0))
  | .ld c ty _ _ a _ => c.variable && ty.isLoad && vOk a
  | .st c ty _ a b _ => c.fixed && ty.isMemB && vOk a && storeLitOk ty b
  | .lds c ty _ a _ => c.variable && ty.isLoad && sOk a
  | .sts c ty a b _ => c.fixed && ty.isMemB && sOk a && storeLitOk ty b
  | .ldc c ty _ a _ _ => c.variable && ty.isLoad && sOk a
  | .stc c ty a b _ _ => c.fixed && ty.isMemB && sOk a && storeLitOk ty b
  | .pref c _ a _ => c.fixed && vOk a
  | .atomAdd c ty _ _ _ b => c.variable && (ty.isInt || ty == .f32) && b.fits ty.width
  | .atomMin c ty _ _ _ b => c.variable && ty.isInt && b.fits ty.width
  | .atomMax c ty _ _ _ b => c.variable && ty.isInt && b.fits ty.width
  | .atomAnd c ty _ _ _ b => c.variable && ty.isInt && b.fits ty.width
  | .atomOr c ty _ _ _ b => c.variable && ty.isInt && b.fits ty.width
  | .atomXor c ty _ _ _ b => c.variable && ty.isInt && b.fits ty.width
  | .atomExch c ty _ _ _ b => c.variable && ty.isInt && b.fits ty.width
  | .cas c ty _ _ _ b _ => c.variable && ty.isB3264 && b.fits ty.width
  | .redAdd c ty _ b _ => c.fixed && (ty.isInt || ty == .f32) && b.fits ty.width
  | .redMin c ty _ b _ => c.fixed && ty.isInt && b.fits ty.width
  | .redMax c ty _ b _ => c.fixed && ty.isInt && b.fits ty.width
  | .redAnd c ty _ b _ => c.fixed && ty.isInt && b.fits ty.width
  | .redOr c ty _ b _ => c.fixed && ty.isInt && b.fits ty.width
  | .redXor c ty _ b _ => c.fixed && ty.isInt && b.fits ty.width
  | .acq c ty h _ a _ => c.variable && ty.isB3264 && acqHintOk h a
  | .rel c ty _ b _ => c.fixed && ty.isB3264 && b.fits ty.width
  | .fence => true
  | .binit c _ a b => c.fixed && sOk a && b.fits 32
  | .arrive c _ a => c.fixed && sOk a
  | .expect c _ a b => c.fixed && sOk a && b.fits 32
  | .wait c _ pd a b => c.fixed && predOk pd && sOk a && b.fits 32
  | .rinit c _ a b k => c.fixed && sOk a && b.fits 32 && sOk k
  | .rgive c _ a => c.fixed && sOk a
  | .adecl c pd a b k lg => c.variable && pdReq pd && sOk a && b.fits 32 && sOk k && decide (4 ≤ lg.toNat ∧ lg.toNat ≤ 30)
  | .afree c pd a => c.variable && pdReq pd && sOk a
  | .astat c _ a => c.variable && sOk a
  | .arsum c _ _ pd a b _ => c.variable && predOk pd && sOk a && b.fits 32
  | .armax c _ pd a b _ => c.variable && predOk pd && sOk a && b.fits 32
  | .armin c _ pd a b _ => c.variable && predOk pd && sOk a && b.fits 32
  | .apfx c _ pd a _ => c.variable && predOk pd && sOk a
  | .apick c _ pd a b => c.variable && predOk pd && sOk a && b.fits 32
  | .htclaim c _ pd a => c.variable && pdReq pd && sOk a
  | .htfree c _ pd a => c.variable && pdReq pd && sOk a
  | .htins c _ _ _ pd _ _ => c.variable && predOk pd
  | .htprobe c _ _ pd _ => c.variable && predOk pd
  | .htdel c _ _ _ => c.variable
  | .htacc c _ _ _ _ => c.variable
  | .htaccRes c _ _ _ _ _ => c.variable
  | .htdrain c _ _ _ a bs k => c.variable && sOk a && sOk bs && sOk k
  | .htstat c _ _ => c.variable
  | .thset c _ d a => c.variable && sOk d && sOk a
  | .thget c _ a => c.variable && sOk a
  | .thdrop c a => c.variable && sOk a
  | .thdropRevoke c a => c.variable && sOk a
  | .cpy c _ a bs k => c.variable && sOk a && sOk bs && sOk k
  | .cpyg c _ a bs k => c.variable && sOk a && sOk bs && sOk k
  | .cpys c _ a bs k => c.variable && sOk a && sOk bs && sOk k
  | .cpysRadd c _ a bs k => c.variable && sOk a && sOk bs && sOk k
  | .cpyr c _ a bs k => c.variable && sOk a && sOk bs && sOk k
  | .mrsv c _ pd a bs => c.fixed && pdReq pd && sOk a && sOk bs
  | .mrel c a bs => c.fixed && sOk a && sOk bs
  | .mpri c a bs => c.fixed && sOk a && sOk bs
  | .mzero c a => c.variable && sOk a
  | .mma c _ a bs k => c.variable && sOk a && sOk bs && sOk k
  | .mmat c _ _ a bs k => c.variable && sOk a && sOk bs && sOk k
  | .mld c _ acct a bs k => c.variable && sOk a && sOk bs && sOk k && decide (acct.toNat ≤ 2)
  | .mst c _ acct a bs k => c.variable && sOk a && sOk bs && sOk k && decide (acct.toNat ≤ 2)
  | .csrr c _ _ => c.fixed
  | .csrw c _ _ => c.fixed
  | .tlbiPage c _ a => c.fixed && sOk a
  | .tlbiAll c _ a => c.fixed && sOk a
  | .l1wb c => c.fixed
  | .halt c => c.fixed
  | .clauseIssue _ _ => true
  | .regangBoundRelease _ _ => true
  | .detRegangBound _ _ => true
  | .minClockRelease _ _ => true
  | .detYield _ _ => true
  | .waitWake _ _ => true
  | .loadDataReturn _ _ => true
  | .atomicStepAtHome _ => true
  | .releaseAtHome _ => true
  | .remoteAcquire _ => true
  | .pullCore _ _ => true
  | .updateOnlyRecall _ => true
  | .l1Eviction _ _ => true
  | .homeEviction _ => true
  | .leafwrite _ => true
  | .rangeStep _ => true
  | .descendStep _ => true
  | .regionBuild _ => true
  | .swageAccept _ => true
  | .swageCredit _ _ _ => true
  | .cpyrPermit _ _ => true
  | .drainCredit _ _ => true
  | .anvilGrant _ => true
  | .passStep _ => true
  | .mmatTrigger _ _ => true
  | .anvilFaultSuspend _ => true
  | .impreciseStoreFault _ _ => true
  | .placement _ => true
  | .teamEnd _ => true
  | .launchEnd _ => true
  | .hintCheck _ _ => true
  | .preemptionRequest _ => true
  | .deadline _ => true
  | .suspension _ => true
  | .timelimit _ => true
  | .eccCorrected _ => true
  | .eccUncorrectable _ => true
  | .coreRejoin _ => true
  | .scrub _ => true
  | .linkDown _ => true
  | .peerInboundAccess _ _ _ => true
  | .hostCompletionError _ _ => true
  | .moduleReset => true
  | .thermalThrottle _ _ => true
  | .thermalStop _ _ => true
  | .powerThrottle => true
  | .eventPost _ => true
  | .launchPortWrite _ _ _ => true
  | .bar2Write _ _ _ => true
  | .bar2Read _ _ _ => true
  | .registerWrite _ _ _ => true
  | .ctxcreate _ _ => true
  | .ctxdestroy _ => true
  | .preempt _ => true
  | .hostResume _ _ => true
  | .hostReturn _ _ => true
  | .hostKill _ _ => true
  | .ptwrite _ _ _ => true
  | .invalPage _ _ => true
  | .invalAll _ => true
  | .admitApprove _ _ => true
  | .admitRefuse _ _ => true
  | .rgrantGrant _ _ => true
  | .rgrantRefuse _ _ => true
  | .frameTrap _ _ _ => true
  | .frameRecord _ _ _ => true
  | .pset _ _ => true
  | .attest _ _ _ => true
  | .errlog _ _ _ => true
  | .errlogCerts _ _ _ => true
  | .peerwinOutbound _ _ _ => true
  | .peerwinInbound _ _ _ _ => true
  | .fwstageImage _ _ _ _ => true
  | .fwstageSvn _ _ _ => true
  | .power _ _ => true
  | .storeAcknowledgement _ => true
  | .unitEnd _ => true
  | .crucibleOperationApplied _ => true
  | .linkRetry _ => true

end Sys2Proof
end

