-- ==== Sys2Proof/Decode.lean ====
section
/-!
DEFINITION. Decoding and encoding (R48 to R63). The words of an instruction become `Fields`, the same for the base and
the extended form (R50). `build` reads the operands of an assigned OP and FN; `decodeFields` accepts what it built only
when it is well formed and its own fields give back every bit, so a nonzero reserved bit refuses the encoding (R63).
-/
namespace Sys2Proof

/-- The fields of an instruction's words, base defaults filled in (R49, R50). -/
structure Fields where
  op : BitVec 6
  fn : BitVec 3
  d : BitVec 7
  a : BitVec 7
  b : BitVec 7
  c : BitVec 7
  g : BitVec 4
  gn : Bool
  pd : BitVec 4
  fs : Bool
  ty : BitVec 5
  rm : BitVec 3
  sat : Bool
  ch : BitVec 3
  rsv : BitVec 3
  w2 : BitVec 32
  lit : Option DWord
  deriving DecidableEq, Repr

/-- Word 1 and word 2 of a base form, but for the type (R50). -/
def Fields.base (op : BitVec 6) (fn : BitVec 3) : Fields :=
  { op := op, fn := fn, d := 0, a := 0, b := 0, c := 0, g := 15, gn := false, pd := 15, fs := false, ty := 0, rm := 0,
    sat := false, ch := 0, rsv := 0, w2 := 0, lit := none }

/-- The type of a code (R53). -/
def Ty.ofCode (v : BitVec 5) : Option Ty :=
  match v.toNat with
  | 1 => some .i8 | 2 => some .i16 | 3 => some .i32 | 4 => some .i64 | 5 => some .n8 | 6 => some .n16 | 7 => some .n32
  | 8 => some .n64 | 9 => some .b8 | 10 => some .b16 | 11 => some .b32 | 12 => some .b64 | 13 => some .b128
  | 14 => some .f16 | 15 => some .bf16 | 16 => some .tf32 | 17 => some .f32 | 18 => some .f64 | 19 => some .e5m2
  | 20 => some .e4m3 | 21 => some .e3m2 | 22 => some .e2m3 | 23 => some .e2m1 | 24 => some .i4 | 25 => some .n4
  | 26 => some .fx64 | _ => none

/-- The rounding code (R54). -/
def Rnd.code : Rnd → BitVec 3
  | .rne => 0 | .rtz => 1 | .rup => 2 | .rdn => 3 | .rna => 4 | .sr => 5

/-- The rounding mode of a code (R54). -/
def Rnd.ofCode (v : BitVec 3) : Option Rnd :=
  match v.toNat with
  | 0 => some .rne | 1 => some .rtz | 2 => some .rup | 3 => some .rdn | 4 => some .rna | 5 => some .sr | _ => none

/-- The hint code (R54). -/
def Hint.code : Hint → BitVec 3
  | .ca => 0 | .ro => 1 | .st => 2 | .na => 3

/-- The hint of a code (R54). -/
def Hint.ofCode (v : BitVec 3) : Option Hint :=
  match v.toNat with
  | 0 => some .ca | 1 => some .ro | 2 => some .st | 3 => some .na | _ => none

/-- The ORD code (R62). -/
def Ord.code : Ord → BitVec 32
  | .plain => 0 | .acq => 1 | .rel => 2 | .ar => 3

/-- The ORD of word 2 (R62). -/
def Ord.ofW2 (v : BitVec 32) : Ord :=
  match v.toNat % 4 with
  | 1 => .acq | 2 => .rel | 3 => .ar | _ => .plain

/-- Operand B of the fields: the literal when there is one (R52). -/
def Fields.srcB (f : Fields) : SrcB :=
  match f.lit with
  | some v => .lit v
  | none => .reg f.b

/-- Put operand B: a literal leaves the B field zero (R52). -/
def Fields.withB (f : Fields) : SrcB → Fields
  | .reg r => { f with b := r }
  | .lit v => { f with lit := some v }

/-- The guard and flag select (R50). -/
def Fields.ctl (f : Fields) : Ctl := ⟨f.g, f.gn, f.fs⟩

/-- Put the guard and flag select (R50). -/
def Fields.withCtl (f : Fields) (c : Ctl) : Fields := { f with g := c.pred, gn := c.neg, fs := c.fs }

/-- Bit `i` of word 2. -/
def Fields.bit (f : Fields) (i : Nat) : Bool := f.w2.getLsbD i

/-- Bits of word 2 from `lo` upward. -/
def Fields.sub (f : Fields) (lo n : Nat) : BitVec n := f.w2.extractLsb' lo n

/-- A predicate code in a register field (R55). -/
def pcode (r : BitVec 7) : PredCode := r.setWidth 4

/-- An instruction's fields (R49 to R51, R62). An event has none. -/
def toFields : Instr → Option Fields
  | .nop c => some (((Fields.base 0x00 0) : Fields).withCtl c)
  | .yield c => some (((Fields.base 0x00 1) : Fields).withCtl c)
  | .trap c code => some (({ Fields.base 0x00 2 with w2 := code.setWidth 32 } : Fields).withCtl c)
  | .brk c => some (((Fields.base 0x00 3) : Fields).withCtl c)
  | .ppoint a => some ({ Fields.base 0x00 4 with a := a })
  | .exit c => some (((Fields.base 0x00 5) : Fields).withCtl c)
  | .bra c disp => some (({ Fields.base 0x01 0 with w2 := disp } : Fields).withCtl c)
  | .brx c a => some (({ Fields.base 0x01 1 with a := a } : Fields).withCtl c)
  | .call disp => some ({ Fields.base 0x01 2 with w2 := disp })
  | .ret => some ((Fields.base 0x01 3))
  | .rtt => some ((Fields.base 0x01 4))
  | .mark disp => some ({ Fields.base 0x02 0 with w2 := disp })
  | .join => some ((Fields.base 0x02 1))
  | .regang => some ((Fields.base 0x02 2))
  | .lnch c d a disp => some (({ Fields.base 0x03 0 with d := d, a := a, w2 := disp } : Fields).withCtl c)
  | .qswz c ty d a pat => some (({ Fields.base 0x08 0 with d := d, a := a, ty := ty.code, w2 := pat.setWidth 32 } : Fields).withCtl c)
  | .qbc c ty d a src => some (({ Fields.base 0x08 1 with d := d, a := a, ty := ty.code, w2 := src.setWidth 32 } : Fields).withCtl c)
  | .shflIdx c ty d a b => some ((({ Fields.base 0x08 2 with d := d, a := a, ty := ty.code } : Fields).withB b : Fields).withCtl c)
  | .shflUp c ty d a b => some ((({ Fields.base 0x08 3 with d := d, a := a, ty := ty.code } : Fields).withB b : Fields).withCtl c)
  | .shflDown c ty d a b => some ((({ Fields.base 0x08 4 with d := d, a := a, ty := ty.code } : Fields).withB b : Fields).withCtl c)
  | .shflXor c ty d a b => some ((({ Fields.base 0x08 5 with d := d, a := a, ty := ty.code } : Fields).withB b : Fields).withCtl c)
  | .ballot c ty d p => some (({ Fields.base 0x09 0 with d := d, a := p.setWidth 7, ty := ty.code } : Fields).withCtl c)
  | .voteAll c pd p => some (({ Fields.base 0x09 1 with a := p.setWidth 7, pd := pd, ty := Ty.code .b32 } : Fields).withCtl c)
  | .voteAny c pd p => some (({ Fields.base 0x09 2 with a := p.setWidth 7, pd := pd, ty := Ty.code .b32 } : Fields).withCtl c)
  | .voteUni c pd p => some (({ Fields.base 0x09 3 with a := p.setWidth 7, pd := pd, ty := Ty.code .b32 } : Fields).withCtl c)
  | .matchAny c ty d a => some (({ Fields.base 0x09 4 with d := d, a := a, ty := ty.code } : Fields).withCtl c)
  | .elect c pd => some (({ Fields.base 0x09 5 with pd := pd, ty := Ty.code .b32 } : Fields).withCtl c)
  | .reduxAdd c ty d a => some (({ Fields.base 0x0A 0 with d := d, a := a, ty := ty.code } : Fields).withCtl c)
  | .reduxMin c ty d a => some (({ Fields.base 0x0A 1 with d := d, a := a, ty := ty.code } : Fields).withCtl c)
  | .reduxMax c ty d a => some (({ Fields.base 0x0A 2 with d := d, a := a, ty := ty.code } : Fields).withCtl c)
  | .reduxAnd c ty d a => some (({ Fields.base 0x0A 3 with d := d, a := a, ty := ty.code } : Fields).withCtl c)
  | .reduxOr c ty d a => some (({ Fields.base 0x0A 4 with d := d, a := a, ty := ty.code } : Fields).withCtl c)
  | .reduxXor c ty d a => some (({ Fields.base 0x0A 5 with d := d, a := a, ty := ty.code } : Fields).withCtl c)
  | .scanAdd c ty exc d a => some (({ Fields.base 0x0B 0 with d := d, a := a, ty := ty.code, w2 := flag exc 0 } : Fields).withCtl c)
  | .scanMin c ty exc d a => some (({ Fields.base 0x0B 1 with d := d, a := a, ty := ty.code, w2 := flag exc 0 } : Fields).withCtl c)
  | .scanMax c ty exc d a => some (({ Fields.base 0x0B 2 with d := d, a := a, ty := ty.code, w2 := flag exc 0 } : Fields).withCtl c)
  | .scanAnd c ty exc d a => some (({ Fields.base 0x0B 3 with d := d, a := a, ty := ty.code, w2 := flag exc 0 } : Fields).withCtl c)
  | .scanOr c ty exc d a => some (({ Fields.base 0x0B 4 with d := d, a := a, ty := ty.code, w2 := flag exc 0 } : Fields).withCtl c)
  | .scanXor c ty exc d a => some (({ Fields.base 0x0B 5 with d := d, a := a, ty := ty.code, w2 := flag exc 0 } : Fields).withCtl c)
  | .iadd c ty sat d a b => some ((({ Fields.base 0x0C 0 with d := d, a := a, ty := ty.code, sat := sat } : Fields).withB b : Fields).withCtl c)
  | .isub c ty sat d a b => some ((({ Fields.base 0x0C 2 with d := d, a := a, ty := ty.code, sat := sat } : Fields).withB b : Fields).withCtl c)
  | .imul c ty sat d a b => some ((({ Fields.base 0x0C 3 with d := d, a := a, ty := ty.code, sat := sat } : Fields).withB b : Fields).withCtl c)
  | .iaddc c ty d pd a b p => some ((({ Fields.base 0x0C 1 with d := d, a := a, c := p.setWidth 7, pd := pd, ty := ty.code } : Fields).withB b : Fields).withCtl c)
  | .imulh c ty d a b => some ((({ Fields.base 0x0C 4 with d := d, a := a, ty := ty.code } : Fields).withB b : Fields).withCtl c)
  | .imad c ty sat d a b k => some ((({ Fields.base 0x0C 5 with d := d, a := a, c := k, ty := ty.code, sat := sat } : Fields).withB b : Fields).withCtl c)
  | .imin c ty d a b => some ((({ Fields.base 0x0C 6 with d := d, a := a, ty := ty.code } : Fields).withB b : Fields).withCtl c)
  | .imax c ty d a b => some ((({ Fields.base 0x0C 7 with d := d, a := a, ty := ty.code } : Fields).withB b : Fields).withCtl c)
  | .iabs c ty sat d a => some (({ Fields.base 0x0D 0 with d := d, a := a, ty := ty.code, sat := sat } : Fields).withCtl c)
  | .and c ty d a b => some ((({ Fields.base 0x0E 0 with d := d, a := a, ty := ty.code } : Fields).withB b : Fields).withCtl c)
  | .or c ty d a b => some ((({ Fields.base 0x0E 1 with d := d, a := a, ty := ty.code } : Fields).withB b : Fields).withCtl c)
  | .xor c ty d a b => some ((({ Fields.base 0x0E 2 with d := d, a := a, ty := ty.code } : Fields).withB b : Fields).withCtl c)
  | .not c ty d a => some (({ Fields.base 0x0E 3 with d := d, a := a, ty := ty.code } : Fields).withCtl c)
  | .shl c ty d a b => some ((({ Fields.base 0x0F 0 with d := d, a := a, ty := ty.code } : Fields).withB b : Fields).withCtl c)
  | .shr c ty d a b => some ((({ Fields.base 0x0F 1 with d := d, a := a, ty := ty.code } : Fields).withB b : Fields).withCtl c)
  | .sar c ty d a b => some ((({ Fields.base 0x0F 2 with d := d, a := a, ty := ty.code } : Fields).withB b : Fields).withCtl c)
  | .fshf c d a b k => some ((({ Fields.base 0x0F 3 with d := d, a := a, c := k, ty := Ty.code .b32 } : Fields).withB b : Fields).withCtl c)
  | .popc c ty d a => some (({ Fields.base 0x10 0 with d := d, a := a, ty := ty.code } : Fields).withCtl c)
  | .clz c ty d a => some (({ Fields.base 0x10 1 with d := d, a := a, ty := ty.code } : Fields).withCtl c)
  | .brev c ty d a => some (({ Fields.base 0x10 2 with d := d, a := a, ty := ty.code } : Fields).withCtl c)
  | .bfe c ty d a pos len => some (({ Fields.base 0x10 3 with d := d, a := a, ty := ty.code, w2 := pos.setWidth 32 ||| (len.setWidth 32 <<< 8) } : Fields).withCtl c)
  | .bfi c ty d a b pos len => some ((({ Fields.base 0x10 4 with d := d, a := a, ty := ty.code, w2 := pos.setWidth 32 ||| (len.setWidth 32 <<< 8) } : Fields).withB b : Fields).withCtl c)
  | .lea c d a b sh => some ((({ Fields.base 0x11 0 with d := d, a := a, ty := Ty.code .b64, w2 := sh.setWidth 32 } : Fields).withB b : Fields).withCtl c)
  | .mov c ty d a => some (({ Fields.base 0x11 1 with d := d, a := a, ty := ty.code } : Fields).withCtl c)
  | .movi c d imm => some (({ Fields.base 0x11 2 with d := d, ty := Ty.code .b32, w2 := imm } : Fields).withCtl c)
  | .sprRead c ty d sel => some (({ Fields.base 0x12 0 with d := d, a := sel, ty := ty.code } : Fields).withCtl c)
  | .sprWrite c b => some ((({ Fields.base 0x12 1 with a := 15, ty := Ty.code .b32 } : Fields).withB b : Fields).withCtl c)
  | .isetp c ty cmp pd a b => some ((({ Fields.base 0x18 0 with a := a, pd := pd, ty := ty.code, w2 := cmp.setWidth 32 } : Fields).withB b : Fields).withCtl c)
  | .fsetp c cmp pd a b => some ((({ Fields.base 0x18 1 with a := a, pd := pd, ty := Ty.code .f32, w2 := cmp.setWidth 32 } : Fields).withB b : Fields).withCtl c)
  | .dsetp c cmp pd a b => some ((({ Fields.base 0x18 2 with a := a, pd := pd, ty := Ty.code .f64, w2 := cmp.setWidth 32 } : Fields).withB b : Fields).withCtl c)
  | .sel c ty d a b p => some ((({ Fields.base 0x19 0 with d := d, a := a, c := p.setWidth 7, ty := ty.code } : Fields).withB b : Fields).withCtl c)
  | .plop c pd p q r lut => some (({ Fields.base 0x1A 0 with a := p.setWidth 7, c := r.setWidth 7, b := q.setWidth 7, pd := pd, w2 := lut.setWidth 32 } : Fields).withCtl c)
  | .fadd c rm d a b => some ((({ Fields.base 0x1C 0 with d := d, a := a, ty := Ty.code .f32, rm := rm.code } : Fields).withB b : Fields).withCtl c)
  | .fmul c rm d a b => some ((({ Fields.base 0x1C 1 with d := d, a := a, ty := Ty.code .f32, rm := rm.code } : Fields).withB b : Fields).withCtl c)
  | .ffma c rm d a b k => some ((({ Fields.base 0x1C 2 with d := d, a := a, c := k, ty := Ty.code .f32, rm := rm.code } : Fields).withB b : Fields).withCtl c)
  | .fmin c d a b => some ((({ Fields.base 0x1C 3 with d := d, a := a, ty := Ty.code .f32 } : Fields).withB b : Fields).withCtl c)
  | .fmax c d a b => some ((({ Fields.base 0x1C 4 with d := d, a := a, ty := Ty.code .f32 } : Fields).withB b : Fields).withCtl c)
  | .fscale c rm d a b => some ((({ Fields.base 0x1C 5 with d := d, a := a, ty := Ty.code .f32, rm := rm.code } : Fields).withB b : Fields).withCtl c)
  | .fclass c ty d a => some (({ Fields.base 0x1C 6 with d := d, a := a, ty := ty.code } : Fields).withCtl c)
  | .frcp c rm d a => some (({ Fields.base 0x1D 0 with d := d, a := a, ty := Ty.code .f32, rm := rm.code } : Fields).withCtl c)
  | .frsq c rm d a => some (({ Fields.base 0x1D 1 with d := d, a := a, ty := Ty.code .f32, rm := rm.code } : Fields).withCtl c)
  | .fsqrt c rm d a => some (({ Fields.base 0x1D 2 with d := d, a := a, ty := Ty.code .f32, rm := rm.code } : Fields).withCtl c)
  | .fexp2 c rm d a => some (({ Fields.base 0x1D 3 with d := d, a := a, ty := Ty.code .f32, rm := rm.code } : Fields).withCtl c)
  | .flog2 c rm d a => some (({ Fields.base 0x1D 4 with d := d, a := a, ty := Ty.code .f32, rm := rm.code } : Fields).withCtl c)
  | .fsin c rm d a => some (({ Fields.base 0x1D 5 with d := d, a := a, ty := Ty.code .f32, rm := rm.code } : Fields).withCtl c)
  | .fcos c rm d a => some (({ Fields.base 0x1D 6 with d := d, a := a, ty := Ty.code .f32, rm := rm.code } : Fields).withCtl c)
  | .dadd c rm d a b => some ((({ Fields.base 0x1E 0 with d := d, a := a, ty := Ty.code .f64, rm := rm.code } : Fields).withB b : Fields).withCtl c)
  | .dmul c rm d a b => some ((({ Fields.base 0x1E 1 with d := d, a := a, ty := Ty.code .f64, rm := rm.code } : Fields).withB b : Fields).withCtl c)
  | .dfma c rm d a b k => some ((({ Fields.base 0x1E 2 with d := d, a := a, c := k, ty := Ty.code .f64, rm := rm.code } : Fields).withB b : Fields).withCtl c)
  | .hadd2 c ty rm d a b => some ((({ Fields.base 0x1F 0 with d := d, a := a, ty := ty.code, rm := rm.code } : Fields).withB b : Fields).withCtl c)
  | .hmul2 c ty rm d a b => some ((({ Fields.base 0x1F 1 with d := d, a := a, ty := ty.code, rm := rm.code } : Fields).withB b : Fields).withCtl c)
  | .hfma2 c ty rm d a b k => some ((({ Fields.base 0x1F 2 with d := d, a := a, c := k, ty := ty.code, rm := rm.code } : Fields).withB b : Fields).withCtl c)
  | .cvt c ty src rm sat d a => some (({ Fields.base 0x28 0 with d := d, a := a, ty := ty.code, rm := rm.code, sat := sat, w2 := src.code.setWidth 32 } : Fields).withCtl c)
  | .cvtp c ty src rm sat d a b => some ((({ Fields.base 0x28 1 with d := d, a := a, ty := ty.code, rm := rm.code, sat := sat, w2 := src.code.setWidth 32 } : Fields).withB b : Fields).withCtl c)
  | .cvtx c ty src e d a => some (({ Fields.base 0x28 2 with d := d, a := a, ty := ty.code, w2 := src.code.setWidth 32 ||| (e.setWidth 32 <<< 5) } : Fields).withCtl c)
  | .dot2 c ty el d a b => some ((({ Fields.base 0x29 0 with d := d, a := a, ty := ty.code, w2 := el.code.setWidth 32 } : Fields).withB b : Fields).withCtl c)
  | .dot4 c ty el sc bs d a b k => some ((({ Fields.base 0x29 1 with d := d, a := a, c := k, ty := ty.code, w2 := el.code.setWidth 32 ||| (bs.setWidth 32 <<< 5) ||| flag sc 7 } : Fields).withB b : Fields).withCtl c)
  | .dot8 c ty el sc bs d a b k => some ((({ Fields.base 0x29 2 with d := d, a := a, c := k, ty := ty.code, w2 := el.code.setWidth 32 ||| (bs.setWidth 32 <<< 5) ||| flag sc 7 } : Fields).withB b : Fields).withCtl c)
  | .ld c ty h d a off => some (({ Fields.base 0x2C 0 with d := d, a := a, ty := ty.code, ch := h.code, w2 := off } : Fields).withCtl c)
  | .st c ty h a b off => some ((({ Fields.base 0x2C 1 with a := a, ty := ty.code, ch := h.code, w2 := off } : Fields).withB b : Fields).withCtl c)
  | .lds c ty d a off => some (({ Fields.base 0x2D 0 with d := d, a := a, ty := ty.code, w2 := off } : Fields).withCtl c)
  | .sts c ty a b off => some ((({ Fields.base 0x2D 1 with a := a, ty := ty.code, w2 := off } : Fields).withB b : Fields).withCtl c)
  | .ldc c ty d a slot off => some (({ Fields.base 0x2E 0 with d := d, a := a, c := slot.setWidth 7, ty := ty.code, w2 := off } : Fields).withCtl c)
  | .stc c ty a b slot off => some ((({ Fields.base 0x2E 1 with a := a, c := slot.setWidth 7, ty := ty.code, w2 := off } : Fields).withB b : Fields).withCtl c)
  | .pref c h a off => some (({ Fields.base 0x2F 0 with a := a, ch := h.code, w2 := off } : Fields).withCtl c)
  | .atomAdd c ty ord d a b => some ((({ Fields.base 0x34 0 with d := d, a := a, ty := ty.code, w2 := ord.code } : Fields).withB b : Fields).withCtl c)
  | .atomMin c ty ord d a b => some ((({ Fields.base 0x34 1 with d := d, a := a, ty := ty.code, w2 := ord.code } : Fields).withB b : Fields).withCtl c)
  | .atomMax c ty ord d a b => some ((({ Fields.base 0x34 2 with d := d, a := a, ty := ty.code, w2 := ord.code } : Fields).withB b : Fields).withCtl c)
  | .atomAnd c ty ord d a b => some ((({ Fields.base 0x34 3 with d := d, a := a, ty := ty.code, w2 := ord.code } : Fields).withB b : Fields).withCtl c)
  | .atomOr c ty ord d a b => some ((({ Fields.base 0x34 4 with d := d, a := a, ty := ty.code, w2 := ord.code } : Fields).withB b : Fields).withCtl c)
  | .atomXor c ty ord d a b => some ((({ Fields.base 0x34 5 with d := d, a := a, ty := ty.code, w2 := ord.code } : Fields).withB b : Fields).withCtl c)
  | .atomExch c ty ord d a b => some ((({ Fields.base 0x34 6 with d := d, a := a, ty := ty.code, w2 := ord.code } : Fields).withB b : Fields).withCtl c)
  | .cas c ty ord d a b k => some ((({ Fields.base 0x34 7 with d := d, a := a, c := k, ty := ty.code, w2 := ord.code } : Fields).withB b : Fields).withCtl c)
  | .redAdd c ty a b off => some ((({ Fields.base 0x35 0 with a := a, ty := ty.code, w2 := off } : Fields).withB b : Fields).withCtl c)
  | .redMin c ty a b off => some ((({ Fields.base 0x35 1 with a := a, ty := ty.code, w2 := off } : Fields).withB b : Fields).withCtl c)
  | .redMax c ty a b off => some ((({ Fields.base 0x35 2 with a := a, ty := ty.code, w2 := off } : Fields).withB b : Fields).withCtl c)
  | .redAnd c ty a b off => some ((({ Fields.base 0x35 3 with a := a, ty := ty.code, w2 := off } : Fields).withB b : Fields).withCtl c)
  | .redOr c ty a b off => some ((({ Fields.base 0x35 4 with a := a, ty := ty.code, w2 := off } : Fields).withB b : Fields).withCtl c)
  | .redXor c ty a b off => some ((({ Fields.base 0x35 5 with a := a, ty := ty.code, w2 := off } : Fields).withB b : Fields).withCtl c)
  | .acq c ty h d a off => some (({ Fields.base 0x35 6 with d := d, a := a, ty := ty.code, ch := h.code, w2 := off } : Fields).withCtl c)
  | .rel c ty a b off => some ((({ Fields.base 0x35 7 with a := a, ty := ty.code, w2 := off } : Fields).withB b : Fields).withCtl c)
  | .fence => some ((Fields.base 0x36 0))
  | .binit c gl a b => some ((({ Fields.base 0x36 1 with a := a, w2 := flag gl 0 } : Fields).withB b : Fields).withCtl c)
  | .arrive c gl a => some (({ Fields.base 0x36 2 with a := a, w2 := flag gl 0 } : Fields).withCtl c)
  | .expect c gl a b => some ((({ Fields.base 0x36 3 with a := a, w2 := flag gl 0 } : Fields).withB b : Fields).withCtl c)
  | .wait c gl pd a b => some ((({ Fields.base 0x36 4 with a := a, pd := pd, w2 := flag gl 0 } : Fields).withB b : Fields).withCtl c)
  | .rinit c gl a b k => some ((({ Fields.base 0x36 5 with a := a, c := k, w2 := flag gl 0 } : Fields).withB b : Fields).withCtl c)
  | .rgive c gl a => some (({ Fields.base 0x36 6 with a := a, w2 := flag gl 0 } : Fields).withCtl c)
  | .adecl c pd a b k lg => some ((({ Fields.base 0x38 0 with a := a, c := k, pd := pd, w2 := lg.setWidth 32 } : Fields).withB b : Fields).withCtl c)
  | .afree c pd a => some (({ Fields.base 0x38 1 with a := a, pd := pd } : Fields).withCtl c)
  | .astat c d a => some (({ Fields.base 0x38 2 with d := d, a := a } : Fields).withCtl c)
  | .arsum c fx d pd a b k => some ((({ Fields.base 0x39 0 with d := d, a := a, c := k, pd := pd, w2 := flag fx 0 } : Fields).withB b : Fields).withCtl c)
  | .armax c d pd a b k => some ((({ Fields.base 0x39 1 with d := d, a := a, c := k, pd := pd } : Fields).withB b : Fields).withCtl c)
  | .armin c d pd a b k => some ((({ Fields.base 0x39 2 with d := d, a := a, c := k, pd := pd } : Fields).withB b : Fields).withCtl c)
  | .apfx c d pd a b => some ((({ Fields.base 0x39 3 with d := d, a := a, pd := pd } : Fields).withB b : Fields).withCtl c)
  | .apick c d pd a b => some ((({ Fields.base 0x39 4 with d := d, a := a, pd := pd } : Fields).withB b : Fields).withCtl c)
  | .htclaim c tab pd a => some (({ Fields.base 0x3A 0 with a := a, pd := pd, w2 := tab.setWidth 32 } : Fields).withCtl c)
  | .htfree c tab pd a => some (({ Fields.base 0x3A 1 with a := a, pd := pd, w2 := tab.setWidth 32 } : Fields).withCtl c)
  | .htins c tab raw d pd a b => some ((({ Fields.base 0x3A 2 with d := d, a := a, pd := pd, w2 := tab.setWidth 32 ||| flag raw 3 } : Fields).withB b : Fields).withCtl c)
  | .htprobe c tab d pd a => some (({ Fields.base 0x3A 3 with d := d, a := a, pd := pd, w2 := tab.setWidth 32 } : Fields).withCtl c)
  | .htdel c tab d a => some (({ Fields.base 0x3A 4 with d := d, a := a, w2 := tab.setWidth 32 } : Fields).withCtl c)
  | .htacc c tab raw a b => some ((({ Fields.base 0x3A 5 with a := a, w2 := tab.setWidth 32 ||| flag raw 3 } : Fields).withB b : Fields).withCtl c)
  | .htaccRes c tab raw d a b => some ((({ Fields.base 0x3A 5 with d := d, a := a, w2 := tab.setWidth 32 ||| 4 ||| flag raw 3 } : Fields).withB b : Fields).withCtl c)
  | .htdrain c tab dgl bgl a bs k => some (({ Fields.base 0x3A 6 with a := a, c := k, b := bs, w2 := tab.setWidth 32 ||| flag dgl 2 ||| flag bgl 3 } : Fields).withCtl c)
  | .htstat c tab d => some (({ Fields.base 0x3A 7 with d := d, w2 := tab.setWidth 32 } : Fields).withCtl c)
  | .thset c slot d a => some (({ Fields.base 0x3B 0 with d := d, a := a, w2 := slot.setWidth 32 } : Fields).withCtl c)
  | .thget c d a => some (({ Fields.base 0x3B 1 with d := d, a := a } : Fields).withCtl c)
  | .thdrop c a => some (({ Fields.base 0x3B 2 with a := a } : Fields).withCtl c)
  | .thdropRevoke c a => some (({ Fields.base 0x3B 2 with a := a, w2 := 1 } : Fields).withCtl c)
  | .cpy c bgl a bs k => some (({ Fields.base 0x3B 3 with a := a, c := k, b := bs, w2 := flag bgl 0 } : Fields).withCtl c)
  | .cpyg c bgl a bs k => some (({ Fields.base 0x3B 4 with a := a, c := k, b := bs, w2 := flag bgl 0 } : Fields).withCtl c)
  | .cpys c bgl a bs k => some (({ Fields.base 0x3B 5 with a := a, c := k, b := bs, w2 := flag bgl 0 } : Fields).withCtl c)
  | .cpysRadd c bgl a bs k => some (({ Fields.base 0x3B 5 with a := a, c := k, b := bs, w2 := flag bgl 0 ||| 2 } : Fields).withCtl c)
  | .cpyr c bgl a bs k => some (({ Fields.base 0x3B 6 with a := a, c := k, b := bs, w2 := flag bgl 0 } : Fields).withCtl c)
  | .mrsv c wide pd a bs => some (({ Fields.base 0x3C 0 with a := a, b := bs, pd := pd, w2 := flag wide 0 } : Fields).withCtl c)
  | .mrel c a bs => some (({ Fields.base 0x3C 1 with a := a, b := bs } : Fields).withCtl c)
  | .mpri c a bs => some (({ Fields.base 0x3C 2 with a := a, b := bs } : Fields).withCtl c)
  | .mzero c a => some (({ Fields.base 0x3C 3 with a := a } : Fields).withCtl c)
  | .mma c tile a bs k => some (({ Fields.base 0x3D 0 with a := a, c := k, b := bs, w2 := tile.setWidth 32 } : Fields).withCtl c)
  | .mmat c tile bgl a bs k => some (({ Fields.base 0x3D 1 with a := a, c := k, b := bs, w2 := tile.setWidth 32 ||| flag bgl 3 } : Fields).withCtl c)
  | .mld c tile acct a bs k => some (({ Fields.base 0x3D 2 with a := a, c := k, b := bs, w2 := tile.setWidth 32 ||| (acct.setWidth 32 <<< 3) } : Fields).withCtl c)
  | .mst c tile acct a bs k => some (({ Fields.base 0x3D 3 with a := a, c := k, b := bs, w2 := tile.setWidth 32 ||| (acct.setWidth 32 <<< 3) } : Fields).withCtl c)
  | .csrr c d csr => some (({ Fields.base 0x3E 0 with d := d, w2 := csr.setWidth 32 } : Fields).withCtl c)
  | .csrw c a csr => some (({ Fields.base 0x3E 1 with a := a, w2 := csr.setWidth 32 } : Fields).withCtl c)
  | .tlbiPage c loc a => some (({ Fields.base 0x3E 2 with a := a, w2 := flag loc 2 } : Fields).withCtl c)
  | .tlbiAll c loc a => some (({ Fields.base 0x3E 2 with a := a, w2 := 1 ||| flag loc 2 } : Fields).withCtl c)
  | .l1wb c => some (((Fields.base 0x3E 3) : Fields).withCtl c)
  | .halt c => some (((Fields.base 0x3E 4) : Fields).withCtl c)
  | .clauseIssue _ _ => none
  | .regangBoundRelease _ _ => none
  | .detRegangBound _ _ => none
  | .minClockRelease _ _ => none
  | .detYield _ _ => none
  | .waitWake _ _ => none
  | .loadDataReturn _ _ => none
  | .atomicStepAtHome _ => none
  | .releaseAtHome _ => none
  | .remoteAcquire _ => none
  | .pullCore _ _ => none
  | .updateOnlyRecall _ => none
  | .l1Eviction _ _ => none
  | .homeEviction _ => none
  | .leafwrite _ => none
  | .rangeStep _ => none
  | .descendStep _ => none
  | .regionBuild _ => none
  | .swageAccept _ => none
  | .swageCredit _ _ _ => none
  | .cpyrPermit _ _ => none
  | .drainCredit _ _ => none
  | .anvilGrant _ => none
  | .passStep _ => none
  | .mmatTrigger _ _ => none
  | .anvilFaultSuspend _ => none
  | .impreciseStoreFault _ _ => none
  | .placement _ => none
  | .teamEnd _ => none
  | .launchEnd _ => none
  | .hintCheck _ _ => none
  | .preemptionRequest _ => none
  | .deadline _ => none
  | .suspension _ => none
  | .timelimit _ => none
  | .eccCorrected _ => none
  | .eccUncorrectable _ => none
  | .coreRejoin _ => none
  | .scrub _ => none
  | .linkDown _ => none
  | .peerInboundAccess _ _ _ => none
  | .hostCompletionError _ _ => none
  | .moduleReset => none
  | .thermalThrottle _ _ => none
  | .thermalStop _ _ => none
  | .powerThrottle => none
  | .eventPost _ => none
  | .launchPortWrite _ _ _ => none
  | .bar2Write _ _ _ => none
  | .bar2Read _ _ _ => none
  | .registerWrite _ _ _ => none
  | .ctxcreate _ _ => none
  | .ctxdestroy _ => none
  | .preempt _ => none
  | .hostResume _ _ => none
  | .hostReturn _ _ => none
  | .hostKill _ _ => none
  | .ptwrite _ _ _ => none
  | .invalPage _ _ => none
  | .invalAll _ => none
  | .admitApprove _ _ => none
  | .admitRefuse _ _ => none
  | .rgrantGrant _ _ => none
  | .rgrantRefuse _ _ => none
  | .frameTrap _ _ _ => none
  | .frameRecord _ _ _ => none
  | .pset _ _ => none
  | .attest _ _ _ => none
  | .errlog _ _ _ => none
  | .errlogCerts _ _ _ => none
  | .peerwinOutbound _ _ _ => none
  | .peerwinInbound _ _ _ _ => none
  | .fwstageImage _ _ _ _ => none
  | .fwstageSvn _ _ _ => none
  | .power _ _ => none
  | .storeAcknowledgement _ => none
  | .unitEnd _ => none
  | .crucibleOperationApplied _ => none
  | .linkRetry _ => none

/-- The operands of an assigned OP and FN (R62); none for an unassigned pair or an unassigned code. -/
def build (f : Fields) : Option Instr :=
  match f.op.toNat, f.fn.toNat with
  | 0x00, 0 => some (.nop f.ctl)
  | 0x00, 1 => some (.yield f.ctl)
  | 0x00, 2 => some (.trap f.ctl (f.sub 0 8))
  | 0x00, 3 => some (.brk f.ctl)
  | 0x00, 4 => some (.ppoint f.a)
  | 0x00, 5 => some (.exit f.ctl)
  | 0x01, 0 => some (.bra f.ctl f.w2)
  | 0x01, 1 => some (.brx f.ctl f.a)
  | 0x01, 2 => some (.call f.w2)
  | 0x01, 3 => some .ret
  | 0x01, 4 => some .rtt
  | 0x02, 0 => some (.mark f.w2)
  | 0x02, 1 => some .join
  | 0x02, 2 => some .regang
  | 0x03, 0 => some (.lnch f.ctl f.d f.a f.w2)
  | 0x08, 0 => (Ty.ofCode f.ty).bind fun ty => some (.qswz f.ctl ty f.d f.a (f.sub 0 8))
  | 0x08, 1 => (Ty.ofCode f.ty).bind fun ty => some (.qbc f.ctl ty f.d f.a (f.sub 0 2))
  | 0x08, 2 => (Ty.ofCode f.ty).bind fun ty => some (.shflIdx f.ctl ty f.d f.a f.srcB)
  | 0x08, 3 => (Ty.ofCode f.ty).bind fun ty => some (.shflUp f.ctl ty f.d f.a f.srcB)
  | 0x08, 4 => (Ty.ofCode f.ty).bind fun ty => some (.shflDown f.ctl ty f.d f.a f.srcB)
  | 0x08, 5 => (Ty.ofCode f.ty).bind fun ty => some (.shflXor f.ctl ty f.d f.a f.srcB)
  | 0x09, 0 => (Ty.ofCode f.ty).bind fun ty => some (.ballot f.ctl ty f.d (pcode f.a))
  | 0x09, 1 => some (.voteAll f.ctl f.pd (pcode f.a))
  | 0x09, 2 => some (.voteAny f.ctl f.pd (pcode f.a))
  | 0x09, 3 => some (.voteUni f.ctl f.pd (pcode f.a))
  | 0x09, 4 => (Ty.ofCode f.ty).bind fun ty => some (.matchAny f.ctl ty f.d f.a)
  | 0x09, 5 => some (.elect f.ctl f.pd)
  | 0x0A, 0 => (Ty.ofCode f.ty).bind fun ty => some (.reduxAdd f.ctl ty f.d f.a)
  | 0x0A, 1 => (Ty.ofCode f.ty).bind fun ty => some (.reduxMin f.ctl ty f.d f.a)
  | 0x0A, 2 => (Ty.ofCode f.ty).bind fun ty => some (.reduxMax f.ctl ty f.d f.a)
  | 0x0A, 3 => (Ty.ofCode f.ty).bind fun ty => some (.reduxAnd f.ctl ty f.d f.a)
  | 0x0A, 4 => (Ty.ofCode f.ty).bind fun ty => some (.reduxOr f.ctl ty f.d f.a)
  | 0x0A, 5 => (Ty.ofCode f.ty).bind fun ty => some (.reduxXor f.ctl ty f.d f.a)
  | 0x0B, 0 => (Ty.ofCode f.ty).bind fun ty => some (.scanAdd f.ctl ty (f.bit 0) f.d f.a)
  | 0x0B, 1 => (Ty.ofCode f.ty).bind fun ty => some (.scanMin f.ctl ty (f.bit 0) f.d f.a)
  | 0x0B, 2 => (Ty.ofCode f.ty).bind fun ty => some (.scanMax f.ctl ty (f.bit 0) f.d f.a)
  | 0x0B, 3 => (Ty.ofCode f.ty).bind fun ty => some (.scanAnd f.ctl ty (f.bit 0) f.d f.a)
  | 0x0B, 4 => (Ty.ofCode f.ty).bind fun ty => some (.scanOr f.ctl ty (f.bit 0) f.d f.a)
  | 0x0B, 5 => (Ty.ofCode f.ty).bind fun ty => some (.scanXor f.ctl ty (f.bit 0) f.d f.a)
  | 0x0C, 0 => (Ty.ofCode f.ty).bind fun ty => some (.iadd f.ctl ty f.sat f.d f.a f.srcB)
  | 0x0C, 2 => (Ty.ofCode f.ty).bind fun ty => some (.isub f.ctl ty f.sat f.d f.a f.srcB)
  | 0x0C, 3 => (Ty.ofCode f.ty).bind fun ty => some (.imul f.ctl ty f.sat f.d f.a f.srcB)
  | 0x0C, 1 => (Ty.ofCode f.ty).bind fun ty => some (.iaddc f.ctl ty f.d f.pd f.a f.srcB (pcode f.c))
  | 0x0C, 4 => (Ty.ofCode f.ty).bind fun ty => some (.imulh f.ctl ty f.d f.a f.srcB)
  | 0x0C, 5 => (Ty.ofCode f.ty).bind fun ty => some (.imad f.ctl ty f.sat f.d f.a f.srcB f.c)
  | 0x0C, 6 => (Ty.ofCode f.ty).bind fun ty => some (.imin f.ctl ty f.d f.a f.srcB)
  | 0x0C, 7 => (Ty.ofCode f.ty).bind fun ty => some (.imax f.ctl ty f.d f.a f.srcB)
  | 0x0D, 0 => (Ty.ofCode f.ty).bind fun ty => some (.iabs f.ctl ty f.sat f.d f.a)
  | 0x0E, 0 => (Ty.ofCode f.ty).bind fun ty => some (.and f.ctl ty f.d f.a f.srcB)
  | 0x0E, 1 => (Ty.ofCode f.ty).bind fun ty => some (.or f.ctl ty f.d f.a f.srcB)
  | 0x0E, 2 => (Ty.ofCode f.ty).bind fun ty => some (.xor f.ctl ty f.d f.a f.srcB)
  | 0x0E, 3 => (Ty.ofCode f.ty).bind fun ty => some (.not f.ctl ty f.d f.a)
  | 0x0F, 0 => (Ty.ofCode f.ty).bind fun ty => some (.shl f.ctl ty f.d f.a f.srcB)
  | 0x0F, 1 => (Ty.ofCode f.ty).bind fun ty => some (.shr f.ctl ty f.d f.a f.srcB)
  | 0x0F, 2 => (Ty.ofCode f.ty).bind fun ty => some (.sar f.ctl ty f.d f.a f.srcB)
  | 0x0F, 3 => some (.fshf f.ctl f.d f.a f.srcB f.c)
  | 0x10, 0 => (Ty.ofCode f.ty).bind fun ty => some (.popc f.ctl ty f.d f.a)
  | 0x10, 1 => (Ty.ofCode f.ty).bind fun ty => some (.clz f.ctl ty f.d f.a)
  | 0x10, 2 => (Ty.ofCode f.ty).bind fun ty => some (.brev f.ctl ty f.d f.a)
  | 0x10, 3 => (Ty.ofCode f.ty).bind fun ty => some (.bfe f.ctl ty f.d f.a (f.sub 0 6) (f.sub 8 7))
  | 0x10, 4 => (Ty.ofCode f.ty).bind fun ty => some (.bfi f.ctl ty f.d f.a f.srcB (f.sub 0 6) (f.sub 8 7))
  | 0x11, 0 => some (.lea f.ctl f.d f.a f.srcB (f.sub 0 5))
  | 0x11, 1 => (Ty.ofCode f.ty).bind fun ty => some (.mov f.ctl ty f.d f.a)
  | 0x11, 2 => some (.movi f.ctl f.d f.w2)
  | 0x12, 0 => (Ty.ofCode f.ty).bind fun ty => some (.sprRead f.ctl ty f.d f.a)
  | 0x12, 1 => some (.sprWrite f.ctl f.srcB)
  | 0x18, 0 => (Ty.ofCode f.ty).bind fun ty => some (.isetp f.ctl ty (f.sub 0 4) f.pd f.a f.srcB)
  | 0x18, 1 => some (.fsetp f.ctl (f.sub 0 4) f.pd f.a f.srcB)
  | 0x18, 2 => some (.dsetp f.ctl (f.sub 0 4) f.pd f.a f.srcB)
  | 0x19, 0 => (Ty.ofCode f.ty).bind fun ty => some (.sel f.ctl ty f.d f.a f.srcB (pcode f.c))
  | 0x1A, 0 => some (.plop f.ctl f.pd (pcode f.a) (pcode f.b) (pcode f.c) (f.sub 0 8))
  | 0x1C, 0 => (Rnd.ofCode f.rm).bind fun rm => some (.fadd f.ctl rm f.d f.a f.srcB)
  | 0x1C, 1 => (Rnd.ofCode f.rm).bind fun rm => some (.fmul f.ctl rm f.d f.a f.srcB)
  | 0x1C, 2 => (Rnd.ofCode f.rm).bind fun rm => some (.ffma f.ctl rm f.d f.a f.srcB f.c)
  | 0x1C, 3 => some (.fmin f.ctl f.d f.a f.srcB)
  | 0x1C, 4 => some (.fmax f.ctl f.d f.a f.srcB)
  | 0x1C, 5 => (Rnd.ofCode f.rm).bind fun rm => some (.fscale f.ctl rm f.d f.a f.srcB)
  | 0x1C, 6 => (Ty.ofCode f.ty).bind fun ty => some (.fclass f.ctl ty f.d f.a)
  | 0x1D, 0 => (Rnd.ofCode f.rm).bind fun rm => some (.frcp f.ctl rm f.d f.a)
  | 0x1D, 1 => (Rnd.ofCode f.rm).bind fun rm => some (.frsq f.ctl rm f.d f.a)
  | 0x1D, 2 => (Rnd.ofCode f.rm).bind fun rm => some (.fsqrt f.ctl rm f.d f.a)
  | 0x1D, 3 => (Rnd.ofCode f.rm).bind fun rm => some (.fexp2 f.ctl rm f.d f.a)
  | 0x1D, 4 => (Rnd.ofCode f.rm).bind fun rm => some (.flog2 f.ctl rm f.d f.a)
  | 0x1D, 5 => (Rnd.ofCode f.rm).bind fun rm => some (.fsin f.ctl rm f.d f.a)
  | 0x1D, 6 => (Rnd.ofCode f.rm).bind fun rm => some (.fcos f.ctl rm f.d f.a)
  | 0x1E, 0 => (Rnd.ofCode f.rm).bind fun rm => some (.dadd f.ctl rm f.d f.a f.srcB)
  | 0x1E, 1 => (Rnd.ofCode f.rm).bind fun rm => some (.dmul f.ctl rm f.d f.a f.srcB)
  | 0x1E, 2 => (Rnd.ofCode f.rm).bind fun rm => some (.dfma f.ctl rm f.d f.a f.srcB f.c)
  | 0x1F, 0 => (Ty.ofCode f.ty).bind fun ty => (Rnd.ofCode f.rm).bind fun rm => some (.hadd2 f.ctl ty rm f.d f.a f.srcB)
  | 0x1F, 1 => (Ty.ofCode f.ty).bind fun ty => (Rnd.ofCode f.rm).bind fun rm => some (.hmul2 f.ctl ty rm f.d f.a f.srcB)
  | 0x1F, 2 => (Ty.ofCode f.ty).bind fun ty => (Rnd.ofCode f.rm).bind fun rm => some (.hfma2 f.ctl ty rm f.d f.a f.srcB f.c)
  | 0x28, 0 => (Ty.ofCode f.ty).bind fun ty => (Ty.ofCode (f.sub 0 5)).bind fun src => (Rnd.ofCode f.rm).bind fun rm => some (.cvt f.ctl ty src rm f.sat f.d f.a)
  | 0x28, 1 => (Ty.ofCode f.ty).bind fun ty => (Ty.ofCode (f.sub 0 5)).bind fun src => (Rnd.ofCode f.rm).bind fun rm => some (.cvtp f.ctl ty src rm f.sat f.d f.a f.srcB)
  | 0x28, 2 => (Ty.ofCode f.ty).bind fun ty => (Ty.ofCode (f.sub 0 5)).bind fun src => some (.cvtx f.ctl ty src (f.sub 5 3) f.d f.a)
  | 0x29, 0 => (Ty.ofCode f.ty).bind fun ty => (Ty.ofCode (f.sub 0 5)).bind fun el => some (.dot2 f.ctl ty el f.d f.a f.srcB)
  | 0x29, 1 => (Ty.ofCode f.ty).bind fun ty => (Ty.ofCode (f.sub 0 5)).bind fun el => some (.dot4 f.ctl ty el (f.bit 7) (f.sub 5 2) f.d f.a f.srcB f.c)
  | 0x29, 2 => (Ty.ofCode f.ty).bind fun ty => (Ty.ofCode (f.sub 0 5)).bind fun el => some (.dot8 f.ctl ty el (f.bit 7) (f.sub 5 2) f.d f.a f.srcB f.c)
  | 0x2C, 0 => (Ty.ofCode f.ty).bind fun ty => (Hint.ofCode f.ch).bind fun h => some (.ld f.ctl ty h f.d f.a f.w2)
  | 0x2C, 1 => (Ty.ofCode f.ty).bind fun ty => (Hint.ofCode f.ch).bind fun h => some (.st f.ctl ty h f.a f.srcB f.w2)
  | 0x2D, 0 => (Ty.ofCode f.ty).bind fun ty => some (.lds f.ctl ty f.d f.a f.w2)
  | 0x2D, 1 => (Ty.ofCode f.ty).bind fun ty => some (.sts f.ctl ty f.a f.srcB f.w2)
  | 0x2E, 0 => (Ty.ofCode f.ty).bind fun ty => some (.ldc f.ctl ty f.d f.a (f.c.setWidth 2) f.w2)
  | 0x2E, 1 => (Ty.ofCode f.ty).bind fun ty => some (.stc f.ctl ty f.a f.srcB (f.c.setWidth 2) f.w2)
  | 0x2F, 0 => (Hint.ofCode f.ch).bind fun h => some (.pref f.ctl h f.a f.w2)
  | 0x34, 0 => (Ty.ofCode f.ty).bind fun ty => some (.atomAdd f.ctl ty (Ord.ofW2 f.w2) f.d f.a f.srcB)
  | 0x34, 1 => (Ty.ofCode f.ty).bind fun ty => some (.atomMin f.ctl ty (Ord.ofW2 f.w2) f.d f.a f.srcB)
  | 0x34, 2 => (Ty.ofCode f.ty).bind fun ty => some (.atomMax f.ctl ty (Ord.ofW2 f.w2) f.d f.a f.srcB)
  | 0x34, 3 => (Ty.ofCode f.ty).bind fun ty => some (.atomAnd f.ctl ty (Ord.ofW2 f.w2) f.d f.a f.srcB)
  | 0x34, 4 => (Ty.ofCode f.ty).bind fun ty => some (.atomOr f.ctl ty (Ord.ofW2 f.w2) f.d f.a f.srcB)
  | 0x34, 5 => (Ty.ofCode f.ty).bind fun ty => some (.atomXor f.ctl ty (Ord.ofW2 f.w2) f.d f.a f.srcB)
  | 0x34, 6 => (Ty.ofCode f.ty).bind fun ty => some (.atomExch f.ctl ty (Ord.ofW2 f.w2) f.d f.a f.srcB)
  | 0x34, 7 => (Ty.ofCode f.ty).bind fun ty => some (.cas f.ctl ty (Ord.ofW2 f.w2) f.d f.a f.srcB f.c)
  | 0x35, 0 => (Ty.ofCode f.ty).bind fun ty => some (.redAdd f.ctl ty f.a f.srcB f.w2)
  | 0x35, 1 => (Ty.ofCode f.ty).bind fun ty => some (.redMin f.ctl ty f.a f.srcB f.w2)
  | 0x35, 2 => (Ty.ofCode f.ty).bind fun ty => some (.redMax f.ctl ty f.a f.srcB f.w2)
  | 0x35, 3 => (Ty.ofCode f.ty).bind fun ty => some (.redAnd f.ctl ty f.a f.srcB f.w2)
  | 0x35, 4 => (Ty.ofCode f.ty).bind fun ty => some (.redOr f.ctl ty f.a f.srcB f.w2)
  | 0x35, 5 => (Ty.ofCode f.ty).bind fun ty => some (.redXor f.ctl ty f.a f.srcB f.w2)
  | 0x35, 6 => (Ty.ofCode f.ty).bind fun ty => (Hint.ofCode f.ch).bind fun h => some (.acq f.ctl ty h f.d f.a f.w2)
  | 0x35, 7 => (Ty.ofCode f.ty).bind fun ty => some (.rel f.ctl ty f.a f.srcB f.w2)
  | 0x36, 0 => some .fence
  | 0x36, 1 => some (.binit f.ctl (f.bit 0) f.a f.srcB)
  | 0x36, 2 => some (.arrive f.ctl (f.bit 0) f.a)
  | 0x36, 3 => some (.expect f.ctl (f.bit 0) f.a f.srcB)
  | 0x36, 4 => some (.wait f.ctl (f.bit 0) f.pd f.a f.srcB)
  | 0x36, 5 => some (.rinit f.ctl (f.bit 0) f.a f.srcB f.c)
  | 0x36, 6 => some (.rgive f.ctl (f.bit 0) f.a)
  | 0x38, 0 => some (.adecl f.ctl f.pd f.a f.srcB f.c (f.sub 0 5))
  | 0x38, 1 => some (.afree f.ctl f.pd f.a)
  | 0x38, 2 => some (.astat f.ctl f.d f.a)
  | 0x39, 0 => some (.arsum f.ctl (f.bit 0) f.d f.pd f.a f.srcB f.c)
  | 0x39, 1 => some (.armax f.ctl f.d f.pd f.a f.srcB f.c)
  | 0x39, 2 => some (.armin f.ctl f.d f.pd f.a f.srcB f.c)
  | 0x39, 3 => some (.apfx f.ctl f.d f.pd f.a f.srcB)
  | 0x39, 4 => some (.apick f.ctl f.d f.pd f.a f.srcB)
  | 0x3A, 0 => some (.htclaim f.ctl (f.sub 0 2) f.pd f.a)
  | 0x3A, 1 => some (.htfree f.ctl (f.sub 0 2) f.pd f.a)
  | 0x3A, 2 => some (.htins f.ctl (f.sub 0 2) (f.bit 3) f.d f.pd f.a f.srcB)
  | 0x3A, 3 => some (.htprobe f.ctl (f.sub 0 2) f.d f.pd f.a)
  | 0x3A, 4 => some (.htdel f.ctl (f.sub 0 2) f.d f.a)
  | 0x3A, 5 => if f.bit 2 then some (.htaccRes f.ctl (f.sub 0 2) (f.bit 3) f.d f.a f.srcB) else some (.htacc f.ctl (f.sub 0 2) (f.bit 3) f.a f.srcB)
  | 0x3A, 6 => some (.htdrain f.ctl (f.sub 0 2) (f.bit 2) (f.bit 3) f.a f.b f.c)
  | 0x3A, 7 => some (.htstat f.ctl (f.sub 0 2) f.d)
  | 0x3B, 0 => some (.thset f.ctl (f.sub 0 4) f.d f.a)
  | 0x3B, 1 => some (.thget f.ctl f.d f.a)
  | 0x3B, 2 => if f.bit 0 then some (.thdropRevoke f.ctl f.a) else some (.thdrop f.ctl f.a)
  | 0x3B, 3 => some (.cpy f.ctl (f.bit 0) f.a f.b f.c)
  | 0x3B, 4 => some (.cpyg f.ctl (f.bit 0) f.a f.b f.c)
  | 0x3B, 5 => if f.bit 1 then some (.cpysRadd f.ctl (f.bit 0) f.a f.b f.c) else some (.cpys f.ctl (f.bit 0) f.a f.b f.c)
  | 0x3B, 6 => some (.cpyr f.ctl (f.bit 0) f.a f.b f.c)
  | 0x3C, 0 => some (.mrsv f.ctl (f.bit 0) f.pd f.a f.b)
  | 0x3C, 1 => some (.mrel f.ctl f.a f.b)
  | 0x3C, 2 => some (.mpri f.ctl f.a f.b)
  | 0x3C, 3 => some (.mzero f.ctl f.a)
  | 0x3D, 0 => some (.mma f.ctl (f.sub 0 3) f.a f.b f.c)
  | 0x3D, 1 => some (.mmat f.ctl (f.sub 0 3) (f.bit 3) f.a f.b f.c)
  | 0x3D, 2 => some (.mld f.ctl (f.sub 0 3) (f.sub 3 2) f.a f.b f.c)
  | 0x3D, 3 => some (.mst f.ctl (f.sub 0 3) (f.sub 3 2) f.a f.b f.c)
  | 0x3E, 0 => some (.csrr f.ctl f.d (f.sub 0 12))
  | 0x3E, 1 => some (.csrw f.ctl f.a (f.sub 0 12))
  | 0x3E, 2 => if f.bit 0 then some (.tlbiAll f.ctl (f.bit 2) f.a) else some (.tlbiPage f.ctl (f.bit 2) f.a)
  | 0x3E, 3 => some (.l1wb f.ctl)
  | 0x3E, 4 => some (.halt f.ctl)
  | _, _ => none

/-- The instruction that fields stand for, or none: not an instruction (R63). -/
def decodeFields (f : Fields) : Option Instr :=
  match build f with
  | none => none
  | some i => if WellFormed i && decide (toFields i = some f) then some i else none

/-- The default type's code of an OP and FN, the A field selecting it for SPR (R40, R50); none when a base form is no
instruction. -/
def defaultTy (op fn a : Nat) : Option (BitVec 5) :=
  match op with
  | 0x08 | 0x09 | 0x0E | 0x0F | 0x10 | 0x19 => some (Ty.code .b32)
  | 0x0A | 0x0B | 0x0D | 0x34 => if op = 0x34 ∧ fn = 7 then some (Ty.code .b32) else some (Ty.code .i32)
  | 0x0C => if fn = 1 then some (Ty.code .n32) else some (Ty.code .i32)
  | 0x11 => if fn = 0 then some (Ty.code .b64) else some (Ty.code .b32)
  | 0x12 => if fn = 0 ∧ 10 ≤ a ∧ a ≤ 14 then some (Ty.code .b64) else some (Ty.code .b32)
  | 0x18 => if fn = 0 then some (Ty.code .i32) else if fn = 1 then some (Ty.code .f32) else some (Ty.code .f64)
  | 0x1C | 0x1D => some (Ty.code .f32)
  | 0x1E => some (Ty.code .f64)
  | 0x1F => some (Ty.code .f16)
  | 0x28 | 0x29 => none
  | 0x2C | 0x2D | 0x2E => some (Ty.code .b32)
  | 0x35 => if fn ≤ 5 then some (Ty.code .i32) else some (Ty.code .b32)
  | _ => some 0

/-- Word 0's layout (R49). -/
def word0 (len : Nat) (f : Fields) : Word :=
  BitVec.ofNat 2 len ++ f.op ++ f.fn ++ f.d ++ f.a ++ f.b

/-- Word 1's layout (R50). -/
def word1 (f : Fields) : Word :=
  f.c ++ f.g ++ BitVec.ofBool f.gn ++ f.pd ++ BitVec.ofBool f.fs ++ f.ty ++ f.rm ++ BitVec.ofBool f.sat ++ f.ch ++ f.rsv

/-- Words of an instruction by its LEN (R48). -/
def wordsOfLen (len : Nat) : Nat :=
  match len with
  | 0 => 1 | 1 => 3 | 2 => 3 | _ => 5

/-- LEN of a first word (R48). -/
def lenOf (w : Word) : Nat := (w >>> 30).toNat

/-- Read word 0 (R49). -/
def readWord0 (w : Word) : Fields :=
  { Fields.base (w.extractLsb' 24 6) (w.extractLsb' 21 3) with
    d := w.extractLsb' 14 7, a := w.extractLsb' 7 7, b := w.extractLsb' 0 7 }

/-- Read word 1 and word 2 (R50, R51). -/
def readExt (f : Fields) (w1 w2 : Word) : Fields :=
  { f with
    c := w1.extractLsb' 25 7, g := w1.extractLsb' 21 4, gn := w1.getLsbD 20, pd := w1.extractLsb' 16 4,
    fs := w1.getLsbD 15, ty := w1.extractLsb' 10 5, rm := w1.extractLsb' 7 3, sat := w1.getLsbD 6,
    ch := w1.extractLsb' 3 3, rsv := w1.extractLsb' 0 3, w2 := w2 }

/-- The fields of a base form (R50). -/
def baseFields (w : Word) : Option Fields :=
  let f := readWord0 w
  (defaultTy f.op.toNat f.fn.toNat f.a.toNat).map (fun t => { f with ty := t })

/-- The fields of an instruction's words, and the words that follow (R48). -/
def readFields : List Word → Option (Fields × List Word)
  | [] => none
  | w :: ws =>
    match lenOf w, ws with
    | 0, _ => (baseFields w).map (fun f => (f, ws))
    | 1, lo :: hi :: r => (baseFields w).map (fun f => ({ f with lit := some (hi ++ lo) }, r))
    | 2, w1 :: w2 :: r => some (readExt (readWord0 w) w1 w2, r)
    | _ + 3, w1 :: w2 :: lo :: hi :: r => some ({ readExt (readWord0 w) w1 w2 with lit := some (hi ++ lo) }, r)
    | _, _ => none

/-- The decoder: the instruction at the head of a list of words, and the words after it; none is ILLOP (R63). -/
def decode (ws : List Word) : Option (Instr × List Word) :=
  match readFields ws with
  | none => none
  | some (f, r) => (decodeFields f).map (fun i => (i, r))

/-- The 32-bit words of bytes, each little-endian (R5). -/
def wordsOfBytes : List Byte → List Word
  | b0 :: b1 :: b2 :: b3 :: r => (b3 ++ b2 ++ b1 ++ b0) :: wordsOfBytes r
  | _ => []

/-- The bytes of words, each little-endian (R5). -/
def bytesOfWords : List Word → List Byte
  | [] => []
  | w :: ws => w.extractLsb' 0 8 :: w.extractLsb' 8 8 :: w.extractLsb' 16 8 :: w.extractLsb' 24 8 :: bytesOfWords ws

/-- The decoder on bytes in address order (R45, R48). -/
def decodeBytes (bs : List Byte) : Option (Instr × List Word) := decode (wordsOfBytes bs)

/-- The words of fields in the extended form (R48). -/
def extendedWords (f : Fields) : List Word :=
  match f.lit with
  | none => [word0 2 f, word1 f, f.w2]
  | some v => [word0 3 f, word1 f, f.w2, v.extractLsb' 0 32, v.extractLsb' 32 32]

/-- The words of fields in the base form (R48). -/
def baseWords (f : Fields) : List Word :=
  match f.lit with
  | none => [word0 0 f]
  | some v => [word0 1 f, v.extractLsb' 0 32, v.extractLsb' 32 32]

/-- Every item of word 1 and word 2 stands at its base default (R44, R50). -/
def atDefaults (f : Fields) : Bool :=
  match defaultTy f.op.toNat f.fn.toNat f.a.toNat with
  | none => false
  | some t => decide ({ Fields.base f.op f.fn with d := f.d, a := f.a, b := f.b, lit := f.lit, ty := t } = f)

/-- Forms that tkasm always writes extended: a third source or predicate destination, branches, and what R133, R169,
R174, R239 and R316 name (R44). -/
def alwaysExtended : Instr → Bool
  | .bra .. | .call .. | .mark .. | .lnch .. | .cvt .. | .cvtp .. | .cvtx .. | .dot2 .. | .dot4 .. | .dot8 ..
  | .thset .. | .cpy .. | .cpyg .. | .cpys .. | .cpysRadd .. | .cpyr .. | .csrr .. | .csrw .. | .tlbiPage .. | .tlbiAll ..
  | .ffma .. | .dfma .. | .hfma2 .. | .imad .. | .fshf .. | .cas .. | .sel .. | .iaddc .. | .ldc .. | .stc .. | .rinit ..
  | .arsum .. | .armax .. | .armin .. | .htdrain .. | .mma .. | .mmat .. | .mld .. | .mst .. => true
  | _ => false

/-- The words tkasm writes for an instruction, whether its line stands in the compact or the full notation (R9, R39, R44,
R48); an event has no words. -/
def encode (i : Instr) : List Word :=
  match toFields i with
  | none => []
  | some f => if atDefaults f && !alwaysExtended i then baseWords f else extendedWords f

/-- The extended form of an instruction (R48, R50), which the decoder reads as well where tkasm writes the base form. -/
def encodeExtended (i : Instr) : List Word :=
  match toFields i with
  | none => []
  | some f => extendedWords f

/-- The instruction the decoder reads from an instruction whose bits are `w`, the first word lowest, the bits above
`nbits` zero: five words, the longest form, stored little-endian at rising addresses (R48). -/
def decodeTableWord (_nbits w : Nat) : Option Instr :=
  (decodeBytes (bytesOfWords ((List.range 5).map (fun k => BitVec.ofNat 32 (w >>> (32 * k)))))).map Prod.fst

end Sys2Proof
end

