-- ==== Sys2Proof/Config.lean ====
section
/-!
DEFINITION. What an implementation fixes and the free values of the model: opaque constants with no body, so that
no proof can rest on a number for a value the spec leaves open. Each is named in a row of the assumption log.
-/
namespace Sys2Proof.Config

/-- Which enabled agent moves next when State.agenda names none (log 1). -/
opaque choice : Nat → Nat
/-- Arithmetic clocks that pass in one step beyond the first (R2; log 5). -/
opaque extraClocks : Nat → Nat
/-- Per tick and lane: of two racing writes to a register the later instruction's lands last (R61; log 6). -/
opaque laterWins : Nat → Nat → Bool
/-- Per tick, page and access: a translation held by a TLB has been replaced since (R326, R327; log 7). -/
opaque tlbReplaced : Nat → Nat → Nat → Bool
/-- Per tick: which of the lines that are next in line for replacement a full L1 evicts (R3, R91; log 26). -/
opaque victim : Nat → Nat
/-- Per tick and word address: an instruction fetch returns the word fetched earlier (R57; log 8). -/
opaque staleCode : Nat → Nat → Bool
/-- Per tick and write: a write in flight that a shootdown covers is refused (R311, R328; log 9). -/
opaque refusedInFlight : Nat → Nat → Bool
/-- Per tick and store: a plain access that races ADECL leaves the path's entry with this value (R211; log 10). -/
opaque racedEntry : Nat → Nat → DWord
/-- A check value for a team, by counter (R100, R101; log 11). -/
opaque checkValue : Nat → BitVec 16
/-- The hash of a physical 4 KiB unit over a partition's home slices (R365; log 12). -/
opaque homeSlice : Nat → Nat
/-- The firmware image a stage of the module runs while the host has staged none (R383; log 13). -/
opaque firmware : Nat → List Byte
/-- The ASID drawn from the pool, by counter (R320; log 18). -/
opaque asid : Nat → Nat
/-- SHA-512 of a byte string (R383, R384; log 13). -/
opaque sha512 : List Byte → List Byte
/-- Ed25519 verification under the vendor key: message digest, then signature (R383; log 13). -/
opaque vendorVerify : List Byte → List Byte → Bool
/-- Ed25519 signature by the module's identity key (R384; log 13). -/
opaque identitySign : List Byte → List Byte
/-- The module's 16-byte serial number (R384; log 13). -/
opaque serial : List Byte
/-- The identity certificate chain, X.509 DER, leaf first (R373, R384; log 13). -/
opaque certChain : List Byte
/-- Per tick: a core's self-test after a quarantine passes (R381; log 14). -/
opaque selfTest : Nat → Bool
/-- A value for which the spec states no number, by counter (log 16). -/
opaque freeWord : Nat → BitVec 64

end Sys2Proof.Config
end

