-- ==== Sys2Proof/Machine/Maps.lean ====
section
/-!
DEFINITION. Plain-data maps: association lists (`AList`), and sparse stores with a default (`Store`), the one
canonical form of memory and of every register file: keys strictly rising and no entry equal to the default.
-/
namespace Sys2Proof.Machine

/-- Entries by key, keys strictly rising. -/
abbrev AList (α : Type) := List (Nat × α)

/-- The entry at a key, if any. -/
def aget? {α : Type} : AList α → Nat → Option α
  | [], _ => none
  | (k, v) :: m, i => if k = i then some v else aget? m i

/-- Put an entry at a key. -/
def aset {α : Type} : AList α → Nat → α → AList α
  | [], i, v => [(i, v)]
  | (k, w) :: m, i, v =>
    if i < k then (i, v) :: (k, w) :: m
    else if i = k then (i, v) :: m
    else (k, w) :: aset m i v

/-- Take an entry away. -/
def adel {α : Type} (m : AList α) (i : Nat) : AList α := m.filter (fun e => decide (e.1 ≠ i))

/-- Change the entry at a key, if there is one. -/
def aupd {α : Type} (m : AList α) (i : Nat) (f : α → α) : AList α :=
  m.map (fun e => if e.1 = i then (e.1, f e.2) else e)

/-- Sparse store of `w`-bit values; an unlisted key reads as zero. -/
abbrev Store (w : Nat) := List (Nat × BitVec w)

/-- What an unlisted key of a store reads as (log 4 for memory; R25 for registers). -/
def unlisted (w : Nat) : BitVec w := 0

/-- Read one key. -/
def Store.get {w : Nat} : Store w → Nat → BitVec w
  | [], _ => unlisted w
  | (k, v) :: m, i => if k = i then v else Store.get m i

/-- Write one key: writing what an unlisted key reads as takes the entry away. -/
def Store.set {w : Nat} (m : Store w) (i : Nat) (v : BitVec w) : Store w :=
  if v = unlisted w then adel m i else aset m i v

/-- Every key of the store is at least `n`, keys rise strictly, and no entry is the default. -/
def Store.wfFrom {w : Nat} : Nat → Store w → Bool
  | _, [] => true
  | n, (k, v) :: m => decide (n ≤ k) && decide (v ≠ unlisted w) && Store.wfFrom (k + 1) m

/-- The canonical form of a store. -/
def Store.wf {w : Nat} (m : Store w) : Bool := Store.wfFrom 0 m

/-- The byte memory: a list of cells in canonical form. -/
abbrev Memory := List Host.Cell

/-- The canonical form of a memory. -/
def Memory.wf (m : Memory) : Bool := Store.wf (w := 8) m

/-- Read `n` bytes from address `a` upward. -/
def readBytes (m : Store 8) (a : Nat) : Nat → List Byte
  | 0 => []
  | n + 1 => Store.get m a :: readBytes m (a + 1) n

/-- Write bytes from address `a` upward. -/
def writeBytes (m : Store 8) (a : Nat) : List Byte → Store 8
  | [] => m
  | b :: bs => writeBytes (Store.set m a b) (a + 1) bs

/-- The number whose little-endian bytes are given (R5). -/
def ofBytes : List Byte → Nat
  | [] => 0
  | b :: bs => b.toNat + 256 * ofBytes bs

/-- The `n` little-endian bytes of a number (R5). -/
def toBytes (v : Nat) : Nat → List Byte
  | 0 => []
  | n + 1 => BitVec.ofNat 8 v :: toBytes (v / 256) n

/-- Bits [hi:lo] of a number (R5). -/
def bits (v hi lo : Nat) : Nat := (v >>> lo) % 2 ^ (hi + 1 - lo)

/-- Bit `i` of a number. -/
def bitOf (v i : Nat) : Bool := v.testBit i

/-- 1 for true. -/
def b2n (b : Bool) : Nat := if b then 1 else 0

/-- `v` read as a signed number of `w` bits. -/
def sgn (w v : Nat) : Int := if v < 2 ^ (w - 1) then (v : Int) else (v : Int) - 2 ^ w

/-- A signed number modulo 2^w. -/
def wrapN (w : Nat) (v : Int) : Nat := (v % (2 ^ w : Nat)).toNat

/-- The lanes of a mask, ascending. -/
def lanesOf (m : LaneMask) : List Nat := (List.range 128).filter m.getLsbD

/-- The quads of a mask, ascending. -/
def quadsOf (m : QuadMask) : List Nat := (List.range 32).filter m.getLsbD

/-- The mask of a list of lanes. -/
def maskOf (ls : List Nat) : LaneMask := ls.foldl (fun m l => m ||| BitVec.ofNat 128 (2 ^ l)) 0

/-- The lanes of the quads of a mask (R12). -/
def quadLanes (q : QuadMask) : LaneMask :=
  maskOf ((List.range 128).filter (fun l => q.getLsbD (l / 4)))

/-- Every distinct element of a list, first occurrences kept. -/
def distinct {α : Type} [BEq α] : List α → List α
  | [] => []
  | x :: xs => x :: (distinct xs).filter (fun y => !(y == x))

/-- The element of a list with the least key, the first among equals. -/
def leastBy {α : Type} (key : α → Nat) : List α → Option α
  | [] => none
  | x :: xs => match leastBy key xs with
    | none => some x
    | some y => if key y < key x then some y else some x

/-- Insert by key, after equals. -/
def insertBy {α : Type} (key : α → Nat) (x : α) : List α → List α
  | [] => [x]
  | y :: ys => if key x < key y then x :: y :: ys else y :: insertBy key x ys

/-- Stable sort by key. -/
def sortBy {α : Type} (key : α → Nat) (xs : List α) : List α :=
  xs.foldl (fun acc x => insertBy key x acc) []

/-- The elements of two lists joined, one entry per value. -/
def allB {α : Type} (xs : List α) (p : α → Bool) : Bool := xs.all p

end Sys2Proof.Machine
end

