-- ==== Sys2Proof/Machine/Formats.lean ====
section
/-!
DEFINITION. Number formats, rounding, conversions and exact sums (R65 to R82). A value is exact: a NaN, an infinity,
or a sign, a magnitude and a power of two.
-/
namespace Sys2Proof.Machine

/-- An exact value: (−1)^neg × m × 2^e when finite; a zero keeps its sign (R65, R76). -/
inductive FVal where
  | nan
  | inf (neg : Bool)
  | fin (neg : Bool) (m : Nat) (e : Int)
  deriving DecidableEq, Repr

/-- The STICKY flags a computation may raise (R30, R80). -/
structure Flags where
  ovf : Bool := false
  inv : Bool := false
  asat : Bool := false
  spill : Bool := false
  drop : Bool := false
  deriving DecidableEq, Repr

/-- Flags raised by either of two computations. -/
def Flags.or (f g : Flags) : Flags :=
  ⟨f.ovf || g.ovf, f.inv || g.inv, f.asat || g.asat, f.spill || g.spill, f.drop || g.drop⟩

/-- Number of significant bits. -/
def bitLen (m : Nat) : Nat := if m = 0 then 0 else Nat.log2 m + 1

/-- Exponent bits, fraction bits and bias of a floating format (R65); TF32 without its container's low bits. -/
def floatFields : Ty → Option (Nat × Nat × Int)
  | .f64 => some (11, 52, 1023) | .f32 => some (8, 23, 127) | .tf32 => some (8, 10, 127) | .f16 => some (5, 10, 15)
  | .bf16 => some (8, 7, 127) | .e5m2 => some (5, 2, 15) | .e4m3 => some (4, 3, 7) | .e3m2 => some (3, 2, 3)
  | .e2m3 => some (2, 3, 1) | .e2m1 => some (2, 1, 1) | _ => none

/-- Formats whose top exponent holds infinities and NaNs (R65). -/
def hasInf : Ty → Bool
  | .f64 | .f32 | .tf32 | .f16 | .bf16 | .e5m2 => true
  | _ => false

/-- The canonical NaN (R66); a format without NaN gives 0. -/
def canonicalNaN : Ty → Nat
  | .f64 => 0x7FF8000000000000 | .f32 => 0x7FC00000 | .tf32 => 0x7FC00000 | .f16 => 0x7E00 | .bf16 => 0x7FC0
  | .e5m2 => 0x7E | .e4m3 => 0x7F | _ => 0

/-- The code of an infinity (R65). -/
def infCode (t : Ty) (neg : Bool) : Nat :=
  match floatFields t with
  | none => 0
  | some (eb, mb, _) =>
    let c := (b2n neg * 2 ^ eb + (2 ^ eb - 1)) * 2 ^ mb
    if t = .tf32 then c * 2 ^ 13 else c

/-- Largest finite magnitude as significand and exponent (R65). -/
def largest : Ty → Nat × Int
  | .f64 => (2 ^ 53 - 1, 971) | .f32 => (2 ^ 24 - 1, 104) | .tf32 => (2 ^ 11 - 1, 117) | .f16 => (2 ^ 11 - 1, 5)
  | .bf16 => (2 ^ 8 - 1, 120) | .e5m2 => (7, 13) | .e4m3 => (14, 5) | .e3m2 => (7, 2) | .e2m3 => (15, -1)
  | .e2m1 => (3, 1) | _ => (0, 0)

/-- The exact value of a float code in its container (R65, R67). -/
def floatVal (t : Ty) (code : Nat) : FVal :=
  match floatFields t with
  | none => .nan
  | some (eb, mb, bias) =>
    let c := if t = .tf32 then code / 2 ^ 13 else code
    let neg := c.testBit (eb + mb)
    let e := c / 2 ^ mb % 2 ^ eb
    let m := c % 2 ^ mb
    if hasInf t && e == 2 ^ eb - 1 then (if m = 0 then .inf neg else .nan)
    else if t = .e4m3 ∧ e = 15 ∧ m = 7 then .nan
    else if e = 0 then .fin neg m (1 - bias - mb)
    else .fin neg (2 ^ mb + m) ((e : Int) - bias - mb)

/-- An integer as an exact value. -/
def intVal (v : Int) : FVal := .fin (decide (v < 0)) v.natAbs 0

/-- The exact value of a code of a numeric type; FX64 at exponent `q` (R65, R68). -/
def valueQ (t : Ty) (q : Int) (code : Nat) : FVal :=
  let c := code % 2 ^ t.width
  if (floatFields t).isSome then floatVal t c
  else match t with
    | .fx64 => let v := sgn 64 c; .fin (decide (v < 0)) v.natAbs q
    | _ => if t.signed then intVal (sgn t.width c) else intVal c

/-- The exact value of a code, FX64 at Q = 0 (R68). -/
def value (t : Ty) (code : Nat) : FVal := valueQ t 0 code

/-- `m × 2^k`, `k` of either sign, truncated. -/
def shiftN (m : Nat) (k : Int) : Nat := if 0 ≤ k then m * 2 ^ k.toNat else m / 2 ^ (-k).toNat

/-- The stochastic choice of R75: the draw's top bits push the discarded part over. -/
def srUp (m k r : Nat) : Bool :=
  let dd := m % 2 ^ k
  let dd' := if k > 64 then dd / 2 ^ (k - 64) else dd
  let k' := if k > 64 then 64 else k
  decide (2 ^ k' ≤ dd' + r / 2 ^ (64 - k'))

/-- Does rounding the magnitude at the quantum `2^k` take the upper neighbour (R73, R75). -/
def roundsUp (rm : Rnd) (neg : Bool) (m k r : Nat) : Bool :=
  let rem := m % 2 ^ k
  let half := 2 ^ (k - 1)
  if rem = 0 then false
  else match rm with
    | .rne => decide (half < rem) || (rem == half && (m / 2 ^ k) % 2 == 1)
    | .rna => decide (half ≤ rem)
    | .rtz => false
    | .rup => !neg
    | .rdn => neg
    | .sr => srUp m k r

/-- The magnitude `m × 2^e` in units of `2^q`, rounded (R73). -/
def roundAt (rm : Rnd) (neg : Bool) (m : Nat) (e q : Int) (r : Nat) : Nat :=
  if q ≤ e then m * 2 ^ (e - q).toNat
  else
    let k := (q - e).toNat
    m / 2 ^ k + b2n (roundsUp rm neg m k r)

/-- The quantum's exponent of a format at a magnitude, its exponent range unbounded above (R73, R76). -/
def quantum (t : Ty) (m : Nat) (e : Int) : Int :=
  match t.floatSpan with
  | some (p, qmin, _) => max qmin (e + bitLen m - p)
  | none => 0

/-- The code of a magnitude `m × 2^q` that the format holds exactly (R65). -/
def packFloat (t : Ty) (neg : Bool) (m : Nat) (q : Int) : Nat :=
  match floatFields t with
  | none => 0
  | some (eb, mb, bias) =>
    -- normalise to the format's fraction width
    let qmin := 1 - bias - mb
    let q' := max qmin (q + bitLen m - (mb + 1))
    let m' := shiftN m (q - q')
    let c := if m' < 2 ^ mb then m' else (q' + bias + mb).toNat * 2 ^ mb + (m' - 2 ^ mb)
    let full := b2n neg * 2 ^ (eb + mb) + c
    if t = .tf32 then full * 2 ^ 13 else full

/-- Is `m × 2^q` above the format's largest finite magnitude. -/
def beyond (t : Ty) (m : Nat) (q : Int) : Bool :=
  let (lm, le) := largest t
  let b := min q le
  decide (lm * 2 ^ (le - b).toNat < m * 2 ^ (q - b).toNat)

/-- Does the mode take the infinity on overflow (R76, R162). -/
def overflowsToInf (rm : Rnd) (neg : Bool) : Bool :=
  match rm with
  | .rne | .rna | .sr => true
  | .rtz => false
  | .rup => !neg
  | .rdn => neg

/-- Finite, nonzero magnitude into a floating format: overflow saturates with OVF, or goes by the mode without a flag
(R76, R162). -/
def roundFloat (t : Ty) (rm : Rnd) (sat : Bool) (r : Nat) (neg : Bool) (m : Nat) (e : Int) : Nat × Flags :=
  let q := quantum t m e
  let n := roundAt rm neg m e q r
  if beyond t n q then
    let (lm, le) := largest t
    if sat then (packFloat t neg lm le, { ovf := true })
    else if overflowsToInf rm neg then (infCode t neg, {}) else (packFloat t neg lm le, {})
  else (packFloat t neg n q, {})

/-- ROUND of R162: IEEE rounding of an exact value into a floating format, no flag. -/
def roundIEEE (t : Ty) (rm : Rnd) : FVal → Nat
  | .nan => canonicalNaN t
  | .inf neg => infCode t neg
  | .fin neg m e => (roundFloat t rm false 0 neg m e).1

/-- The bounds of an integer type; FX64 saturates at ±(2^63 − 1) (R68, R76). -/
def intBounds (t : Ty) : Int × Int :=
  match t with
  | .fx64 => (-(2 ^ 63 - 1), 2 ^ 63 - 1)
  | _ => if t.signed then (-(2 ^ (t.width - 1)), 2 ^ (t.width - 1) - 1) else (0, 2 ^ t.width - 1)

/-- Clamp to bounds; true when it acts. -/
def clampTo (lo hi v : Int) : Int × Bool :=
  if v < lo then (lo, true) else if hi < v then (hi, true) else (v, false)

/-- An exact value into an integer type or FX64, the value in units of the type (R76, R77). -/
def toIntCode (t : Ty) (rm : Rnd) (r : Nat) : FVal → Nat × Flags
  | .nan => (0, { inv := true })
  | .inf neg =>
    let (lo, hi) := intBounds t
    (wrapN t.width (if neg then lo else hi), { ovf := true })
  | .fin neg m e =>
    let n := roundAt rm neg m e 0 r
    let (lo, hi) := intBounds t
    let (v, acted) := clampTo lo hi (if neg then -(n : Int) else n)
    (wrapN t.width v, { ovf := acted })

/-- CONV of R171: an exact value into a numeric type at FX64 exponent `q` (R76, R77). -/
def convQ (dst : Ty) (q : Int) (rm : Rnd) (sat : Bool) (r : Nat) (x : FVal) : Nat × Flags :=
  if (floatFields dst).isSome then
    let narrow := !(dst == .f32 || dst == .f64)
    match x with
    | .nan => if canonicalNaN dst = 0 then (0, { inv := true }) else (canonicalNaN dst, {})
    | .inf neg =>
      if hasInf dst then (infCode dst neg, {})
      else (packFloat dst neg (largest dst).1 (largest dst).2, { ovf := true })
    | .fin neg m e => if m = 0 then (packFloat dst neg 0 0, {}) else roundFloat dst rm (sat || narrow) r neg m e
  else match x with
    | .fin neg m e => toIntCode dst rm r (.fin neg m (if dst = .fx64 then e - q else e))
    | y => toIntCode dst rm r y

/-- CONV at Q = 0 (R171). -/
def conv (dst : Ty) (rm : Rnd) (sat : Bool) (r : Nat) (x : FVal) : Nat × Flags := convQ dst 0 rm sat r x

/-- FX of R77: an F32 code into FX64 at exponent Q. -/
def fxOf (q : Int) (f32 : Nat) : Nat × Flags := convQ .fx64 q .rne true 0 (value .f32 f32)

/-- SRBITS of R74. -/
def srBits (seed dix glane : DWord) (j : Nat) : Nat :=
  let x := seed + dix * 0x9E3779B97F4A7C15#64 + glane * 0xBF58476D1CE4E5B9#64
            + BitVec.ofNat 64 j * 0xD6E8FEB86659FD93#64
  let x := (x ^^^ (x >>> 30)) * 0xBF58476D1CE4E5B9#64
  let x := (x ^^^ (x >>> 27)) * 0x94D049BB133111EB#64
  (x ^^^ (x >>> 31)).toNat

/-- The signed magnitude of a finite value in units of `2^b`, `b` at most its exponent. -/
def scaled (neg : Bool) (m : Nat) (e b : Int) : Int :=
  let v : Int := (m * 2 ^ (e - b).toNat : Nat)
  if neg then -v else v

/-- Product, exact; the sign of a zero product is that of the factors' signs, of integer elements too (R82, R162; log 94). -/
def mulV : FVal → FVal → FVal
  | .nan, _ | _, .nan => .nan
  | .inf s, .inf t => .inf (s != t)
  | .inf s, .fin t m _ => if m = 0 then .nan else .inf (s != t)
  | .fin s m _, .inf t => if m = 0 then .nan else .inf (s != t)
  | .fin s m e, .fin t n f => .fin (s != t) (m * n) (e + f)

/-- Sum, exact; an exact zero takes its sign by the mode (ZSIGN of R162). -/
def addV (rm : Rnd) : FVal → FVal → FVal
  | .nan, _ | _, .nan => .nan
  | .inf s, .inf t => if s = t then .inf s else .nan
  | .inf s, _ => .inf s
  | _, .inf t => .inf t
  | .fin s m e, .fin t n f =>
    let b := min e f
    let v := scaled s m e b + scaled t n f b
    if v = 0 then .fin (if s = t then s else decide (rm = .rdn)) 0 b
    else .fin (decide (v < 0)) v.natAbs b

/-- EXACTSUM of R82. -/
def exactSum (terms : List FVal) : FVal :=
  let pos := terms.contains (.inf false)
  let neg := terms.contains (.inf true)
  if terms.isEmpty then .fin false 0 0
  else if terms.contains .nan || (pos && neg) then .nan
  else if pos then .inf false
  else if neg then .inf true
  else
    let s := terms.foldl (addV .rne) (.fin false 0 0)
    match s with
    | .fin _ 0 _ =>
      let allNegZero := terms.all (fun t => match t with | .fin true 0 _ => true | _ => false)
      .fin allNegZero 0 0
    | y => y

/-- ADDROUND of R82: the accumulator's code of F32 or F64. -/
def addRound (t : Ty) (acc : Nat) (s : FVal) : Nat :=
  match addV .rne (value t acc) s with
  | .fin neg m e =>
    if m = 0 then
      match value t acc, s with
      | .fin true 0 _, .fin true 0 _ => packFloat t true 0 0
      | _, _ => packFloat t false 0 0
    else (roundFloat t .rne false 0 neg m e).1
  | y => roundIEEE t .rne y

/-- The integer of a sum whose terms are integers. -/
def sumInt : FVal → Int
  | .fin neg m e => scaled neg m e (min e 0)
  | _ => 0

/-- ADDSAT32 of R82. -/
def addSat32 (acc : Nat) (s : FVal) : Nat × Flags :=
  let (v, acted) := clampTo (-(2 ^ 31)) (2 ^ 31 - 1) (sgn 32 acc + sumInt s)
  (wrapN 32 v, { ovf := acted })

/-- KSTEP of R82 over a list of terms, for the accumulator's type. -/
def kstep (acct : Ty) (acc : Nat) (terms : List FVal) : Nat × Flags :=
  if acct = .i32 then addSat32 acc (exactSum terms) else (addRound acct acc (exactSum terms), {})

/-- The scale kinds of R69. -/
inductive ScaleKind where
  | e8m0 | e5m3u | f16
  deriving DecidableEq, Repr

/-- The value of a scale code (R69). -/
def scaleVal (k : ScaleKind) (c : Nat) : FVal :=
  match k with
  | .e8m0 => if c = 0xFF then .nan else .fin false 1 ((c : Int) - 127)
  | .e5m3u =>
    if c = 0xFF then .nan
    else if c / 8 = 0 then .fin false (c % 8) (-17) else .fin false (8 + c % 8) ((c / 8 : Nat) - 18)
  | .f16 => floatVal .f16 c

/-- An element's own value; MXI8 elements carry 2^−6 (R70). -/
def elemVal (t : Ty) (mx : Bool) (code : Nat) : FVal :=
  match value t code with
  | .fin neg m e => .fin neg m (if mx && t == .i8 then e - 6 else e)
  | y => y

/-- Compare two exact values: less, equal, greater; none when unordered (R168). -/
def cmpV : FVal → FVal → Option Ordering
  | .nan, _ | _, .nan => none
  | .inf s, .inf t => some (if s = t then .eq else if s then .lt else .gt)
  | .inf s, _ => some (if s then .lt else .gt)
  | _, .inf t => some (if t then .gt else .lt)
  | .fin s m e, .fin t n f =>
    let b := min e f
    some (compare (scaled s m e b) (scaled t n f b))

end Sys2Proof.Machine
end

