-- ==== Sys2Proof/Machine/State.lean ====
section
/-!
DEFINITION. The state of the machine as plain data: every piece of state the spec names, level by level (R11), with the
devices, the scheduler and the Iluic, and the faults and refusals a step can end in.
Physical bytes lie in one memory: device memory at stack × 2^36 + offset (R324), host memory from 2^64 (R376), peer
memory from 2^65 (R378).
-/
namespace Sys2Proof.Machine

/-- Why the machine stops. -/
inductive Fault where
  /-- An encoded instruction was executed though the port named by `State.cur` issues no gang. Raised by the shared
  opening of every encoded instruction (`withEnv`), never by `step`, which executes an instruction only for a port
  that is issuing. Safe: the machine has no such event. -/
  | noGang
  deriving DecidableEq, Repr

/-- Why an instruction has no meaning. -/
inductive Refusal where
  /-- The instruction is not modelled yet; raised by its arm of `exec` alone. Safe: nothing can be proved of a run
  past it. -/
  | notModelled (mnemonic : String)
  deriving DecidableEq, Repr

/-- Whose turn it is: a port's next instruction or clause, an event, or a function's next command (log 1). -/
inductive Turn where
  | issue (core port : Nat)
  | event (i : Instr)
  | command (func : Nat)
  deriving DecidableEq, Repr

/-- Where a barrier object, a handle's data or a destination stands. -/
inductive Place where
  /-- global memory, by virtual address of a context -/
  | glob (va : Nat)
  /-- the scratchpad of a team, by offset -/
  | pad (team off : Nat)
  deriving DecidableEq, Repr

/-! ## Quads and groups -/

/-- The kind of a quad record (R357). -/
inductive QKind where
  | header | remainder | ended | absent
  deriving DecidableEq, Repr

/-- Why a blocked gang waits (R196): the object, in bytes, and the phase its WAIT names. -/
structure Waiting where
  obj : Place
  phase : Word
  deriving DecidableEq, Repr

/-- A quad (R11). -/
structure Quad where
  kind : QKind := .absent
  /-- the address of its next clause header, or of its next instruction in a remainder -/
  pc : VAddr := 0
  mask : Nibble := 0
  exited : Nibble := 0
  /-- resident reconvergence-stack entries, newest first (R17, R19) -/
  resident : List DWord := []
  /-- entries in the spill area, the oldest (R19, R358) -/
  spilled : Nat := 0
  dix : DWord := 0
  /-- remainder: instructions left, the flags of its clause, words from its clause header (R20, R357) -/
  rem : Nat := 0
  seta : Nat := 15
  setb : Nat := 15
  hoff : Nat := 0
  /-- remainder: the only lanes its first instruction runs in (R307) -/
  only : Option Nibble := none
  /-- the gang it belongs to under DET (R280) -/
  det : Nat := 0
  /-- the ready stamp; none while not ready (R22) -/
  stamp : Option Nat := none
  /-- held by trap entry (R305) -/
  trapHeld : Bool := false
  /-- runs the handler (R305) -/
  handler : Bool := false
  /-- a handler quad held for trap return (R307, R138) -/
  handled : Bool := false
  /-- held at a REGANG: its address; arbitration rounds since the quad arrived; LCLK at arrival (R23, R280) -/
  regang : Option (VAddr × Nat × DWord) := none
  /-- a release of the REGANG fell due while its group was parked; it takes effect at trap return (R23, R308) -/
  freed : Bool := false
  /-- blocked in WAIT (R196) -/
  waiting : Option Waiting := none
  /-- poisoned bytes of its spill area have become resident entries (R380) -/
  badStack : Bool := false
  deriving DecidableEq, Repr

/-- Causes that stay pending: of R387, for a header that waits on the flag; and the HMLOST of an acquire that completed while
its gang stood trapped or held (R306; log 85). -/
inductive Pend where
  | poison | mmafault | htfull | hmlost
  deriving DecidableEq, Repr

/-- An event an earlier instruction left pending: for a header whose WAIT mask names the flag (R387), or for its gang alone,
with no flag. -/
structure Pending where
  what : Pend
  /-- the flag; for an HMLOST none: 12 + 16 × SETA + 256 × SETB of the acquire's clause -/
  flag : Nat
  quads : QuadMask
  lanes : LaneMask
  deriving DecidableEq, Repr

/-- What a stopped group keeps (R349, R350, R353). -/
structure Liveness where
  vmask : BitVec 96
  smask : Word
  pmask : BitVec 12
  tiles : Byte
  tables : Nibble
  ranges : List (Nat × Nat)
  deriving DecidableEq, Repr

/-- A group's stop: full liveness, or a record. -/
inductive Stop where
  | full
  | record (l : Liveness)
  deriving DecidableEq, Repr

/-- The trap frame (R301). -/
structure Frame where
  tstate : Word := 0
  tpcl : Word := 0
  tpch : Word := 0
  tfault : LaneMask := 0
  tact : LaneMask := 0
  /-- TLCAUSE by lane -/
  tlcause : Store 8 := []
  /-- TLADDRH:TLADDRL by lane -/
  tladdr : Store 49 := []
  /-- SCRA to SCRD -/
  scr : Store 32 := []
  /-- the quads of the trapped gang (R305) -/
  gang : QuadMask := 0
  deriving DecidableEq, Repr

/-- A group (R11). -/
structure Group where
  team : Nat := 0
  /-- GROUPID -/
  idx : Nat := 0
  core : Nat := 0
  /-- residency slot (R20) -/
  slot : Nat := 0
  quads : AList Quad := []
  /-- V registers, register r of lane L at 128 L + r (R25) -/
  v : Store 32 := []
  /-- predicates, Pp of lane L at 16 L + p (R25) -/
  p : Store 1 := []
  sr : Store 32 := []
  /-- pending operations of F0 to F11 (R60) -/
  flags : Store 6 := []
  sticky : Word := 0
  lclk : DWord := 0
  seed : DWord := 0
  frame : Frame := {}
  /-- parked by HALT, or at trap entry under PFAULT (R315, R319) -/
  park : Bool := false
  pend : List Pending := []
  stop : Option Stop := none
  /-- instructions retired since the team's start, and how many of them before its last barrier phase (R21) -/
  retired : Nat := 0
  base : Nat := 0
  /-- accesses wait for flights below this identifier: a FENCE was executed (R121) -/
  fence : Nat := 0
  /-- cluster-scratchpad and region accesses below this identifier come before an acquire or a release that the group has
  executed since (R120, R124) -/
  sync : Nat := 0
  deriving DecidableEq, Repr

/-! ## Teams -/

/-- A slot of the handle table (R100). -/
structure Handle where
  valid : Bool := false
  gen : BitVec 12 := 0
  /-- the descriptor's 64 bytes (R96) -/
  desc : List Byte := []
  deriving DecidableEq, Repr

/-- A Crucible table of a team (R220, R221). -/
structure Table where
  claimed : Bool := false
  /-- the five claim words (R221) -/
  words : List Word := []
  spillcnt : Word := 0
  drops : Word := 0
  deriving DecidableEq, Repr

/-- A logical tile of a team (R254, R255). -/
structure Tile where
  mapped : Bool := false
  wide : Bool := false
  prio : Nat := 0
  /-- the status word (R255) -/
  status : BitVec 128 := 0
  /-- element of row r and column c at 128 r + c (R254) -/
  elems : Store 64 := []
  poisoned : Bool := false
  deriving DecidableEq, Repr

/-- A team (R11). -/
structure Team where
  launch : Nat := 0
  teamid : Nat := 0
  cslot : Nat := 0
  core : Nat := 0
  ngroups : Nat := 0
  /-- groups not yet ended -/
  live : Nat := 0
  check : BitVec 16 := 0
  /-- its scratchpad allocation (R25) -/
  pad : Store 8 := []
  /-- poisoned 64-byte sectors of it (R380) -/
  padPoison : List Nat := []
  handles : AList Handle := []
  tables : AList Table := []
  tiles : AList Tile := []
  /-- rotation (R279): GROUPID × 32 + lowest quad of the gang a port issued last, by port; key 2 the last of both -/
  rotation : AList Nat := []
  /-- hidden phase clocks by object: of the current phase, of the last completed phase (R283) -/
  pclk : List (Place × DWord × DWord) := []
  /-- the team's last barrier phase: the step of its completion (R21) -/
  phaseAt : Nat := 0
  /-- an object's last completion, by physical place: its step, and what each group of the team had retired then (R21) -/
  phases : List (Place × Nat × AList Nat) := []
  deriving DecidableEq, Repr

/-! ## Launches, contexts, partitions -/

/-- A reuse hint of a launch (R94, R95). -/
structure HintUse where
  cls : Nat := 0
  pages : Nat := 0
  base : Nat := 0
  dropped : Bool := false
  accesses : Nat := 0
  misses : Nat := 0
  contradicted : Bool := false
  deriving DecidableEq, Repr

/-- A launch (R11, R335). -/
structure Launch where
  /-- context, as partition × 1024 + CTXID -/
  ctx : Nat := 0
  id : Word := 0
  /-- the record as admitted and its extension block -/
  record : List Byte := []
  ext : List Byte := []
  /-- acceptance order (R343) -/
  age : Nat := 0
  /-- dependences still to pass: object address and phase (R341) -/
  deps : List (Nat × Word) := []
  /-- units not yet started: the next one's number (R343) -/
  next : Nat := 0
  /-- teams that have ended -/
  ended : Nat := 0
  /-- cores that ran a team of it (R345) -/
  cores : List Nat := []
  hints : List HintUse := []
  /-- regions that received a leaf store or RED from it (R281) -/
  written : List Nat := []
  deriving DecidableEq, Repr

/-- State of a context table entry (R368). -/
inductive CtxState where
  | free | live | stopped | killed
  deriving DecidableEq, Repr

/-- A run of a region's bytes within one page: offset from the base, physical place, length. -/
structure Span where
  off : Nat
  pa : Nat
  len : Nat
  deriving DecidableEq, Repr

/-- A region slot of an apex unit (R200, R206). -/
structure Region where
  ctx : Nat
  /-- the base the region was declared at -/
  va : Nat
  /-- where the leaves and the shadow lie -/
  leaves : List Span
  shadow : List Span
  log2n : Nat
  attr : Word
  poisoned : Bool
  deriving DecidableEq, Repr

/-- An ADECL held under REGSLOT = 1 (R315). -/
structure HeldRegion where
  rid : Word
  flight : Nat
  stack : Nat
  /-- the region as it was checked at issue -/
  region : Region
  deriving DecidableEq, Repr

/-- A launch record held under ADMIT = 1, with where LNCH's answer goes (R315). -/
structure HeldRecord where
  hid : Word
  record : List Byte
  ext : List Byte
  /-- the LNCH flight that waits, if any -/
  flight : Option Nat
  deriving DecidableEq, Repr

/-- A unit of placement (R342, R343): a launch's next team or gang, or suspended teams. -/
structure PlaceUnit where
  launch : Nat
  /-- the team or gang number -/
  num : Nat
  suspended : Bool
  deriving DecidableEq, Repr

/-- What a core has free (R342): residency slots, register-file bytes, scratchpad bytes, bytes that tables may claim, and
physical tiles of its cluster's Anvil. -/
structure Room where
  slots : Nat
  rf : Nat
  pad : Nat
  claim : Nat
  tiles : Nat
  deriving DecidableEq, Repr

/-- The waiting unit of a partition (R344). -/
structure WaitUnit where
  unit : PlaceUnit
  /-- its target cores: one, or a cluster's four for a gang, with what of each is not reserved for it -/
  target : AList Room
  /-- placement decisions that overtook it -/
  overtaken : Nat
  deriving DecidableEq, Repr

/-- A partition table entry (R366) and the scheduler's state for it. -/
structure Part where
  enabled : Bool := false
  clusters : Word := 0
  split : BitVec 5 := 0
  func : Nat := 0
  pstack : Nat := 0
  ctxtab : Nat := 0
  nctx : Nat := 0
  rquota : List Nat := []
  /-- extents: BASE and LEN in GiB (R366) -/
  ext : List (Nat × Nat) := []
  hlen : Nat := 0
  hbase : Nat := 0
  /-- the entry's 64 bytes as written -/
  image : List Byte := []
  wait : Option WaitUnit := none
  deriving DecidableEq, Repr

/-! ## Cores -/

/-- States of an L1 line (R90). -/
inductive LineState where
  | i | c | r | d | u
  deriving DecidableEq, Repr

/-- The operation of an update-only line: operation, type (R118). -/
structure RedKind where
  /-- 0 ADD, 1 MIN, 2 MAX, 3 AND, 4 OR, 5 XOR -/
  op : Nat
  ty : Ty
  deriving DecidableEq, Repr

/-- An L1 line (R90). -/
structure Line where
  state : LineState := .i
  valid : BitVec 4 := 0
  dirty : BitVec 256 := 0
  efirst : Word := 0
  bytes : Store 8 := []
  /-- poisoned sectors (R380) -/
  poison : BitVec 4 := 0
  /-- update-only partials by offset in the line (R118) -/
  red : Option RedKind := none
  partials : Store 64 := []
  /-- offsets that hold a partial -/
  held : List Nat := []
  /-- first in line for replacement (R91); last in line among lines of equal hint (R95) -/
  first : Bool := false
  last : Bool := false
  /-- an R line that an acquire without .RO left: its valid bytes may be older than what the acquire ordered (R92, R109;
  log 80) -/
  kept : Bool := false
  deriving DecidableEq, Repr

/-- A leaf translation (R322, R326). -/
structure Leaf where
  /-- the frame's address bits [47:0] and MEM -/
  frame : Nat
  kind : Nat
  agg : Bool
  sup : Bool
  x : Bool
  w : Bool
  r : Bool
  /-- page size in bits: 16, 27 or 38 (R321) -/
  size : Nat
  deriving DecidableEq, Repr

/-- A TLB entry: ASID, page number at its size, translation (R326). -/
structure TlbEntry where
  asid : Nat
  page : Nat
  leaf : Leaf
  deriving DecidableEq, Repr

/-- A clause in issue at a port (R20, R57). -/
structure Issue where
  gid : Nat
  quads : QuadMask
  /-- the clause header's address, and the next instruction's -/
  hdr : VAddr
  pc : VAddr
  /-- the fetched words from `pc` on -/
  words : List Word
  /-- instructions left, counting the one at `pc` -/
  rem : Nat
  seta : Nat
  setb : Nat
  yld : Bool
  /-- lanes the next instruction is limited to (R307) -/
  only : Option LaneMask
  /-- the port held the next instruction when it last came to it (R20, R349) -/
  held : Bool
  /-- the next instruction waits under the minimum-clock rule; its condition was met (R282) -/
  clockHeld : Bool
  clockPassed : Bool
  /-- tiles of the MZERO in issue whose requests have entered the table (R256) -/
  entered : List Nat := []
  deriving DecidableEq, Repr

/-- A port (R20, R22). -/
structure Port where
  /-- clauses issued -/
  count : Nat := 0
  issue : Option Issue := none
  deriving DecidableEq, Repr

/-- An entry of the store-origin table (R310). -/
structure Origin where
  pc : VAddr
  groupid : Nat
  teamid : Nat
  launchid : Word
  ctx : Nat
  live : Bool
  /-- writes not yet acknowledged -/
  count : Nat
  deriving DecidableEq, Repr

/-- Service state of a core (R381). -/
inductive Service where
  | inService | testing | out
  deriving DecidableEq, Repr

/-- Where the bytes of a copied unit come from: nowhere (R99), a place, or entry `i0` of a CSR source's row `r` (R246). -/
inductive CopySrc where
  | zero
  | at (p : Place)
  | csr (r i0 : Nat)
  deriving DecidableEq, Repr

/-- A copied element, or a byte of two 4-bit elements (R97): its destination, source and bytes. -/
structure CopyUnit where
  dst : Place
  src : CopySrc
  n : Nat
  /-- a single 4-bit element: its half of the source's byte and of the destination's, the high one when true -/
  half : Option (Bool × Bool)
  /-- its destination's page has AGG: no L1 holds its line (R325) -/
  agg : Bool := false
  deriving DecidableEq, Repr

/-- Units of a command that land together, in order, and the bytes credited with them once they have landed (R249). -/
structure Move where
  units : List CopyUnit
  credit : Nat
  landed : Bool := false
  deriving DecidableEq, Repr

/-- A Swage command (R238). -/
structure SwageCmd where
  flight : Nat
  gid : Nat
  team : Nat
  ctx : Nat
  core : Nat
  /-- FN of its instruction (R239), its words 0 and 2, its address -/
  fn : Nat
  w0 : Word
  w2 : Word
  pc : VAddr
  flag : Option Nat
  origin : Option Nat
  /-- snapshots of the destination's and the source's descriptors (R101), and their slots -/
  snapD : List Byte
  snapS : List Byte
  slotD : Nat
  slotS : Nat
  /-- the index word and the index vector (R243) -/
  index : List Word
  /-- the barrier or ring it names, and where it lies; a ring's slot barriers -/
  bar : Place
  pbar : Place
  slotBars : List Place
  /-- CPYR: the permit taken (R248); `waiting` until then -/
  permit : Option Word
  waiting : Bool
  /-- the Swage has accepted it, and its flag has cleared (R238) -/
  accepted : Bool
  /-- its byte total (R249) -/
  total : Nat
  /-- CPYR before its permit: the moves for each slot -/
  alts : List (List Move)
  moves : List Move
  /-- a CSR source's arrays: RPTR, CIDX, VAL -/
  rptr : List Span
  cidx : List Span
  val : List Span
  /-- pages its translations cover: address and size in bits (R251, R328) -/
  pages : List (Nat × Nat)
  /-- a shootdown refused what it has not yet performed; an address of the page it covered -/
  refused : Bool
  refusedAt : Nat := 0
  deriving DecidableEq, Repr

/-- A lane of a queued Crucible operation: lane, key or pair, value (R232). -/
structure TabLane where
  lane : Nat
  key : Nat
  val : Nat
  deriving DecidableEq, Repr

/-- A queued Crucible operation (R229). -/
structure TabOp where
  flight : Nat
  gid : Nat
  team : Nat
  ctx : Nat
  tab : Nat
  /-- FN of its instruction, 8 for HTACC with RES (R231) -/
  fn : Nat
  raw : Bool
  /-- its active present lanes; of HTSTAT, its active lanes -/
  lanes : List TabLane
  origin : Option Nat
  /-- HTDRAIN: the destination, where its bytes lie, the capacity and the barrier (R235) -/
  dst : Option Place
  spans : List Span
  capd : Nat
  bar : Option Place
  /-- pages its destination's translations cover (R328), and a shootdown's refusal -/
  pages : List (Nat × Nat)
  refused : Bool
  refusedAt : Nat := 0
  /-- the spill buffer under the translations of issue, by virtual address, with their pages' sizes in bits (R225, R328) -/
  spill : List (Span × Nat) := []
  deriving DecidableEq, Repr

/-- A drain whose header and records are landing (R235): bytes still to land, each with its place. -/
structure Drain where
  gid : Nat
  ctx : Nat
  flight : Nat
  origin : Option Nat
  bar : Place
  moves : List (Place × List Byte)
  pages : List (Nat × Nat)
  refused : Bool
  refusedAt : Nat := 0
  deriving DecidableEq, Repr

/-- A core (R20, R88, R90, R112, R310, R381). -/
structure Core where
  incarnation : Nat := 0
  release : Word := 0
  service : Service := .inService
  /-- lines by physical line number -/
  l1 : AList Line := []
  tlb : List TlbEntry := []
  ports : AList Port := []
  origins : AList Origin := []
  crucible : List TabOp := []
  drains : AList Drain := []
  swageQueue : List SwageCmd := []
  /-- command slots -/
  swage : AList SwageCmd := []
  /-- groups whose team has ended: residency slot and register-file bytes, held until their flagged operations complete
  (R139) -/
  ended : AList (Nat × Nat) := []
  deriving DecidableEq, Repr

/-! ## Clusters -/

/-- The kinds of Anvil requests (R256). -/
inductive ReqKind where
  | mzero | mma | mmat | mld | mst
  deriving DecidableEq, Repr

/-- A request in the reservation table (R256). -/
structure Request where
  id : Nat
  flight : Nat
  gid : Nat
  team : Nat
  ctx : Nat
  core : Nat
  kind : ReqKind
  /-- its logical tile -/
  tile : Nat
  w0 : Word := 0
  w2 : Word := 0
  pc : VAddr := 0
  flag : Option Nat := none
  origin : Option Nat := none
  /-- snapshots of its handles (R101), and their slots; 16 for none -/
  snapA : List Byte := []
  snapB : List Byte := []
  slotA : Nat := 16
  slotB : Nat := 16
  /-- the record (R263); of MLD and MST: M0, N0, s -/
  record : List Word := []
  /-- issued from a handler: TSTATE.INH -/
  inh : Bool := false
  /-- MMAT: the trigger object and phase (R272) -/
  trigger : Option (Place × Word) := none
  /-- the completion that passes it was observed; true when it was forced -/
  seen : Option Bool := none
  /-- the trigger has passed; true for the other kinds -/
  passed : Bool := true
  /-- the next step's K index; a pass has run -/
  k : Nat := 0
  ran : Bool := false
  suspended : Bool := false
  /-- the address of the fault that suspended it (R275, R312) -/
  faultAddr : Nat := 0
  /-- the clock since which it is eligible, or its last unit ended (R258) -/
  since : Option Nat := none
  /-- flags its passes and writes raised (R80) -/
  ovf : Bool := false
  inv : Bool := false
  /-- it leaves the table when its running unit commits (R276); the THDROPs that wait for it -/
  aborted : Bool := false
  revokers : List Nat := []
  /-- MLD and MST: where the bytes of their pages lie, by virtual address (R328) -/
  spans : List Span := []
  pages : List (Nat × Nat) := []
  refused : Bool := false
  refusedAt : Nat := 0
  deriving DecidableEq, Repr

/-- The unit that runs (R258): its request, the clock at which it ends, and its tile where MREL released it (R268). -/
structure Running where
  req : Nat
  ends : Nat
  gone : Option Tile
  deriving DecidableEq, Repr

/-- A cluster: its Anvil and its instruction cache (R57, R254 to R258). -/
structure Cluster where
  table : List Request := []
  /-- the unit that holds the grant point -/
  running : Option Running := none
  /-- code words by virtual address and ASID: ASID × 2^49 + address -/
  icache : Store 32 := []
  cached : List Nat := []
  /-- the instruction cache's own translations (R326) -/
  itlb : List TlbEntry := []
  deriving DecidableEq, Repr

/-! ## Suspended teams and contexts -/

/-- A suspended team: where its frame stands, its age, and what the frame's layout has no place for. -/
structure Saved where
  launch : Nat
  teamid : Nat
  /-- its identifiers and those of its groups, by GROUPID -/
  team : Nat
  groups : List Nat
  check : BitVec 16
  addr : Nat
  len : Nat
  age : Nat
  /-- its live tiles, and the physical tiles and claimed bytes it needs (R342) -/
  live : Byte
  tiles : Nat
  claimed : Nat
  /-- Anvil requests in table order, Swage commands in their order (R252, R277) -/
  reqs : List Request
  cmds : List SwageCmd
  /-- by GROUPID × 32 + quad: the gang under DET (R280), the re-issue mask of a quad stopped at a re-issued
  instruction (R307), and the quads whose REGANG was released while their group was parked (R308) -/
  det : AList Nat
  only : AList Nibble
  freed : List Nat
  /-- pending events by group (R387) -/
  pend : List (List Pending)
  /-- poisoned tiles and sectors of its scratchpad (R380) -/
  badTiles : List Nat
  padPoison : List Nat
  /-- 64-byte units of its frame that were written poisoned (R380) -/
  bad : List Nat := []
  deriving DecidableEq, Repr

/-- A context (R368, R346, R347). -/
structure Context where
  state : CtxState := .free
  valid : Bool := false
  asid : Nat := 0
  tlimit : Nat := 0
  deadline : Nat := 0
  slice : Nat := 0
  savelen : Nat := 0
  save : Nat := 0
  status : Nat := 0
  err : Nat := 0
  /-- TVECH:TVECL (R301) -/
  tvec : VAddr := 0
  l1pt : Nat := 0
  /-- the LAUNCHID last assigned (R339) -/
  lastid : Word := 0
  hid : Word := 0
  rid : Word := 0
  held : List HeldRecord := []
  heldRegions : List HeldRegion := []
  /-- the error record holds an error (R313) -/
  erred : Bool := false
  /-- start of the residency period, in clocks, while resident (R347) -/
  since : Option Nat := none
  /-- residency before the running period, in clocks (R348) -/
  ran : Nat := 0
  /-- last measured switch cost in microseconds (R347) -/
  costus : Nat := 0
  /-- the host asked for a pre-emption that waits for the floor (R347) -/
  asked : Bool := false
  /-- the slice expired before the floor, in clocks (R347) -/
  deferred : Option Nat := none
  /-- the stop deadline, in clocks, once a pre-emption is requested (R349) -/
  stopping : Option Nat := none
  /-- the clock of the last request and the cost so far (R347) -/
  reqAt : Nat := 0
  saveCost : Nat := 0
  resumeAt : Option Nat := none
  /-- suspensions, modulo 2^32 (R355) -/
  seq : Word := 0
  saved : List Saved := []
  deriving DecidableEq, Repr

/-! ## Homes, apex units -/

/-- A pending entry of a Hallmark record (R113). -/
structure HmEntry where
  core : Nat
  inc : Nat
  e : Word
  deriving DecidableEq, Repr

/-- A Hallmark record (R113). -/
structure Hallmark where
  /-- valid entries PEND0 to PEND3, by number -/
  pend : AList HmEntry := []
  lv : Bool := false
  lcore : Nat := 0
  linc : Nat := 0
  /-- cores that have self-invalidated in an acquire of the line since another core's last release of it (R108, R115;
  log 96) -/
  synced : List Nat := []
  deriving DecidableEq, Repr

/-! ## Operations in flight -/

/-- One lane's access of an operation in flight. -/
structure Piece where
  lane : Nat
  /-- where: a physical place, or a scratchpad -/
  pa : Place
  /-- bytes -/
  w : Nat
  /-- operands B and C -/
  b : Nat
  k : Nat
  /-- the value read, once performed (R61) -/
  got : Option Nat
  /-- it returned poison (R380) -/
  bad : Bool
  /-- the virtual address and page size in bits of its translation (R328), and its AGG bit (R325) -/
  va : Nat := 0
  pbits : Nat := 0
  agg : Bool := false
  /-- a shootdown covered it, and its operation is refused (R328) -/
  covered : Bool := false
  deriving DecidableEq, Repr

/-- The class of an operation in flight. -/
inductive FlightKind where
  /-- LD, LDC: read per line request (R87) -/
  | load
  /-- computed at issue, its result still to be written (R61) -/
  | result
  /-- the same of ADECL's refusal, AFREE, HTCLAIM and HTFREE, which hold the group's later accesses until they complete
  (R211, R234) -/
  | holding
  /-- ATOM and CAS; operation 0 to 6, 7 CAS (R183) -/
  | atomic (op : Nat) (ty : Ty) (ord : Ord)
  /-- ACQ; names .RO; signed extension does not arise (R187) -/
  | acquire (ro : Bool)
  /-- WAIT's acquire (R196) -/
  | waitAcquire
  /-- REL (R188) -/
  | release
  /-- ARRIVE: arrivals and the LCLK they carry (R195, R283) -/
  | arrive (n : Nat) (clk : DWord)
  /-- .RO and .NA stores, peer and host stores, STC (R91, R93, R120) -/
  | through
  /-- barrier updates of BINIT, EXPECT, RINIT and RGIVE are performed at issue; a region leaf store or RED -/
  | leaf (region : Nat) (red : Bool) (ty : Ty)
  /-- a range query or descent: FN and FX (R215, R217) -/
  | query (fn : Nat) (fx : Bool)
  /-- ADECL's build (R211) -/
  | build
  /-- LNCH whose record is held for the host (R315) -/
  | lnch
  | swage
  | anvil
  | crucible
  deriving DecidableEq, Repr

/-- A variable-latency operation or a write in flight (R60, R114, R310). -/
structure Flight where
  gid : Nat
  team : Nat
  ctx : Nat
  core : Nat
  kind : FlightKind
  pc : VAddr := 0
  pieces : List Piece := []
  /-- destination register and width in bytes; sign-extended loads (R180) -/
  dst : Option RegCode := none
  width : Nat := 4
  sext : Bool := false
  pdst : Option PredCode := none
  /-- results by lane: the register value, the predicate -/
  vals : List (Nat × Nat) := []
  preds : List (Nat × Bool) := []
  /-- lanes whose destinations are pending (R61) -/
  lanes : LaneMask := 0
  flag : Option Nat := none
  origin : Option Nat := none
  hint : Hint := .ca
  /-- a fill that a self-invalidation met (R116) -/
  stale : Bool := false
  /-- registers and predicates a later write has overtaken (R61): lane × 128 + register, 2^14 + lane × 16 + predicate -/
  skip : List Nat := []
  /-- parameters of a query, a build or a ring operation -/
  args : List Nat := []
  /-- the lanes a poisoned result concerns are in `pieces`; quads of its gang (R387) -/
  quads : QuadMask := 0
  /-- a shootdown refused it (R311, R328); an address of the page it covered -/
  refused : Bool := false
  refusedAt : Nat := 0
  deriving DecidableEq, Repr

/-! ## The module -/

/-- An event of the host interface: TYPE, STATUS, CTX, TAG, data (R371). -/
structure HostEvent where
  type : Nat
  status : Nat
  ctx : Nat
  tag : Nat
  data : Nat
  deriving DecidableEq, Repr

/-- The BAR0 queue registers of a function (R370) and its waiting events. -/
structure Func where
  cqbase : Nat := 0
  cqlog2 : Nat := 0
  cqtail : Nat := 0
  cqhead : Nat := 0
  eqbase : Nat := 0
  eqlog2 : Nat := 0
  eqhead : Nat := 0
  eqtail : Nat := 0
  waiting : List HostEvent := []
  /-- MSI-X signals sent (R371) -/
  signals : Nat := 0
  /-- bytes returned to the host by its last BAR2 read (R370) -/
  read : List Byte := []
  deriving DecidableEq, Repr

/-- A Chord link (R377, R378). -/
structure Link where
  up : Bool := true
  /-- retries of flits (R377) -/
  retries : Nat := 0
  /-- outbound windows: length in GiB by partition -/
  outbound : AList Nat := []
  /-- the inbound window: partition, extent, length in GiB -/
  inbound : Option (Nat × Nat × Nat) := none
  deriving DecidableEq, Repr

/-- A staged or booted firmware stage (R383). -/
structure Stage where
  image : List Byte := []
  svn : Nat := 0
  minSvn : Nat := 0
  booted : Bool := false
  deriving DecidableEq, Repr

/-- An entry of the module error log (R374). -/
structure LogEntry where
  time : Nat
  addr : Nat
  count : Nat
  ctx : Nat
  part : Nat
  inc : Nat
  core : Nat
  unit : Nat
  site : Nat
  kind : Nat
  detail : Nat
  deriving DecidableEq, Repr

/-- The Iluic's own state (R374, R383 to R385). -/
structure Iluic where
  log : List LogEntry := []
  total : Nat := 0
  lost : Nat := 0
  meas : List Byte := List.replicate 64 0
  stages : AList Stage := []
  recovery : Bool := false
  limit : Nat := 1600
  throttled : Bool := false
  stopped : Bool := false
  deriving DecidableEq, Repr

/-- The state of the machine. -/
structure State where
  /-- steps taken: the counter the free values are applied to (log 2) -/
  tick : Nat
  /-- the turns to take next (log 1) -/
  agenda : List Turn
  /-- the core and port whose instruction is executed (log 1) -/
  cur : Nat × Nat
  /-- the next fresh identifier (log 1) -/
  nextId : Nat
  /-- arithmetic clocks since module reset (R33) -/
  clock : Nat
  mem : Memory
  /-- poisoned 64-byte sectors of home memory, by physical address / 64 (R380) -/
  poison : List Nat
  /-- by physical line (R113) -/
  hallmarks : AList Hallmark
  cores : AList Core
  clusters : AList Cluster
  /-- region slots in use: stack × 256 + slot (R200) -/
  regions : AList Region
  parts : AList Part
  /-- by partition × 1024 + CTXID -/
  ctxs : AList Context
  launches : AList Launch
  teams : AList Team
  groups : AList Group
  /-- by identifier, ascending in issue order -/
  flights : AList Flight
  funcs : AList Func
  links : AList Link
  iluic : Iluic
  deriving DecidableEq, Repr

/-- The machine right after reset (R383): no partition enabled, every core at incarnation 0, the links up. -/
def State.reset : State where
  tick := 0
  agenda := []
  cur := (0, 0)
  nextId := 0
  clock := 0
  mem := []
  poison := []
  hallmarks := []
  cores := []
  clusters := []
  regions := []
  parts := []
  ctxs := []
  launches := []
  teams := []
  groups := []
  flights := []
  funcs := []
  links := []
  iluic := {}

end Sys2Proof.Machine
end

