-- ==== Sys2Proof/Machine/Mem.lean ====
section
/-!
DEFINITION. The memory operations: accessors of the state, homes, poison, L1 lines and update-only copies (R90, R91,
R110, R118), and address translation (R320 to R327).
-/
namespace Sys2Proof.Machine

/-! ## Reading and replacing the parts of the state -/

def State.core (s : State) (n : Nat) : Core := (aget? s.cores n).getD {}
def State.setCore (s : State) (n : Nat) (c : Core) : State := { s with cores := aset s.cores n c }
def State.cluster (s : State) (n : Nat) : Cluster := (aget? s.clusters n).getD {}
def State.setCluster (s : State) (n : Nat) (c : Cluster) : State := { s with clusters := aset s.clusters n c }
def State.part (s : State) (n : Nat) : Part := (aget? s.parts n).getD {}
def State.setPart (s : State) (n : Nat) (p : Part) : State := { s with parts := aset s.parts n p }
def State.ctx (s : State) (n : Nat) : Context := (aget? s.ctxs n).getD {}
def State.setCtx (s : State) (n : Nat) (c : Context) : State := { s with ctxs := aset s.ctxs n c }
def State.launch (s : State) (n : Nat) : Launch := (aget? s.launches n).getD {}
def State.setLaunch (s : State) (n : Nat) (l : Launch) : State := { s with launches := aset s.launches n l }
def State.team (s : State) (n : Nat) : Team := (aget? s.teams n).getD {}
def State.setTeam (s : State) (n : Nat) (t : Team) : State := { s with teams := aset s.teams n t }
def State.group (s : State) (n : Nat) : Group := (aget? s.groups n).getD {}
def State.setGroup (s : State) (n : Nat) (g : Group) : State := { s with groups := aset s.groups n g }
def State.func (s : State) (n : Nat) : Func := (aget? s.funcs n).getD {}
def State.setFunc (s : State) (n : Nat) (f : Func) : State := { s with funcs := aset s.funcs n f }
def State.link (s : State) (n : Nat) : Link := (aget? s.links n).getD {}
def State.setLink (s : State) (n : Nat) (l : Link) : State := { s with links := aset s.links n l }
def State.setFlight (s : State) (n : Nat) (f : Flight) : State := { s with flights := aset s.flights n f }
def State.dropFlight (s : State) (n : Nat) : State := { s with flights := adel s.flights n }

def Group.quad (g : Group) (q : Nat) : Quad := (aget? g.quads q).getD {}
def Group.setQuad (g : Group) (q : Nat) (x : Quad) : Group := { g with quads := aset g.quads q x }
def Core.port (c : Core) (p : Nat) : Port := (aget? c.ports p).getD {}
def Core.setPort (c : Core) (p : Nat) (x : Port) : Core := { c with ports := aset c.ports p x }
def Core.line (c : Core) (l : Nat) : Line := (aget? c.l1 l).getD {}
def Core.setLine (c : Core) (l : Nat) (x : Line) : Core := { c with l1 := aset c.l1 l x }
def Core.dropLine (c : Core) (l : Nat) : Core := { c with l1 := adel c.l1 l }
def Team.tile (t : Team) (i : Nat) : Tile := (aget? t.tiles i).getD {}
def Team.setTile (t : Team) (i : Nat) (x : Tile) : Team := { t with tiles := aset t.tiles i x }
def Team.table (t : Team) (i : Nat) : Table := (aget? t.tables i).getD {}
def Team.setTable (t : Team) (i : Nat) (x : Table) : Team := { t with tables := aset t.tables i x }
def Team.handle (t : Team) (i : Nat) : Handle := (aget? t.handles i).getD {}
def Team.setHandle (t : Team) (i : Nat) (x : Handle) : Team := { t with handles := aset t.handles i x }

/-- The partition of a context. -/
def partOf (ctx : Nat) : Nat := ctx / 1024

/-- GTIME: nanoseconds since module reset, at 600 million clocks a second (R2, R33). -/
def State.nanos (s : State) : Nat := s.clock * 5 / 3

/-- Microseconds since module reset. -/
def State.micros (s : State) : Nat := s.nanos / 1000

/-- A fresh identifier. -/
def State.fresh (s : State) : Nat × State := (s.nextId, { s with nextId := s.nextId + 1 })

/-! ## Physical places -/

/-- The physical place of an interleaved device offset (R366). -/
def devPlace (d : Nat) : Nat := (d / 4096 % 8) * 2 ^ 36 + d / 32768 * 4096 + d % 4096

/-- Where host bus address `a` lies in the memory (R376). -/
def hostPlace (a : Nat) : Nat := 2 ^ 64 + a

/-- Host memory (R376). -/
def isHost (pa : Nat) : Bool := decide (2 ^ 64 ≤ pa ∧ pa < 2 ^ 65)

/-- Where offset `o` of the peer window on a link lies in the memory (R378). -/
def peerPlace (link o : Nat) : Nat := 2 ^ 65 + link * 2 ^ 45 + o

/-- Device memory, not host or peer memory. -/
def isDevice (pa : Nat) : Bool := decide (pa < 2 ^ 39)

/-- The physical line and sector of a place (R87). -/
def lineOf (pa : Nat) : Nat := pa / 256
def sectorOf (pa : Nat) : Nat := pa / 64

/-- A partition's extents cover a stack offset (R366). -/
def Part.covers (p : Part) (off : Nat) : Bool :=
  p.ext.any (fun e => decide (e.1 ≤ off / 2 ^ 30 ∧ off / 2 ^ 30 < e.1 + e.2))

/-- A device place lies in the partition's extents. -/
def Part.owns (p : Part) (pa : Nat) : Bool := isDevice pa && p.covers (pa % 2 ^ 36)

/-- The partition that owns a device place, 31 for none. -/
def ownerOf (s : State) (pa : Nat) : Nat :=
  ((s.parts.filter (fun e => e.2.enabled && e.2.owns pa)).map (fun e => e.1)).headD 31

/-- The cluster beside the home slice of a place (R365; log 12). -/
def homeCluster (s : State) (pa : Nat) : Nat :=
  let cs := (List.range 32).filter (s.part (ownerOf s pa)).clusters.getLsbD
  cs.getD (Config.homeSlice (pa / 4096) / 12 % max 1 cs.length) 0

/-- The home slice of a place, one of the 12 beside its cluster (R3, R365; log 12). -/
def homeSliceOf (s : State) (pa : Nat) : Nat := 12 * homeCluster s pa + Config.homeSlice (pa / 4096) % 12

/-! ## Poison and homes -/

/-- A place in a peer window whose link is down (R377). -/
def State.linkLost (s : State) (pa : Nat) : Bool :=
  decide (2 ^ 65 ≤ pa) && (match aget? s.links ((pa - 2 ^ 65) / 2 ^ 45) with | some l => !l.up | none => false)

/-- A place reads as poisoned: in a poisoned sector of home memory (R380), or behind a link that is down (R377). -/
def State.isPoisoned (s : State) (pa : Nat) : Bool := s.poison.contains (sectorOf pa) || s.linkLost pa

/-- Poison a sector. -/
def State.poisonSector (s : State) (x : Nat) : State :=
  if s.poison.contains x then s else { s with poison := insertBy id x s.poison }

/-- A write of `n` bytes clears the poison of every sector it covers whole (R380). -/
def State.clearPoison (s : State) (pa n : Nat) : State :=
  { s with poison := s.poison.filter (fun x => !decide (pa ≤ 64 * x ∧ 64 * x + 64 ≤ pa + n)) }

/-- The result of a read-modify-write on an integer or F32 value (R183): 0 ADD, 1 MIN, 2 MAX, 3 AND, 4 OR, 5 XOR, 6 EXCH. -/
def combine (op : Nat) (t : Ty) (old b : Nat) : Nat :=
  let w := t.width
  match op with
  | 0 => if t = .f32 then roundIEEE .f32 .rne (addV .rne (value .f32 old) (value .f32 b)) else (old + b) % 2 ^ w
  | 1 => if t.signed then (if sgn w old ≤ sgn w b then old else b) else min old b
  | 2 => if t.signed then (if sgn w old ≤ sgn w b then b else old) else max old b
  | 3 => old &&& b
  | 4 => old ||| b
  | 5 => old ^^^ b
  | _ => b

/-- An operation's identity, with which an update-only partial begins (R118). -/
def identityOf (k : RedKind) : Nat :=
  let w := k.ty.width
  match k.op with
  | 0 => if k.ty = .f32 then 0x80000000 else 0
  | 1 => if k.ty.signed then 2 ^ (w - 1) - 1 else 2 ^ w - 1
  | 2 => if k.ty.signed then 2 ^ (w - 1) else 0
  | 3 => 2 ^ w - 1
  | _ => 0

/-- Combine a line's partials into the home (R118); a poisoned line stays poisoned. -/
def combineLine (m : Memory) (line : Nat) (x : Line) : Memory :=
  match x.red with
  | none => m
  | some k =>
    let n := k.ty.width / 8
    x.held.foldl (fun m off =>
      let a := line * 256 + off
      writeBytes m a (toBytes (combine k.op k.ty (ofBytes (readBytes m a n)) (Store.get x.partials off).toNat) n)) m

/-- The home combines a core's update-only copy, which goes; partials of a poisoned sector poison the home's (R118,
R380). -/
def combineCopy (s : State) (c line : Nat) (x : Line) : State :=
  let s := { s with mem := combineLine s.mem line x }
  let s := ((List.range 4).filter x.poison.getLsbD).foldl (fun s k => s.poisonSector (line * 4 + k)) s
  s.setCore c ((s.core c).dropLine line)

/-- The home recalls and combines every update-only copy of a line (R118). -/
def recallCopies (s : State) (line : Nat) : State :=
  s.cores.foldl (fun s e =>
    match aget? e.2.l1 line with
    | some x =>
      if x.state = .u then combineCopy s e.1 line x else s
    | none => s) s

/-- Read bytes at their home: update-only copies are recalled first (R118). -/
def homeRead (s : State) (pa n : Nat) : List Byte × State :=
  let s := recallCopies s (lineOf pa)
  (readBytes s.mem pa n, s)

/-- What a read at the home returns, its copies recalled (R118), for a look that leaves the state as it is. -/
def homeBytes (s : State) (pa n : Nat) : List Byte := (homeRead s pa n).1

/-- Write bytes at their home, recalling update-only copies first (R118). -/
def homeWrite (s : State) (pa : Nat) (bs : List Byte) : State :=
  let s := recallCopies s (lineOf pa)
  { s with mem := writeBytes s.mem pa bs }.clearPoison pa bs.length

/-! ## Aggregate regions' bytes -/

/-- Bytes of a leaf (R202). -/
def Region.leafBytes (r : Region) : Nat :=
  match Ty.code .i64 == BitVec.ofNat 5 r.attr.toNat || Ty.code .fx64 == BitVec.ofNat 5 r.attr.toNat with
  | true => 8
  | false => 4

/-- Tree levels (R203). -/
def Region.levels (r : Region) : Nat := (r.log2n + 1) / 2

/-- Entries of a level (R203). -/
def Region.count (r : Region) (k : Nat) : Nat := (2 ^ r.log2n + 4 ^ k - 1) / 4 ^ k

/-- KIND of the attribute word (R201). -/
def Region.kindNo (r : Region) : Nat := bits r.attr.toNat 11 8

/-- Bytes of an entry (R204). -/
def Region.entryBytes (r : Region) : Nat := if r.kindNo = 3 then 16 else 8

/-- Offset of entry (k, j) in the shadow (R204). -/
def Region.off (r : Region) (k j : Nat) : Nat :=
  r.entryBytes * (j + (List.range (k - 1)).foldl (fun a i => a + max (r.count (i + 1)) 4) 0)

/-- Bytes of the shadow (R204). -/
def Region.shadowBytes (r : Region) : Nat :=
  r.entryBytes * (List.range r.levels).foldl (fun a i => a + max (r.count (i + 1)) 4) 0

/-- Bytes of the leaves. -/
def Region.bytes (r : Region) : Nat := r.leafBytes * 2 ^ r.log2n

/-- What a place is to the declared regions: nothing, leaf bytes, or shadow bytes of a slot. -/
inductive RegionHit where
  | none
  | leaf (slot : Nat) (r : Region)
  | shadow (slot : Nat) (r : Region)
  deriving DecidableEq, Repr

/-- The place of an offset of a list of spans. -/
def spanAt (xs : List Span) (off : Nat) : Nat :=
  match xs.find? (fun x => decide (x.off ≤ off ∧ off < x.off + x.len)) with
  | some x => x.pa + (off - x.off)
  | none => 0

/-- The offset at which a physical place lies in a list of spans. -/
def spanOff (xs : List Span) (pa : Nat) : Option Nat :=
  (xs.find? (fun x => decide (x.pa ≤ pa ∧ pa < x.pa + x.len))).map (fun x => x.off + (pa - x.pa))

/-- Where a physical place falls among the declared regions (R207). -/
def regionHit (s : State) (pa : Nat) : RegionHit :=
  match s.regions.find? (fun e => (spanOff e.2.leaves pa).isSome) with
  | some e => .leaf e.1 e.2
  | none =>
    match s.regions.find? (fun e => (spanOff e.2.shadow pa).isSome) with
    | some e => .shadow e.1 e.2
    | none => .none

/-! ## L1 lines -/

/-- Write a line's dirty bytes into the home, byte by byte (R90, R110). -/
def mergeDirty (m : Memory) (line : Nat) (x : Line) : Memory :=
  (List.range 256).foldl (fun m i =>
    if x.dirty.getLsbD i then Store.set m (line * 256 + i) (Store.get x.bytes i) else m) m

/-- Sectors of a line that hold dirty bytes. -/
def dirtySectors (x : Line) : List Nat :=
  (List.range 4).filter (fun k => decide (x.dirty.extractLsb' (64 * k) 64 ≠ 0))

/-- Write back a core's line: its dirty bytes, or its update-only partials; a D line becomes C, a U line goes
(R90, R118). -/
def writebackLine (s : State) (c line : Nat) : State :=
  match aget? (s.core c).l1 line with
  | none => s
  | some x =>
    match x.state with
    | .d =>
      let s := recallCopies s line
      let bad := (dirtySectors x).filter x.poison.getLsbD
      let full := (dirtySectors x).filter (fun k => decide (x.dirty.extractLsb' (64 * k) 64 = BitVec.allOnes 64))
      let s := { s with mem := mergeDirty s.mem line x }
      let s := full.foldl (fun s k => s.clearPoison (line * 256 + 64 * k) 64) s
      let s := bad.foldl (fun s k => s.poisonSector (line * 4 + k)) s
      s.setCore c ((s.core c).setLine line { x with state := .c, dirty := 0, efirst := 0 })
    | .u => combineCopy s c line x
    | _ => s

/-- Write back a core's line and make its copy invalid (R117, R122). -/
def flushLine (s : State) (c line : Nat) : State :=
  let s := writebackLine s c line
  s.setCore c ((s.core c).dropLine line)

/-- Lines of a core. -/
def linesOf (s : State) (c : Nat) : List Nat := (s.core c).l1.map (fun e => e.1)

/-- Write back every dirty line of a core and combine its update-only copies (R318, R125). -/
def writebackAll (s : State) (c : Nat) : State := (linesOf s c).foldl (fun s l => writebackLine s c l) s

/-- A pull: every dirty line whose EFIRST precedes or equals E, and all update-only lines (R112, R115, R118). -/
def pullLines (s : State) (c : Nat) (e : Word) : State :=
  (linesOf s c).foldl (fun s l =>
    let x := (s.core c).line l
    if x.state = .u || (x.state = .d && decide ((e - x.efirst).toNat < 2 ^ 31)) then writebackLine s c l else s) s

/-- Before a core's release count advances to `next`, its dirty lines whose EFIRST would lag it by 2^30 or more are written
back (R112). -/
def writebackLagging (s : State) (c : Nat) (next : Word) : State :=
  (linesOf s c).foldl (fun s l =>
    let x := (s.core c).line l
    if x.state = .d && decide (2 ^ 30 ≤ (next - x.efirst).toNat) then writebackLine s c l else s) s

/-- A line at a self-invalidation: C lines go, and R lines when asked, those that stay being noted as kept; a D line keeps its
dirty bytes and no others, as they alone may be served after an acquire (R109, R115; log 80). -/
def Line.afterAcquire (x : Line) (ro : Bool) : Option Line :=
  match x.state with
  | .c => none
  | .r => if ro then none else some { x with kept := true }
  | .d => some { x with valid := 0 }
  | _ => some x

/-- Self-invalidation at an acquire; fills in flight are not installed (R115, R116). -/
def selfInvalidate (s : State) (c : Nat) (ro : Bool) : State :=
  let k := s.core c
  let s := s.setCore c { k with l1 := k.l1.filterMap (fun e => (e.2.afterAcquire ro).map (fun x => (e.1, x))) }
  { s with flights := s.flights.map (fun e =>
      if e.2.core = c && e.2.kind = .load then (e.1, { e.2 with stale := true }) else e) }

/-- The mask of `n` bytes from offset `off` of a line. -/
def byteMask (off n : Nat) : BitVec 256 := BitVec.ofNat 256 ((2 ^ n - 1) * 2 ^ off)

/-- Can the line serve `n` bytes at `off` (R90): every byte dirty, or in a valid sector. -/
def Line.serves (x : Line) (off n : Nat) : Bool :=
  (x.state = .c || x.state = .r || x.state = .d) &&
  (List.range n).all (fun i => x.dirty.getLsbD (off + i) || x.valid.getLsbD ((off + i) / 64))

/-- Fetch a sector into a line under its dirty bytes (R90). -/
def fillSector (x : Line) (m : Memory) (line k : Nat) (bad : Bool) (newState : LineState) (first : Bool) : Line :=
  let bytes := (List.range 64).foldl (fun b i =>
    let j := 64 * k + i
    if x.dirty.getLsbD j then b else Store.set b j (Store.get m (line * 256 + j))) x.bytes
  { x with
    state := if x.state = .i then newState else if x.state = .c && newState = .r then .r else x.state
    bytes := bytes
    valid := x.valid ||| BitVec.ofNat 4 (2 ^ k)
    -- poisoned dirty bytes keep their sector's poison (R380)
    poison := if bad then x.poison ||| BitVec.ofNat 4 (2 ^ k)
      else if x.dirty.extractLsb' (64 * k) 64 ≠ 0 then x.poison
      else x.poison &&& ~~~ BitVec.ofNat 4 (2 ^ k)
    first := x.first || first }

/-- The bytes a load reads at a line: dirty bytes of the core over the home's (R90). -/
def overlay (x : Line) (m : Memory) (line off n : Nat) : List Byte :=
  (List.range n).map (fun i =>
    if x.dirty.getLsbD (off + i) then Store.get x.bytes (off + i) else Store.get m (line * 256 + off + i))

/-- No place of a declared region or shadow. -/
def noRegion : RegionHit → Bool
  | .none => true
  | _ => false

/-- May a fill install: not .NA, no host memory, outside every declared region, no self-invalidation since (R90, R91, R116,
R376). -/
def mayInstall (s : State) (pa : Nat) (h : Hint) (stale : Bool) : Bool :=
  h != .na && !stale && !isHost pa && noRegion (regionHit s pa)

/-- Lines a core's L1 holds: 2,048 KiB of 256 bytes (R3). -/
def l1Lines : Nat := 8192

/-- A line's rank for replacement: lines first in line, then others, those of a KEEP range last among their equals (R91,
R95). -/
def Line.rank (x : Line) : Nat := (if x.first then 0 else 2) + (if x.last then 1 else 0)

/-- The line a full L1 evicts: one of the lowest rank, a free choice (log 26). -/
def victimOf (s : State) (c : Nat) : Option Nat :=
  match leastBy (fun e => e.2.rank) (s.core c).l1 with
  | none => none
  | some m =>
    let xs := (s.core c).l1.filter (fun e => e.2.rank == m.2.rank)
    (xs[Config.victim s.tick % xs.length]?).map (fun e => e.1)

/-- Room in a core's L1 for a line: one it does not hold while it is full evicts another, with its writeback (R3, R90). -/
def makeRoom (s : State) (c line : Nat) : State :=
  if (aget? (s.core c).l1 line).isSome || decide ((s.core c).l1.length < l1Lines) then s
  else match victimOf s c with
    | some v => flushLine s c v
    | none => s

/-- A line of a KEEP range takes its place for replacement (R95). -/
def keepLine (s : State) (c line : Nat) (keep : Bool) : State :=
  match (if keep then aget? (s.core c).l1 line else none) with
  | some x => s.setCore c ((s.core c).setLine line { x with last := true })
  | none => s

/-- A read of bytes that a core's dirty bytes lie over is poisoned: at the home, or in the core's line (R122, R380). -/
def Line.poisons (x : Line) (s : State) (pa n : Nat) : Bool :=
  (List.range n).any (fun i =>
    if x.dirty.getLsbD (pa % 256 + i) then x.poison.getLsbD ((pa % 256 + i) / 64) else s.isPoisoned (pa + i))

/-- A load of `n` bytes within a sector by a core under a hint: value, poison (R90 to R92). -/
def l1Load (s : State) (c pa n : Nat) (h : Hint) (stale : Bool) : List Byte × Bool × State :=
  let line := lineOf pa
  let off := pa % 256
  let x := (s.core c).line line
  if x.serves off n then
    let x' := if h = .ro && x.state = .c then { x with state := .r } else x
    (readBytes x.bytes off n, x.poison.getLsbD (off / 64), s.setCore c ((s.core c).setLine line x'))
  else
    let s := recallCopies s line
    let x := (s.core c).line line
    let k := off / 64
    let bad := x.poisons s pa n
    let v := overlay x s.mem line off n
    if mayInstall s pa h stale then
      let x' := fillSector x s.mem line k (s.isPoisoned pa) (if h = .ro then .r else .c) (h = .st)
      let s := makeRoom s c line
      (v, bad, s.setCore c ((s.core c).setLine line x'))
    else (v, bad, s)

/-- A load that bypasses L1 installs nothing but sees the core's dirty bytes (R91 .NA, R122). -/
def readThrough (s : State) (c pa n : Nat) : List Byte × Bool × State :=
  let s := recallCopies s (lineOf pa)
  let x := (s.core c).line (lineOf pa)
  (overlay x s.mem (lineOf pa) (pa % 256) n, x.poisons s pa n, s)

/-- A store of bytes into L1 (R90): a U line first goes to the home, a line without dirty bytes takes EFIRST; a kept R line
loses its mark and with it the older bytes (R109; log 80). -/
def l1Store (s : State) (c pa : Nat) (bs : List Byte) (first : Bool) : State :=
  let line := lineOf pa
  let off := pa % 256
  let s := if ((s.core c).line line).state = .u then writebackLine s c line else s
  let s := makeRoom s c line
  let k := s.core c
  let x := k.line line
  let m := byteMask off bs.length
  let x' := { x with
    state := .d
    dirty := x.dirty ||| m
    valid := if x.kept then 0 else x.valid
    kept := false
    efirst := if x.dirty = 0 then k.release else x.efirst
    bytes := writeBytes x.bytes off bs
    first := x.first || first }
  s.setCore c (k.setLine line x')

/-- A write-through store performed at the home, updating the core's copy in place; the bytes become clean (R91). -/
def throughStore (s : State) (c pa : Nat) (bs : List Byte) : State :=
  let line := lineOf pa
  let off := pa % 256
  let s := if ((s.core c).line line).state = .u then writebackLine s c line else s
  let s := homeWrite s pa bs
  let k := s.core c
  match aget? k.l1 line with
  | none => s
  | some x =>
    let d := x.dirty &&& ~~~ byteMask off bs.length
    let gone := x.state = .d && d = 0
    s.setCore c (k.setLine line { x with
      bytes := writeBytes x.bytes off bs, dirty := d
      state := if gone then .c else x.state
      efirst := if gone then 0 else x.efirst })

/-- A RED gathered into the core's update-only copy of a line (R118). -/
def redGather (s : State) (c pa : Nat) (k : RedKind) (b : Nat) : State :=
  let line := lineOf pa
  let off := pa % 256
  let x := (s.core c).line line
  let s :=
    if x.state = .u && x.red = some k then s
    else
      -- other operations' partials are recalled before the home serves this one
      let s := flushLine s c line
      s.cores.foldl (fun s e =>
        match aget? e.2.l1 line with
        | some y => if y.state = .u && y.red ≠ some k then writebackLine s e.1 line else s
        | none => s) s
  let s := makeRoom s c line
  let x := (s.core c).line line
  let old := if x.held.contains off then (Store.get x.partials off).toNat else identityOf k
  let x' := { x with
    state := .u, red := some k, valid := 0, bytes := []
    partials := Store.set x.partials off (BitVec.ofNat 64 (combine k.op k.ty old b))
    held := if x.held.contains off then x.held else insertBy id off x.held }
  s.setCore c ((s.core c).setLine line x')

/-- A RED on a line that no L1 may hold, on an AGG page: combined at the home at once (R118, R322, R325). -/
def redHome (s : State) (c pa : Nat) (k : RedKind) (b : Nat) : State :=
  let (bs, s) := homeRead (flushLine s c (lineOf pa)) pa (k.ty.width / 8)
  homeWrite s pa (toBytes (combine k.op k.ty (ofBytes bs) b) (k.ty.width / 8))

/-! ## Translation -/

/-- A table entry of R322: malformed entries count as TYPE 0. -/
inductive Entry where
  | invalid
  | next (kind addr : Nat)
  | leaf (l : Leaf)
  deriving DecidableEq, Repr

/-- Page size in bits at a level (R321). -/
def levelBits (lvl : Nat) : Nat := if lvl = 1 then 38 else if lvl = 2 then 27 else 16

/-- Read a table entry of a level (R322). -/
def readEntry (lvl e : Nat) : Entry :=
  let ty := e % 4
  let kind := bits e 11 10
  let addr := bits e 47 12 * 4096
  let flagBits := bits e 9 5
  if bits e 63 48 ≠ 0 ∨ bits e 4 2 ≠ 0 ∨ ty = 3 ∨ ty = 0 then .invalid
  else if kind < 2 ∧ bits e 47 39 ≠ 0 then .invalid
  else if ty = 1 then
    if lvl = 3 ∨ 2 ≤ kind ∨ bits e 13 12 ≠ 0 ∨ flagBits ≠ 0 then .invalid else .next kind addr
  else
    let agg := bitOf e 9
    if addr % 2 ^ levelBits lvl ≠ 0 ∨ (agg ∧ kind ≠ 1) then .invalid
    else .leaf ⟨addr, kind, agg, bitOf e 8, bitOf e 7, bitOf e 6, bitOf e 5, levelBits lvl⟩

/-- The place of a device address by MEM 0 or 1 (R324). -/
def memPlace (kind a : Nat) : Nat := if kind = 0 then devPlace a else a

/-- A device address by MEM lies in the partition's ranges (R324). -/
def memInRange (p : Part) (kind a : Nat) : Bool :=
  if kind = 0 then decide (a < 384 * 2 ^ 30) && p.owns (devPlace a)
  else decide (a % 2 ^ 36 < 48 * 2 ^ 30) && p.owns a

/-- The causes of translation (R85, R302). -/
inductive Cause where
  | illop | illreg | illclause | depmiss | align | addr | xlate | prot | stalehdl | aregion | hmlost | poison
  | saturate | htfull | brk | trapn | mmafault | stack | nolane | killed | timelimit | restore
  deriving DecidableEq, Repr

/-- The code of a cause (R302). -/
def Cause.code : Cause → Nat
  | .illop => 1 | .illreg => 2 | .illclause => 3 | .depmiss => 4 | .align => 5 | .addr => 6 | .xlate => 7
  | .prot => 8 | .stalehdl => 9 | .aregion => 0xA | .hmlost => 0xB | .poison => 0xC | .saturate => 0xD
  | .htfull => 0xE | .brk => 0xF | .trapn => 0x10 | .mmafault => 0x11 | .stack => 0x40 | .nolane => 0x41
  | .killed => 0x42 | .timelimit => 0x43 | .restore => 0x44

/-- The outcome of a walk: a leaf or the cause of its failure. -/
inductive Walked where
  | ok (l : Leaf)
  | bad (c : Cause)
  deriving DecidableEq, Repr

/-- WALK of R323 from a level's table, `kind` and `t` its MEM and address; `n` levels are left. -/
def walkFrom (s : State) (p : Part) (va : Nat) : Nat → Nat → Nat → Walked
  | 0, _, _ => .bad .xlate
  | n + 1, kind, t =>
    let lvl := 3 - n
    let idx := va / 2 ^ levelBits lvl % 2048
    let a := memPlace kind (t + 8 * idx)
    if !memInRange p kind (t + 8 * idx) then .bad .prot
    else if (recallCopies s (lineOf a)).isPoisoned a then .bad .poison
    else match readEntry lvl (ofBytes (homeBytes s a 8)) with
      | .invalid => .bad .xlate
      | .leaf l => .ok l
      | .next kind' t' => walkFrom s p va n kind' t'

/-- A walk of a context's tables (R323). -/
def walk (s : State) (ctx va : Nat) : Walked :=
  walkFrom s (s.part (partOf ctx)) va 3 0 (s.ctx ctx).l1pt

/-- A TLB entry covers an address of an ASID (R326). -/
def TlbEntry.hits (e : TlbEntry) (asid va : Nat) : Bool :=
  e.asid == asid && va / 2 ^ e.leaf.size == e.page

/-- The translation an access uses: one a TLB holds, unless it has been replaced since, or a walk; `salt` names the access
among those of an instruction, which may differ (R326, R327). -/
def translateBy (s : State) (tlb : List TlbEntry) (ctx salt va : Nat) : Walked :=
  match tlb.find? (fun e => e.hits (s.ctx ctx).asid va) with
  | some e =>
    let w := walk s ctx va
    if w = .ok e.leaf then w else if Config.tlbReplaced s.tick e.page salt then w else .ok e.leaf
  | none => walk s ctx va

/-- The translation of a core's access that no lane makes. -/
def translate (s : State) (c ctx va : Nat) : Walked := translateBy s (s.core c).tlb ctx 0 va

/-- A TLB with a translation that an access used (R326): at most 2,048, the oldest leaving. -/
def tlbWith (tlb : List TlbEntry) (asid va : Nat) (l : Leaf) : List TlbEntry :=
  let e : TlbEntry := ⟨asid, va / 2 ^ l.size, l⟩
  if tlb.contains e then tlb else (e :: tlb.filter (fun x => !x.hits asid va)).take 2048

/-- The core's TLB takes the translation an access used (R326). -/
def tlbInsert (s : State) (c ctx va : Nat) (l : Leaf) : State :=
  let k := s.core c
  s.setCore c { k with tlb := tlbWith k.tlb (s.ctx ctx).asid va l }

/-- What an access needs of its leaf (R325). -/
structure Need where
  r : Bool
  w : Bool
  x : Bool
  /-- forbidden on host and peer memory -/
  local_ : Bool
  deriving DecidableEq, Repr

def Need.read : Need := ⟨true, false, false, false⟩
def Need.write : Need := ⟨false, true, false, false⟩
def Need.acquire : Need := ⟨true, false, false, true⟩
def Need.localWrite : Need := ⟨false, true, false, true⟩
def Need.both : Need := ⟨true, true, false, true⟩
def Need.fetch : Need := ⟨false, false, true, true⟩

/-- The physical place of an address under a leaf; none where the frame is outside the partition's ranges (R324,
R376, R378). -/
def Leaf.place (s : State) (ctx : Nat) (l : Leaf) (va : Nat) : Option Nat :=
  let p := s.part (partOf ctx)
  let a := l.frame + va % 2 ^ l.size
  match l.kind with
  | 0 | 1 => if memInRange p l.kind a then some (memPlace l.kind a) else none
  | 2 => if a < p.hlen * 2 ^ 30 then some (hostPlace (p.hbase + a)) else none
  | _ =>
    let link := a / 2 ^ 45 % 8
    let off := a % 2 ^ 45
    match aget? (s.link link).outbound (partOf ctx) with
    | some len => if off < len * 2 ^ 30 then some (peerPlace link off) else none
    | none => none

/-- Does a leaf permit an access (R325); `inh` is TSTATE.INH. -/
def Leaf.permits (l : Leaf) (n : Need) (inh : Bool) : Bool :=
  (!n.r || l.r) && (!n.w || l.w) && (!n.x || l.x) && (!n.local_ || l.kind < 2) && (!l.sup || inh)

/-- The outcome of the checks XLATE and PROT on one address (R85): a place and its leaf, or a cause. -/
inductive Mapped where
  | ok (pa : Nat) (l : Leaf)
  | bad (c : Cause)
  deriving DecidableEq, Repr

/-- XLATE and PROT of one address of a context under a translation (R85, R324, R325). -/
def mapBy (s : State) (ctx : Nat) (inh : Bool) (need : Need) (va : Nat) : Walked → Mapped
  | .bad e => .bad e
  | .ok l =>
    if !l.permits need inh then .bad .prot
    else match l.place s ctx va with
      | some pa => .ok pa l
      | none => .bad .prot

/-- XLATE and PROT of one address of a context by a core (R85, R324, R325). -/
def mapAddr (s : State) (c ctx : Nat) (inh : Bool) (need : Need) (va : Nat) : Mapped :=
  mapBy s ctx inh need va (translate s c ctx va)

/-- The same of a lane's own access (R327). -/
def mapLane (s : State) (c ctx : Nat) (inh : Bool) (need : Need) (lane va : Nat) : Mapped :=
  mapBy s ctx inh need va (translateBy s (s.core c).tlb ctx (lane + 1) va)

/-- The same of an instruction fetch, by the cluster's own translations (R326). -/
def mapCode (s : State) (core ctx : Nat) (inh : Bool) (va : Nat) : Mapped :=
  mapBy s ctx inh .fetch va (translateBy s (s.cluster (core / 4)).itlb ctx 0 va)

/-! ## Scratchpad -/

/-- Claimed byte ranges of a team (R220, R221). -/
def Table.range (t : Table) : Nat × Nat :=
  let w0 := (t.words.headD 0).toNat
  let base := ((t.words.drop 1).headD 0).toNat % 2 ^ 20
  (base, 64 * 2 ^ bits w0 9 6)

/-- A span of a team's scratchpad touches a claimed range (R220). -/
def Team.claims (t : Team) (off n : Nat) : Bool :=
  t.tables.any (fun e => e.2.claimed &&
    decide (off < (e.2.range).1 + (e.2.range).2 ∧ (e.2.range).1 < off + n))

/-- Poison of a span of a scratchpad (R380). -/
def Team.padBad (t : Team) (off n : Nat) : Bool :=
  t.padPoison.any (fun x => decide (64 * x < off + n ∧ off < 64 * x + 64))

/-- Write bytes of a scratchpad; a write that covers a sector clears its poison. -/
def Team.padWrite (t : Team) (off : Nat) (bs : List Byte) : Team :=
  { t with
    pad := writeBytes t.pad off bs
    padPoison := t.padPoison.filter (fun x => !decide (off ≤ 64 * x ∧ 64 * x + 64 ≤ off + bs.length)) }

/-- The 64-byte sectors that spans, each an address and a length, cover whole together: one write of an instruction or a
block clears their poison (R87, R380; log 81). -/
def wholeSectors (spans : List (Nat × Nat)) : List Nat :=
  (distinct (spans.map (fun x => x.1 / 64))).filter (fun k =>
    (List.range 64).all (fun i => spans.any (fun x => decide (x.1 ≤ 64 * k + i ∧ 64 * k + i < x.1 + x.2))))

/-- A write covered these spans of home memory (R380). -/
def State.coverHome (s : State) (spans : List (Nat × Nat)) : State :=
  { s with poison := s.poison.filter (fun x => !(wholeSectors spans).contains x) }

/-- A line whose poisoned sectors a write covered whole. -/
def Line.covered (x : Line) (line : Nat) (spans : List (Nat × Nat)) : Line :=
  if x.poison = 0 then x
  else { x with poison := (List.range 4).foldl (fun p k =>
      if (wholeSectors spans).contains (4 * line + k) then p &&& ~~~ BitVec.ofNat 4 (2 ^ k) else p) x.poison }

/-- A write covered these spans of a core's L1 (R380). -/
def State.coverL1 (s : State) (c : Nat) (spans : List (Nat × Nat)) : State :=
  { s with cores := s.cores.map (fun e =>
      if e.1 = c then (e.1, { e.2 with l1 := e.2.l1.map (fun l => (l.1, l.2.covered l.1 spans)) }) else e) }

/-- A write covered these spans of a scratchpad (R380). -/
def Team.coverPad (t : Team) (spans : List (Nat × Nat)) : Team :=
  { t with padPoison := t.padPoison.filter (fun x => !(wholeSectors spans).contains x) }

/-- Write bytes of a team's scratchpad, while the team has it (R139). -/
def State.writePad (s : State) (team off : Nat) (bs : List Byte) : State :=
  match aget? s.teams team with
  | some t => s.setTeam team (t.padWrite off bs)
  | none => s

/-- Change a group that has not gone. -/
def State.updGroup (s : State) (gid : Nat) (f : Group → Group) : State :=
  match aget? s.groups gid with
  | some g => s.setGroup gid (f g)
  | none => s

end Sys2Proof.Machine
end

