-- ==== Sys2Proof/Machine/Ops.lean ====
section
/-!
DEFINITION. The shared operations on groups and contexts: lanes and guards (R12 to R14), registers (R26, R27), the
reconvergence stack (R17 to R19), host events (R371, R372), context-fatal errors (R312, R313, R382), and taking an
exception and returning from one (R303 to R307).
-/
namespace Sys2Proof.Machine

/-! ## Launch records (R335) -/

/-- A field of a launch record. -/
def recField (r : List Byte) (hi lo : Nat) : Nat := bits (ofBytes r) hi lo

def Launch.nlanes (l : Launch) : Nat := recField l.record 383 373 + 1
/-- V registers allocated to each lane (R28). -/
def Launch.vregs (l : Launch) : Nat := 8 * (recField l.record 372 369 + 1)
def Launch.ngroups (l : Launch) : Nat := (l.nlanes + 127) / 128
/-- Scratchpad bytes of a team. -/
def Launch.padBytes (l : Launch) : Nat := 256 * recField l.record 368 356
def Launch.det (l : Launch) : Bool := bitOf (ofBytes l.record) 316
def Launch.check (l : Launch) : Bool := bitOf (ofBytes l.record) 315
def Launch.isCluster (l : Launch) : Bool := bitOf (ofBytes l.record) 314
def Launch.prio (l : Launch) : Nat := recField l.record 319 317
/-- Teams of the launch. -/
def Launch.teams (l : Launch) : Nat :=
  let n := recField l.record 351 320 + 1
  if l.isCluster then 4 * n else n

/-- The next hold or request identifier of a context: it skips 0 and those the host has still to answer (R372). -/
def nextName (w : Word) (used : List Word) : Word :=
  (((List.range (used.length + 2)).map (fun i => w + 1 + BitVec.ofNat 32 i)).find? (fun x =>
    x != 0 && !used.contains x)).getD (w + 1)

/-! ## Host events (R371, R372) -/

/-- Queue an event for a function (R371). -/
def postEvent (s : State) (func : Nat) (e : HostEvent) : State :=
  let f := s.func func
  s.setFunc func { f with waiting := f.waiting ++ [e] }

/-- An event of a context goes to its partition's function (R372). -/
def ctxEvent (s : State) (ctx type data : Nat) : State :=
  postEvent s (s.part (partOf ctx)).func ⟨type, 0, ctx % 1024, 0, data⟩

/-! ## Writes of the device under a context's translation (R368) -/

/-- Write bytes at a virtual address of a context at their homes; discarded without a valid translation that permits
writes. -/
def ctxWrite (s : State) (ctx va : Nat) (bs : List Byte) : State :=
  match walk s ctx va with
  | .ok l =>
    if l.w then
      match l.place s ctx va with
      | some pa => homeWrite s pa bs
      | none => s
    else s
  | .bad _ => s

/-- Read bytes at a virtual address of a context at their home; none without a valid, readable translation. -/
def ctxRead (s : State) (ctx va n : Nat) : Option (List Byte × State) :=
  match walk s ctx va with
  | .ok l =>
    if l.r then
      match l.place s ctx va with
      | some pa => some (homeRead s pa n)
      | none => none
    else none
  | .bad _ => none

/-- Change bytes at a virtual address of a context at their home; discarded without a valid translation that permits
writes (R368). -/
def ctxUpdate (s : State) (ctx va n : Nat) (f : Nat → Nat) : State :=
  match walk s ctx va with
  | .ok l =>
    match (if l.w then l.place s ctx va else none) with
    | some pa => homeWrite s pa (toBytes (f (ofBytes (homeBytes s pa n))) n)
    | none => s
  | .bad _ => s

/-- Change a saturating 32-bit counter of a context's status block (R346) at a byte offset. -/
def statusAdd (s : State) (ctx off n : Nat) : State :=
  ctxUpdate s ctx ((s.ctx ctx).status + off) 4 (fun v => min (v + n) (2 ^ 32 - 1))

/-- Set a word of a context's status block (R346). -/
def statusSet (s : State) (ctx off n : Nat) : State := ctxWrite s ctx ((s.ctx ctx).status + off) (toBytes n 4)

/-! ## Context-fatal errors (R312, R313, R382) -/

/-- What an error record says (R312). -/
structure ErrorInfo where
  cause : Nat
  double : Bool := false
  exited : Bool := false
  imprecise : Bool := false
  launchid : Nat := 0
  teamid : Nat := 0
  groupid : Nat := 0
  addr : Nat := 0
  core : Nat := 0
  inc : Nat := 0
  pc : VAddr := 0

/-- The 32 bytes of an error record (R312). -/
def errorRecord (s : State) (e : ErrorInfo) (killed : Bool) : List Byte :=
  toBytes
    (s.nanos % 2 ^ 64 * 2 ^ 192 + e.launchid * 2 ^ 160 + e.teamid * 2 ^ 128 + e.addr % 2 ^ 49 * 2 ^ 79
      + e.core * 2 ^ 72 + e.inc * 2 ^ 68 + e.groupid * 2 ^ 64 + e.pc.toNat / 4 * 2 ^ 17 + e.cause * 2 ^ 9
      + b2n e.double * 32 + b2n e.exited * 16 + b2n e.imprecise * 8 + b2n killed * 4 + 1) 32

/-- The writes in flight of a killed context: each lands or not, which is a free value (R382; log 9). -/
def landKilled (s : State) (ctx : Nat) : State :=
  s.flights.foldl (fun s e =>
    if e.2.ctx = ctx && e.2.kind = .through && !e.2.refused && !Config.refusedInFlight s.tick e.1 then
      e.2.pieces.foldl (fun s p =>
        match p.pa with
        | .glob pa => throughStore s e.2.core pa (toBytes p.b p.w)
        | .pad t off => s.writePad t off (toBytes p.b p.w)) s
    else s) s

/-- Discard all work in flight of a context: launches, teams, groups, commands and requests, saved teams (R382), and the
regions still to be built (R211). -/
def discardWork (s : State) (ctx : Nat) : State :=
  let s := landKilled s ctx
  let isTeam := fun (t : Nat) => (s.launch (s.team t).launch).ctx == ctx && (aget? s.teams t).isSome
  let isGroup := fun (g : Nat) => isTeam (s.group g).team
  let c := s.ctx ctx
  let unbuilt := fun (slot : Nat) => s.flights.any (fun f =>
    f.2.ctx == ctx && f.2.kind == .build && f.2.args.head? == some slot)
  let s' := { s with
    regions := s.regions.filter (fun e => !unbuilt e.1)
    cores := s.cores.map (fun e => (e.1, { e.2 with
      ports := e.2.ports.map (fun p => (p.1, { p.2 with issue := p.2.issue.filter (fun i => !isGroup i.gid) }))
      origins := e.2.origins.filter (fun o => o.2.ctx != ctx)
      crucible := e.2.crucible.filter (fun o => o.ctx != ctx)
      drains := e.2.drains.filter (fun o => o.2.ctx != ctx)
      swageQueue := e.2.swageQueue.filter (fun o => o.ctx != ctx)
      swage := e.2.swage.filter (fun o => o.2.ctx != ctx) }))
    clusters := s.clusters.map (fun e => (e.1, { e.2 with
      table := e.2.table.filter (fun r => r.ctx != ctx)
      running := e.2.running.filter (fun i => e.2.table.any (fun r => r.id == i.req && r.ctx != ctx)) }))
    flights := s.flights.filter (fun e => e.2.ctx != ctx)
    groups := s.groups.filter (fun e => !isGroup e.1)
    teams := s.teams.filter (fun e => !isTeam e.1)
    launches := s.launches.filter (fun e => e.2.ctx != ctx) }
  -- the save area's VALID clears (R382): bit 128 of its header
  let s' := if c.saved.isEmpty then s' else homeWrite s' (devPlace (c.save + 16)) [0]
  s'.setCtx ctx { s'.ctx ctx with saved := [], held := [], heldRegions := [], stopping := none, since := none }

/-- Add an entry to the module error log (R374): the latest 4,096; a corrected error like the newest one merges. -/
def logError (s : State) (e : LogEntry) : State :=
  let u := s.iluic
  let merges : Bool := e.kind == 1 &&
    (match (u.log.filter (fun x => x.kind == 1)).getLast? with
     | some x => x.unit == e.unit && x.site == e.site && decide (e.time ≤ x.time + 10 ^ 9)
     | none => false)
  if merges then
    let bump := fun (x : LogEntry) => { x with count := min (x.count + 1) 0xFFFF }
    let rec last : List LogEntry → List LogEntry
      | [] => []
      | x :: xs => if x.kind == 1 && !xs.any (fun y => y.kind == 1) then bump x :: xs else x :: last xs
    { s with iluic := { u with log := last u.log } }
  else
    let full := u.log.length ≥ 4096
    { s with iluic := { u with
        log := (if full then u.log.drop 1 else u.log) ++ [e]
        total := min (u.total + 1) (2 ^ 32 - 1)
        lost := if full then min (u.lost + 1) (2 ^ 32 - 1) else u.lost } }

/-- The STATE code of a context table entry (R368). -/
def CtxState.code : CtxState → Nat
  | .free => 0 | .live => 1 | .stopped => 2 | .killed => 3

/-- The device-written doubleword of a context's table entry: VALID, STATE and ASID (R368). -/
def entryWord (c : Context) : Nat := b2n c.valid + c.state.code * 2 + c.asid * 2 ^ 32

/-- Write it into the context table (R368). -/
def noteEntry (s : State) (ctx : Nat) : State :=
  let p := s.part (partOf ctx)
  if p.enabled && decide (ctx % 1024 < p.nctx) then
    homeWrite s (devPlace (p.ctxtab + 64 * (ctx % 1024))) (toBytes (entryWord (s.ctx ctx)) 8)
  else s

/-- A context-fatal error: the first writes the error record and posts CTXERR, later ones set OVERRUN; the context is
killed, or stopped for triage (R313, R315, R382). -/
def contextFatalAs (triage : Bool) (s : State) (ctx : Nat) (e : ErrorInfo) : State :=
  let c := s.ctx ctx
  if c.erred then ctxUpdate s ctx c.err 1 (fun v => v ||| 2)
  else
    let record := errorRecord s e (!triage)
    let s := ctxWrite s ctx c.err record
    let s := ctxEvent s ctx 5 (e.cause + ofBytes record % 64 * 2 ^ 8 + c.err % 2 ^ 49 * 2 ^ 64)
    -- KIND 5 is a kill: a stop for triage is none (R315, R374)
    let s := if triage then s
      else logError s ⟨s.nanos, 0, 1, ctx % 1024, partOf ctx, e.inc, e.core, 7, 0, 5, ofBytes (record.take 8)⟩
    let s := discardWork s ctx
    noteEntry (s.setCtx ctx { s.ctx ctx with erred := true, state := if triage then .stopped else .killed }) ctx

/-- A context-fatal error under the partition's TRIAGE mode (R315). -/
def contextFatal (s : State) (ctx : Nat) (e : ErrorInfo) : State :=
  contextFatalAs ((s.part (partOf ctx)).split.getLsbD 3) s ctx e

/-! ## Lanes (R12 to R14) -/

/-- Lanes of a mask that hold a predicate's value; PT is true in every lane (R25). -/
def predLanes (g : Group) (p : PredCode) : LaneMask :=
  if p = 15 then BitVec.allOnes 128
  else maskOf ((List.range 128).filter (fun l => Store.get g.p (16 * l + p.toNat) == 1))

/-- The lanes of a list of quads' nibbles. -/
def nibbleLanes (q : Nat) (m : Nibble) : LaneMask := (m.setWidth 128) <<< (4 * q)

/-- The nibble of a quad in a lane mask. -/
def laneNibble (m : LaneMask) (q : Nat) : Nibble := m.extractLsb' (4 * q) 4

/-- The active masks of a gang's quads (R13, R14). -/
def gangMask (g : Group) (qs : QuadMask) : LaneMask :=
  (quadsOf qs).foldl (fun m q => m ||| nibbleLanes q ((g.quad q).mask &&& ~~~ (g.quad q).exited)) 0

/-- The present lanes of a group (R12, R13). -/
def presentLanes (l : Launch) (idx : Nat) : LaneMask :=
  let n := min 128 (l.nlanes - 128 * idx)
  BitVec.ofNat 128 (2 ^ n - 1)

/-- The lowest lane of a mask. -/
def lowestLane (m : LaneMask) : Option Nat := (List.range 128).find? m.getLsbD

/-! ## The gang that issues -/

/-- What an instruction sees: the state, its port, its gang, group, team, launch and context. -/
structure Env where
  s : State
  core : Nat
  port : Nat
  is : Issue
  g : Group
  t : Team
  l : Launch
  ctx : Nat
  /-- the active masks of the gang's quads -/
  mask : LaneMask
  /-- the group's present lanes -/
  pres : LaneMask

def Env.gid (e : Env) : Nat := e.is.gid
def Env.inh (e : Env) : Bool := e.g.frame.tstate.getLsbD 10

/-- The environment of the port in turn, when it issues a gang. -/
def State.env? (s : State) : Option Env :=
  match ((s.core s.cur.1).port s.cur.2).issue with
  | none => none
  | some is =>
    let g := s.group is.gid
    let t := s.team g.team
    let l := s.launch t.launch
    let m := gangMask g is.quads
    some ⟨s, s.cur.1, s.cur.2, is, g, t, l, l.ctx,
      match is.only with | none => m | some o => m &&& o, presentLanes l g.idx⟩

/-- Run an encoded instruction on the gang in turn. -/
def withEnv (s : State) (k : Env → Host.Outcome State Fault Refusal) : Host.Outcome State Fault Refusal :=
  match s.env? with
  | none => .fault .noGang
  | some e => k e

/-- The active lanes of an instruction under its guard (R14). -/
def Env.active (e : Env) (c : Ctl) : LaneMask :=
  let p := predLanes e.g c.pred
  e.mask &&& (if c.neg then ~~~ p else p)

/-- Words of the instruction in issue. -/
def Issue.len (i : Issue) : Nat := wordsOfLen (lenOf (i.words.headD 0))

/-- The address of the instruction after the one in issue; at the clause's end, of the next clause's header. -/
def Issue.after (i : Issue) : VAddr := i.pc + BitVec.ofNat 49 (4 * i.len)

/-- Is the instruction in issue the last of its clause. -/
def Issue.isLast (i : Issue) : Bool := i.rem ≤ 1

/-- Distance in words from the clause header to the next instruction. -/
def Issue.hoff (i : Issue) : Nat := (i.pc - i.hdr).toNat / 4

/-- The flag an FS selects: none for 15 (R60). -/
def Issue.flag (i : Issue) (fs : Bool) : Option Nat :=
  let f := if fs then i.setb else i.seta
  if f ≤ 11 then some f else none

/-! ## Registers (R26, R27) -/

/-- A V or S register of a lane. -/
def readReg (g : Group) (lane r : Nat) : Word :=
  if r < 96 then Store.get g.v (128 * lane + r) else Store.get g.sr (r - 96)

/-- A value of `w` bits from an aligned register set, low word first (R5, R26). -/
def readSet (g : Group) (lane : Nat) (r : RegCode) (w : Nat) : Nat :=
  (List.range ((w + 31) / 32)).foldr (fun i acc => (readReg g lane (r.toNat + i)).toNat + 2 ^ 32 * acc) 0 % 2 ^ (max w 32)

/-- Operand B of width `w` (R52). -/
def readB (g : Group) (lane : Nat) (b : SrcB) (w : Nat) : Nat :=
  match b with
  | .reg r => readSet g lane r w
  | .lit v => v.toNat

/-- Write a register of a lane, or an S register. -/
def writeReg (g : Group) (lane r : Nat) (v : Word) : Group :=
  if r < 96 then { g with v := Store.set g.v (128 * lane + r) v }
  else { g with sr := Store.set g.sr (r - 96) v }

/-- Write a register set of `n` registers from a number, low word first. -/
def writeSet (g : Group) (lane r : Nat) (v : Nat) : Nat → Group
  | 0 => g
  | n + 1 => writeSet (writeReg g lane r (BitVec.ofNat 32 v)) lane (r + 1) (v / 2 ^ 32) n

/-- A predicate of a lane (R25). -/
def readPred (g : Group) (lane : Nat) (p : PredCode) : Bool :=
  p == 15 || Store.get g.p (16 * lane + p.toNat) == 1

/-- Write a predicate; PT is not writable and 15 as a destination names none (R25, R55). -/
def writePred (g : Group) (lane : Nat) (p : PredCode) (v : Bool) : Group :=
  if p.toNat < 12 then { g with p := Store.set g.p (16 * lane + p.toNat) (if v then 1 else 0) } else g

/-- A register operand is within its group's allocation and aligned (R26). -/
def regOk (vregs : Nat) (r : RegCode) (w : Nat) : Bool :=
  let n := (w + 31) / 32
  let i := if r.toNat < 96 then r.toNat else r.toNat - 96
  (i % n == 0) && (96 ≤ r.toNat || r.toNat + n ≤ vregs)

/-- Set STICKY flags (R30). -/
def stickyOr (g : Group) (f : Flags) : Group :=
  let m := b2n f.ovf + 2 * b2n f.inv + 4 * b2n f.spill + 8 * b2n f.drop + 16 * b2n f.asat
  { g with sticky := g.sticky ||| BitVec.ofNat 32 m }

/-! ## The reconvergence stack (R17 to R19, R358) -/

/-- A stack entry (R17): KIND 1 MARK, 2 PEND, 3 CALL, 4 TRAP. -/
def stackEntry (kind : Nat) (m : Nibble) (rem : Nat) (pc : VAddr) : DWord :=
  BitVec.ofNat 64 (kind * 2 ^ 60 + m.toNat * 2 ^ 56 + rem * 2 ^ 51 + pc.toNat / 4)

def entryKind (e : DWord) : Nat := bits e.toNat 63 60
def entryMask (e : DWord) : Nibble := e.extractLsb' 56 4
def entryRem (e : DWord) : Nat := bits e.toNat 55 51
def entryPc (e : DWord) : VAddr := BitVec.ofNat 49 (4 * bits e.toNat 46 0)

/-- Number of the partition's cores below a core (R358). -/
def coreIndex (p : Part) (core : Nat) : Nat :=
  ((List.range core).filter (fun c => p.clusters.getLsbD (c / 4))).length

/-- Where a spilled entry stands: entry `i` from the bottom (R358). -/
def spillPlace (s : State) (g : Group) (q i : Nat) : Nat :=
  let p := s.part (partOf (s.launch (s.team g.team).launch).ctx)
  devPlace (p.pstack + 2 ^ 16 * (96 * coreIndex p g.core + g.slot) + 1920 * q + 8 * i)

/-- Entries of a quad's stack. -/
def Quad.depth (q : Quad) : Nat := q.resident.length + q.spilled

/-- Push an entry, spilling the 8 oldest resident ones when 16 are resident (R19): they fill a sector, which is poisoned no
more (R380). The caller checks the depth. -/
def push (s : State) (gid q : Nat) (e : DWord) : State :=
  let g := s.group gid
  let x := g.quad q
  if x.resident.length < 16 then s.setGroup gid (g.setQuad q { x with resident := e :: x.resident })
  else
    let old := (x.resident.drop 8).reverse
    let mem := (old.zip (List.range 8)).foldl
      (fun m p => writeBytes m (spillPlace s g q (x.spilled + p.2)) (toBytes p.1.toNat 8)) s.mem
    ({ s with mem := mem }.clearPoison (spillPlace s g q x.spilled) 64).setGroup gid
      (g.setQuad q { x with resident := e :: x.resident.take 8, spilled := x.spilled + 8 })

/-- Refill up to 8 spilled entries when none is resident (R19); poisoned ones stay marked (R380; log 103). -/
def refill (s : State) (gid q : Nat) : State :=
  let g := s.group gid
  let x := g.quad q
  if x.resident.isEmpty && 0 < x.spilled then
    let n := min 8 x.spilled
    let es := (List.range n).map (fun i =>
      BitVec.ofNat 64 (ofBytes (readBytes s.mem (spillPlace s g q (x.spilled - 1 - i)) 8)))
    let bad := (List.range n).any (fun i => s.isPoisoned (spillPlace s g q (x.spilled - 1 - i)))
    s.setGroup gid (g.setQuad q { x with resident := es, spilled := x.spilled - n, badStack := x.badStack || bad })
  else s

/-- The top entry of a quad's stack. -/
def topEntry (s : State) (gid q : Nat) : Option DWord := ((s.group gid).quad q).resident.head?

/-- Pop the top entry (R19). -/
def pop (s : State) (gid q : Nat) : State :=
  let g := s.group gid
  let x := g.quad q
  refill (s.setGroup gid (g.setQuad q { x with resident := x.resident.drop 1 })) gid q

/-- Change a quad of a group. -/
def updQuad (s : State) (gid q : Nat) (f : Quad → Quad) : State :=
  let g := s.group gid
  s.setGroup gid (g.setQuad q (f (g.quad q)))

/-- A quad continues at a clause header. -/
def Quad.goto (x : Quad) (pc : VAddr) : Quad :=
  { x with kind := .header, pc := pc, rem := 0, hoff := 0, only := none }

/-- The unwinding loop of EXIT (R138): pops until an entry leaves a live lane, the stack is empty (the quad ends), or a
TRAP entry holds the quad for trap return (R307). -/
def unwind (s : State) (gid q : Nat) : Nat → State
  | 0 => s
  | n + 1 =>
    let x := (s.group gid).quad q
    if x.mask ≠ 0 then s
    else match topEntry s gid q with
      | none => updQuad s gid q (fun x => { x with kind := .ended })
      | some e =>
        let s := pop s gid q
        if entryKind e = 4 then updQuad s gid q (fun x => { x with handled := true })
        else
          let m := entryMask e &&& ~~~ x.exited
          unwind (updQuad s gid q (fun x => { (x.goto (entryPc e)) with mask := m })) gid q n

/-- Depth no unwinding exceeds (R19). -/
def maxDepth : Nat := 256

/-! ## Code -/

/-- The first word of a clause at an address, as its home holds it; none where it cannot be fetched. -/
def peekWord (s : State) (core ctx : Nat) (va : VAddr) : Option Word :=
  match mapCode s core ctx true va.toNat with
  | .ok pa _ => some (BitVec.ofNat 32 (ofBytes (homeBytes s pa 4)))
  | .bad _ => none

/-- Fields of a clause header (R56): WAIT, SETA, SETB, COUNT, YLD. -/
def hdrWait (h : Word) : BitVec 12 := h.extractLsb' 20 12
def hdrSetA (h : Word) : Nat := bits h.toNat 19 16
def hdrSetB (h : Word) : Nat := bits h.toNat 15 12
def hdrCount (h : Word) : Nat := bits h.toNat 11 7
def hdrYld (h : Word) : Bool := h.getLsbD 6

/-! ## Ready stamps -/

/-- Ready stamps are taken afresh for quads that become ready (R22). -/
def freshStamp (s : State) (gid : Nat) : Nat :=
  let g := s.group gid
  ((s.core g.core).port (g.slot % 2)).count

/-! ## REGANG (R23, R280, R308) -/

/-- A quad that a release at REGANG looks at: of the handler while the group is in one, else of the group; not ended, not
blocked in WAIT (R23, R305). A handler's quads that RTT or EXIT already holds are not waited for (log 98, the model's
choice). -/
def regangCounts (inh : Bool) (x : Quad) : Bool :=
  x.kind != .absent && x.kind != .ended && x.waiting.isNone &&
  (if inh then x.handler && !x.handled else true)

/-- A quad waits at a REGANG of this address, one of the handler while the group is in it. -/
def Quad.waitsAt (x : Quad) (inh : Bool) (addr : VAddr) : Bool :=
  (match x.regang with | some r => r.1 == addr | none => false) && (!inh || x.handler)

/-- Release the quads that wait at a REGANG: one gang, ready, at the next clause (R23, R280). -/
def releaseRegang (s : State) (gid : Nat) (addr : VAddr) : State :=
  let g := s.group gid
  let inh := g.frame.tstate.getLsbD 10
  let stamp := freshStamp s gid
  let first := ((g.quads.filter (fun x => x.2.waitsAt inh addr)).map (fun x => x.1)).headD 0
  s.setGroup gid { g with quads := g.quads.map (fun x =>
    if x.2.waitsAt inh addr then (x.1, { x.2 with regang := none, freed := false, det := first, stamp := some stamp })
    else x) }

/-- A REGANG whose quads have all arrived is released; a release of interrupted code waits for trap return (R23, R308). -/
def regangCheck (s : State) (gid : Nat) : State :=
  let g := s.group gid
  let inh := g.frame.tstate.getLsbD 10
  let counted := g.quads.filter (fun x => regangCounts inh x.2)
  match counted with
  | [] => s
  | x :: _ =>
    match x.2.regang with
    | none => s
    | some r =>
      if !g.park && counted.all (fun y => match y.2.regang with | some q => q.1 == r.1 | none => false)
      then releaseRegang s gid r.1 else s

/-- The quads waiting at a REGANG address of a group that a bound may release now (R23, R280, R308). -/
def regangWaiters (g : Group) (addr : VAddr) : List Quad :=
  (g.quads.map (fun x => x.2)).filter (fun x => x.waitsAt (g.frame.tstate.getLsbD 10) addr)

/-- The bound of a REGANG has passed: 64 arbitration rounds of the port since the first waiting quad arrived (R23), or
under DET 1,536 of LCLK (R280). -/
def boundPassed (det : Bool) (g : Group) (addr : VAddr) : Bool :=
  (regangWaiters g addr).any (fun x => match x.regang with
    | some r => if det then decide (1536 ≤ (g.lclk - r.2.2).toNat) else decide (64 ≤ r.2.1)
    | none => false)

/-- The REGANG addresses at which quads of a group wait. -/
def regangAddrs (g : Group) : List VAddr := distinct (g.quads.filterMap (fun x => x.2.regang.map (fun r => r.1)))

/-- Every REGANG of a group whose bound has passed releases its quads (R23, R280). -/
def releaseDue (s : State) (gid : Nat) : State :=
  (regangAddrs (s.group gid)).foldl (fun s a =>
    let g := s.group gid
    if boundPassed (s.launch (s.team g.team).launch).det g a then releaseRegang s gid a else s) s

/-- A group parks: its quads count as blocked in WAIT, so every REGANG of it is released; of the interrupted code at trap
return (R23, R308, R319). -/
def parkGroup (s : State) (gid : Nat) : State :=
  let s := (regangAddrs (s.group gid)).foldl (fun s a => releaseRegang s gid a) s
  s.updGroup gid (fun g => { g with
    park := true, quads := g.quads.map (fun x => (x.1, { x.2 with freed := x.2.regang.isSome })) })

/-- The releases that fell due while the group was in a handler take effect (R308). -/
def releaseFreed (s : State) (gid : Nat) : State :=
  let addrs := distinct ((s.group gid).quads.filterMap (fun x =>
    if x.2.freed then x.2.regang.map (fun r => r.1) else none))
  regangCheck (releaseDue (addrs.foldl (fun s a => releaseRegang s gid a) s) gid) gid

/-! ## Taking an exception (R303 to R305) -/

/-- A trap about to be taken. -/
structure TrapArgs where
  core : Nat
  port : Nat
  gid : Nat
  gang : QuadMask
  cause : Cause
  tcode : Nat := 0
  /-- the handler mask -/
  lanes : LaneMask
  /-- each lane's own cause and address (R301) -/
  each : List (Nat × Cause × Nat)
  resume : VAddr
  rem : Nat
  hdr : Bool
  after : Bool
  seta : Nat
  setb : Nat
  hoff : Nat
  /-- the instruction's address, for an error record -/
  pc : VAddr

/-- TSTATE at entry (R303). -/
def TrapArgs.tstate (a : TrapArgs) : Word :=
  BitVec.ofNat 32 (a.tcode * 2 ^ 24 + a.cause.code * 2 ^ 16 + a.rem * 2 ^ 11 + 2 ^ 10 + b2n a.hdr * 2 ^ 9
    + b2n a.after * 2 ^ 8 + a.setb * 16 + a.seta)

/-- A trap that cannot be delivered is context-fatal (R305): with its cause and DOUBLE inside a handler, NOLANE with no
lane in the mask, STACK without room. -/
def trapFatal (s : State) (a : TrapArgs) (cause : Nat) (double : Bool) : State :=
  let g := s.group a.gid
  let t := s.team g.team
  let l := s.launch t.launch
  let addr := match a.each with | (_, _, v) :: _ => v | [] => 0
  contextFatal s l.ctx
    { cause, double, launchid := l.id.toNat, teamid := t.teamid, groupid := g.idx,
      addr := if double then addr else 0, core := a.core, inc := (s.core a.core).incarnation, pc := a.pc }

/-- The event PARKED of a group (R372). -/
def postParked (s : State) (gid : Nat) : State :=
  let g := s.group gid
  let t := s.team g.team
  let l := s.launch t.launch
  let f := g.frame
  let addr := match lowestLane f.tfault with | some ln => (Store.get f.tladdr ln).toNat | none => 0
  ctxEvent s l.ctx 6
    (g.idx + t.teamid * 2 ^ 32 + l.id.toNat * 2 ^ 64 + f.tstate.toNat * 2 ^ 96 + addr * 2 ^ 128)

/-- Trap entry, one step for the issuing group (R305), ending the clause issue (R20). With SPLIT.PFAULT = 1 an XLATE
parks the group at once (R315). -/
def enterTrap (s : State) (a : TrapArgs) : State :=
  let g := s.group a.gid
  let ctx := (s.launch (s.team g.team).launch).ctx
  let handlers := (quadsOf a.gang).filter (fun q => decide (laneNibble a.lanes q ≠ 0))
  if g.frame.tstate.getLsbD 10 then trapFatal s a a.cause.code true
  else if a.lanes = 0 then trapFatal s a Cause.nolane.code false
  else if handlers.any (fun q => decide (256 ≤ (g.quad q).depth)) then trapFatal s a Cause.stack.code false
  else
    let f : Frame := { g.frame with
      tstate := a.tstate
      tpcl := BitVec.ofNat 32 a.resume.toNat
      tpch := BitVec.ofNat 32 (a.resume.toNat / 2 ^ 32 + (if a.hdr then 0 else a.hoff) * 2 ^ 17)
      tfault := a.lanes
      tact := gangMask g a.gang
      tlcause := a.each.foldl (fun m x => Store.set m x.1 (BitVec.ofNat 8 x.2.1.code)) []
      tladdr := a.each.foldl (fun m x => Store.set m x.1 (BitVec.ofNat 49 x.2.2)) []
      gang := a.gang }
    let s := handlers.foldl (fun s q => push s a.gid q (stackEntry 4 (laneNibble a.lanes q) a.rem a.resume)) s
    let g := s.group a.gid
    let tvec := (s.ctx ctx).tvec
    let quads := g.quads.map (fun e =>
      let x := e.2
      if x.kind = .absent || x.kind = .ended then e
      else if handlers.contains e.1 then
        (e.1, { (x.goto tvec) with mask := laneNibble a.lanes e.1, handler := true, handled := false, stamp := none })
      else (e.1, { x with trapHeld := true, stamp := none }))
    let park := a.cause = .xlate && (s.part (partOf ctx)).split.getLsbD 0
    let s := s.setGroup a.gid { g with frame := f, quads := quads }
    let k := s.core a.core
    let p := k.port a.port
    let s := s.setCore a.core (k.setPort a.port { p with issue := p.issue.filter (fun i => i.gid != a.gid) })
    if park then postParked (parkGroup s a.gid) a.gid else s

/-! ## Returning from an exception (R307) -/

/-- A group whose quads have all ended (R139). -/
def Group.allEnded (g : Group) : Bool := g.quads.all (fun e => e.2.kind = .ended || e.2.kind = .absent)

/-- The end of a group (R139): its origins are no longer LIVE, pending HTFULL is dropped, a suspended Anvil request is
fatal (R275). -/
def groupEnd (s : State) (gid : Nat) : State :=
  let g := s.group gid
  let t := s.team g.team
  let l := s.launch t.launch
  let k := s.core g.core
  let k' := { k with origins := k.origins.map (fun e =>
    if e.2.groupid = g.idx && e.2.teamid = t.teamid && e.2.launchid = l.id && e.2.ctx = l.ctx
    then (e.1, { e.2 with live := false }) else e) }
  let s := (s.setCore g.core k').setGroup gid { g with pend := [] }
  let s := s.setTeam g.team { t with live := t.live - 1 }
  match (s.cluster (g.core / 4)).table.find? (fun r => r.gid == gid && r.suspended) with
  | some r => contextFatal s l.ctx
      { cause := bits ((s.team g.team).tile r.tile).status.toNat 48 41, exited := true, launchid := l.id.toNat,
        teamid := t.teamid, groupid := g.idx, addr := r.faultAddr, core := g.core, inc := k.incarnation, pc := r.pc }
  | none => s

/-- End the group if all its quads have ended. -/
def checkEnd (s : State) (gid : Nat) : State := if (s.group gid).allEnded then groupEnd s gid else s

/-- A request's unit is running. -/
def Cluster.runs (c : Cluster) (r : Request) : Bool := c.running.any (fun u => u.req == r.id)

/-- A request's unit is running on a tile that MREL has released (R268). -/
def Cluster.detached (c : Cluster) (r : Request) : Bool := c.running.any (fun u => u.req == r.id && u.gone.isSome)

/-- A request heads its tile: no earlier one in the table is on it; one of a released tile counts for none (R257, R268). -/
def Cluster.heads (c : Cluster) (r : Request) : Bool :=
  match c.table.find? (fun x => x.team = r.team && x.tile = r.tile && !c.detached x) with
  | some x => x.id == r.id
  | none => false

/-- A request is eligible (R258). -/
def Cluster.eligible (c : Cluster) (r : Request) : Bool := c.heads r && !r.suspended && r.passed

/-- Note the clock at which requests became eligible (R258). -/
def State.markEligible (s : State) (n : Nat) : State :=
  let c := s.cluster n
  s.setCluster n { c with table := c.table.map (fun r =>
    if c.eligible r then { r with since := some (r.since.getD s.clock) } else { r with since := none }) }

/-- The Anvil requests of a group that the return from MMAFAULT re-issues: those whose flag a mask covers; none of their
faults stays pending (R275, R387). -/
def reissueSuspended (s : State) (gid : Nat) (covers : BitVec 12) : State :=
  let g := s.group gid
  let c := s.cluster (g.core / 4)
  c.table.foldl (fun s r =>
    match aget? s.flights r.flight with
    | none => s
    | some f =>
      let hit := match f.flag with | some n => covers.getLsbD n | none => false
      if r.gid = gid && r.suspended && hit then
        let c := s.cluster (g.core / 4)
        let n := f.flag.getD 0
        let s := s.setCluster (g.core / 4)
          { c with table := c.table.map (fun x => if x.id = r.id then { x with suspended := false } else x) }
        let t := s.team r.team
        let x := t.tile r.tile
        let s := (s.setTeam r.team (t.setTile r.tile { x with status := x.status &&& ~~~ (0x1FF#128 <<< 40) })).markEligible
          (g.core / 4)
        let g := s.group gid
        s.setGroup gid { g with
          flags := Store.set g.flags n (Store.get g.flags n + 1)
          pend := g.pend.filter (fun p => !(p.what == .mmafault && p.flag == n)) }
      else s) s

/-- Under DET, quads of one gang that continue at different addresses become separate gangs, each named by its lowest
quad (R280). -/
def splitDet (g : Group) (qs : QuadMask) : Group :=
  { g with quads := g.quads.map (fun x =>
      if qs.getLsbD x.1 then
        let same := (quadsOf qs).filter (fun q =>
          (g.quad q).pc == x.2.pc && (g.quad q).kind == x.2.kind && (g.quad q).handled == x.2.handled)
        (x.1, { x.2 with det := same.headD x.1 })
      else x) }

/-- Trap return (R307): INH clears, the trapped gang's quads take TACT less their exited lanes and continue at the header
or in the remainder; every held gang becomes ready. -/
def trapReturn (s : State) (gid : Nat) : State :=
  let g := s.group gid
  let f := g.frame
  let st := f.tstate
  let tpc : VAddr := BitVec.ofNat 49 (f.tpcl.toNat + f.tpch.toNat % 2 ^ 17 * 2 ^ 32)
  let hdr := st.getLsbD 9
  let after := st.getLsbD 8
  let stamp := freshStamp s gid
  let back := fun (q : Nat) (x : Quad) =>
    let m := laneNibble f.tact q &&& ~~~ x.exited
    let x := { x with mask := m, handler := false, handled := false, trapHeld := false, stamp := some stamp
                      regang := none, waiting := none, freed := false }
    if hdr then x.goto (tpc - 4)
    else { x with kind := .remainder, pc := tpc, rem := bits st.toNat 15 11, seta := bits st.toNat 3 0,
                  setb := bits st.toNat 7 4, hoff := bits f.tpch.toNat 23 17,
                  only := if after then none else some (laneNibble f.tfault q) }
  let quads := g.quads.map (fun e =>
    let x := e.2
    if x.kind = .absent || x.kind = .ended then e
    else if f.gang.getLsbD e.1 then (e.1, back e.1 x)
    else (e.1, { x with trapHeld := false, stamp := if x.waiting.isSome || x.regang.isSome then none else some stamp }))
  let s := s.setGroup gid { g with quads := quads, park := false, frame := { f with tstate := st &&& ~~~ 0x400#32 } }
  let s := (quadsOf f.gang).foldl (fun s q => unwind s gid q (maxDepth + 1)) s
  let s := s.setGroup gid (splitDet (s.group gid) f.gang)
  let covers := match peekWord s g.core (s.launch (s.team g.team).launch).ctx (tpc - 4) with
    | some h => hdrWait h
    | none => 0
  let s := if hdr && bits st.toNat 23 16 == Cause.mmafault.code then reissueSuspended s gid covers else s
  checkEnd (releaseFreed s gid) gid

/-- Trap return happens once no handler quad remains unheld (R307). -/
def tryReturn (s : State) (gid : Nat) : State :=
  let g := s.group gid
  if g.frame.tstate.getLsbD 10 && g.quads.all (fun e => !e.2.handler || e.2.handled) then trapReturn s gid else s

/-! ## Raising, retiring -/

/-- The precise trap of an instruction of the gang in turn (kind I, R304). -/
def raise (e : Env) (s : State) (cause : Cause) (lanes : LaneMask) (each : List (Nat × Cause × Nat)) : State :=
  enterTrap s
    { core := e.core, port := e.port, gid := e.gid, gang := e.is.quads, cause, lanes, each, resume := e.is.pc,
      rem := e.is.rem, hdr := false, after := false, seta := e.is.seta, setb := e.is.setb, hoff := e.is.hoff,
      pc := e.is.pc }

/-- A trap whose every handler lane has the one cause and no address (R59). -/
def raiseAll (e : Env) (s : State) (cause : Cause) (lanes : LaneMask) : State :=
  raise e s cause lanes ((lanesOf lanes).map (fun l => (l, cause, 0)))

/-- The gang's active present lanes under no guard, the handler mask of the decode traps (R59). -/
def Env.decodeLanes (e : Env) (c : Ctl) : LaneMask := e.active c &&& e.pres

/-- A trap raised after retirement (kind A, R304), from the state the retirement left; `is` is the issue before it. -/
def raiseAfter (e : Env) (s : State) (cause : Cause) (tcode : Nat) (lanes : LaneMask)
    (each : List (Nat × Cause × Nat)) : State :=
  let is := e.is
  if is.isLast then
    let n := match peekWord s e.core e.ctx is.after with
      | some h => if 1 ≤ hdrCount h ∧ hdrCount h ≤ 24 then hdrCount h else 1
      | none => 1
    enterTrap s
      { core := e.core, port := e.port, gid := e.gid, gang := is.quads, cause, tcode, lanes, each,
        resume := is.after + 4, rem := n, hdr := true, after := true, seta := is.seta, setb := is.setb, hoff := 0,
        pc := is.pc }
  else
    enterTrap s
      { core := e.core, port := e.port, gid := e.gid, gang := is.quads, cause, tcode, lanes, each,
        resume := is.after, rem := is.rem - 1, hdr := false, after := true, seta := is.seta, setb := is.setb,
        hoff := is.hoff + is.len, pc := is.pc }

/-- A retiring instruction counts for R21; LCLK and DIX advance, unless the group is in a handler (R29). -/
def countRetired (e : Env) (s : State) : State :=
  let g := s.group e.gid
  if e.inh then s.setGroup e.gid { g with retired := g.retired + 1 }
  else
    s.setGroup e.gid { g with
      lclk := g.lclk + 1
      retired := g.retired + 1
      quads := g.quads.map (fun x =>
        if e.is.quads.getLsbD x.1 then (x.1, { x.2 with dix := x.2.dix + 1 }) else x) }

/-- Is every flag of a mask clear (R60). -/
def Group.clear (g : Group) (m : BitVec 12) : Bool :=
  (List.range 12).all (fun f => !m.getLsbD f || Store.get g.flags f == 0)

/-- A quad at a clause header passes its header's wait, as far as its code can be read (R20). -/
def headerPasses (s : State) (g : Group) (x : Quad) : Bool :=
  match x.kind with
  | .remainder => true
  | .header =>
    match peekWord s g.core (s.launch (s.team g.team).launch).ctx x.pc with
    | some h => g.clear (hdrWait h)
    | none => true
  | _ => false

/-- A quad's ready stamp at the end of an issue: kept when it is ready at once, taken afresh after YLD (R20, R22). -/
def stampAfter (e : Env) (s : State) (n : Nat) (g : Group) (x : Quad) : Option Nat :=
  let ready := x.waiting.isNone && x.regang.isNone && !x.trapHeld && !x.handled && headerPasses s g x
  if !ready then none else if e.is.yld then some n else x.stamp

/-- The clause issue ends; the gang's quads continue at their addresses (R20, R22). -/
def endIssue (e : Env) (s : State) : State :=
  let k := s.core e.core
  let p := k.port e.port
  let s := s.setCore e.core (k.setPort e.port { p with issue := none })
  let g := splitDet (s.group e.gid) e.is.quads
  s.setGroup e.gid { g with quads := g.quads.map (fun x =>
    if e.is.quads.getLsbD x.1 then (x.1, { x.2 with stamp := stampAfter e s p.count g x.2 }) else x) }

/-- Send the gang's quads to the next clause. -/
def gotoNext (e : Env) (s : State) : State :=
  let g := s.group e.gid
  s.setGroup e.gid { g with quads := g.quads.map (fun x =>
    if e.is.quads.getLsbD x.1 then (x.1, x.2.goto e.is.after) else x) }

/-- The instruction retires (R29); the issue moves to the next instruction, or ends with its clause (R20). -/
def retire (e : Env) (s : State) : State :=
  let s := countRetired e s
  if e.is.isLast then endIssue e (gotoNext e s)
  else
    let k := s.core e.core
    let p := k.port e.port
    s.setCore e.core (k.setPort e.port { p with issue := some { e.is with
      pc := e.is.after, words := e.is.words.drop e.is.len, rem := e.is.rem - 1, only := none,
      held := false, clockHeld := false, clockPassed := false, entered := [] } })

/-- Stop the gang mid-clause: it resumes at the instruction in issue as a remainder (R20). -/
def parkRemainder (e : Env) (s : State) (pc : VAddr) (rem hoff : Nat) (only : Option LaneMask) : State :=
  let k := s.core e.core
  let p := k.port e.port
  let s := s.setCore e.core (k.setPort e.port { p with issue := none })
  let g := s.group e.gid
  s.setGroup e.gid { g with quads := g.quads.map (fun x =>
    if e.is.quads.getLsbD x.1 then
      (x.1, { x.2 with kind := .remainder, pc := pc, rem := rem, seta := e.is.seta, setb := e.is.setb, hoff := hoff,
                       only := only.map (fun m => laneNibble m x.1), stamp := some p.count })
    else x) }

end Sys2Proof.Machine
end

