-- ==== Sys2Proof/Machine/Operands.lean ====
section
/-!
DEFINITION. Operand forms: the registers and predicates each instruction reads and writes (R26, R55, R62), the checks of
R59 on them, pending writes (R61), and the one course every encoded instruction takes: checks, effect, retirement.
-/
namespace Sys2Proof.Machine

/-- The registers an instruction reads and writes, each with the width of its set in bits, and its predicates. -/
structure Regs where
  src : List (RegCode × Nat)
  dst : List (RegCode × Nat)
  psrc : List PredCode
  pdst : Option PredCode

/-- Operand B as a register operand (R52). -/
def bReg : SrcB → Nat → List (RegCode × Nat)
  | .reg r, w => [(r, w)]
  | .lit _, _ => []

/-- ATOM, CAS, RED, ACQ and REL read a V pair for a global address and an S register for an offset (R62, R178). -/
def gsel (a : RegCode) : Nat := if a.toNat < 96 then 64 else 32

/-- An object operand: an S pair with GL, one S register without (R62, R178). -/
def gw (gl : Bool) : Nat := if gl then 64 else 32

/-- The operands of an instruction. The keyed Crucible instructions' operands count as single 32-bit registers here
(R232). -/
def regsOf : Instr → Regs
  | .nop _ => ⟨[], [], [], none⟩
  | .yield _ => ⟨[], [], [], none⟩
  | .trap _ _ => ⟨[], [], [], none⟩
  | .brk _ => ⟨[], [], [], none⟩
  | .ppoint a => ⟨[(a, 64)], [], [], none⟩
  | .exit _ => ⟨[], [], [], none⟩
  | .bra _ _ => ⟨[], [], [], none⟩
  | .brx _ a => ⟨[(a, 64)], [], [], none⟩
  | .call _ => ⟨[], [], [], none⟩
  | .ret => ⟨[], [], [], none⟩
  | .rtt => ⟨[], [], [], none⟩
  | .mark _ => ⟨[], [], [], none⟩
  | .join => ⟨[], [], [], none⟩
  | .regang => ⟨[], [], [], none⟩
  | .lnch _ d a _ => ⟨[(a, 32)], [(d, 32)], [], none⟩
  | .qswz _ ty d a _ => ⟨[(a, ty.width)], [(d, ty.width)], [], none⟩
  | .qbc _ ty d a _ => ⟨[(a, ty.width)], [(d, ty.width)], [], none⟩
  | .shflIdx _ ty d a b => ⟨[(a, ty.width)] ++ bReg b 32, [(d, ty.width)], [], none⟩
  | .shflUp _ ty d a b => ⟨[(a, ty.width)] ++ bReg b 32, [(d, ty.width)], [], none⟩
  | .shflDown _ ty d a b => ⟨[(a, ty.width)] ++ bReg b 32, [(d, ty.width)], [], none⟩
  | .shflXor _ ty d a b => ⟨[(a, ty.width)] ++ bReg b 32, [(d, ty.width)], [], none⟩
  | .ballot _ ty d p => ⟨[], [(d, ty.width)], [p], none⟩
  | .voteAll _ pd p => ⟨[], [], [p], some pd⟩
  | .voteAny _ pd p => ⟨[], [], [p], some pd⟩
  | .voteUni _ pd p => ⟨[], [], [p], some pd⟩
  | .matchAny _ ty d a => ⟨[(a, ty.width)], [(d, 32)], [], none⟩
  | .elect _ pd => ⟨[], [], [], some pd⟩
  | .reduxAdd _ ty d a => ⟨[(a, ty.width)], [(d, ty.width)], [], none⟩
  | .reduxMin _ ty d a => ⟨[(a, ty.width)], [(d, ty.width)], [], none⟩
  | .reduxMax _ ty d a => ⟨[(a, ty.width)], [(d, ty.width)], [], none⟩
  | .reduxAnd _ ty d a => ⟨[(a, ty.width)], [(d, ty.width)], [], none⟩
  | .reduxOr _ ty d a => ⟨[(a, ty.width)], [(d, ty.width)], [], none⟩
  | .reduxXor _ ty d a => ⟨[(a, ty.width)], [(d, ty.width)], [], none⟩
  | .scanAdd _ ty _ d a => ⟨[(a, ty.width)], [(d, ty.width)], [], none⟩
  | .scanMin _ ty _ d a => ⟨[(a, ty.width)], [(d, ty.width)], [], none⟩
  | .scanMax _ ty _ d a => ⟨[(a, ty.width)], [(d, ty.width)], [], none⟩
  | .scanAnd _ ty _ d a => ⟨[(a, ty.width)], [(d, ty.width)], [], none⟩
  | .scanOr _ ty _ d a => ⟨[(a, ty.width)], [(d, ty.width)], [], none⟩
  | .scanXor _ ty _ d a => ⟨[(a, ty.width)], [(d, ty.width)], [], none⟩
  | .iadd _ ty _ d a b => ⟨[(a, ty.width)] ++ bReg b ty.width, [(d, ty.width)], [], none⟩
  | .isub _ ty _ d a b => ⟨[(a, ty.width)] ++ bReg b ty.width, [(d, ty.width)], [], none⟩
  | .imul _ ty _ d a b => ⟨[(a, ty.width)] ++ bReg b ty.width, [(d, ty.width)], [], none⟩
  | .iaddc _ ty d pd a b p => ⟨[(a, ty.width)] ++ bReg b ty.width, [(d, ty.width)], [p], some pd⟩
  | .imulh _ _ d a b => ⟨[(a, 32)] ++ bReg b 32, [(d, 32)], [], none⟩
  | .imad _ ty _ d a b k => ⟨[(a, ty.width)] ++ bReg b ty.width ++ [(k, ty.width)], [(d, ty.width)], [], none⟩
  | .imin _ ty d a b => ⟨[(a, ty.width)] ++ bReg b ty.width, [(d, ty.width)], [], none⟩
  | .imax _ ty d a b => ⟨[(a, ty.width)] ++ bReg b ty.width, [(d, ty.width)], [], none⟩
  | .iabs _ ty _ d a => ⟨[(a, ty.width)], [(d, ty.width)], [], none⟩
  | .and _ ty d a b => ⟨[(a, ty.width)] ++ bReg b ty.width, [(d, ty.width)], [], none⟩
  | .or _ ty d a b => ⟨[(a, ty.width)] ++ bReg b ty.width, [(d, ty.width)], [], none⟩
  | .xor _ ty d a b => ⟨[(a, ty.width)] ++ bReg b ty.width, [(d, ty.width)], [], none⟩
  | .not _ ty d a => ⟨[(a, ty.width)], [(d, ty.width)], [], none⟩
  | .shl _ ty d a b => ⟨[(a, ty.width)] ++ bReg b 32, [(d, ty.width)], [], none⟩
  | .shr _ ty d a b => ⟨[(a, ty.width)] ++ bReg b 32, [(d, ty.width)], [], none⟩
  | .sar _ ty d a b => ⟨[(a, ty.width)] ++ bReg b 32, [(d, ty.width)], [], none⟩
  | .fshf _ d a b k => ⟨[(a, 32)] ++ bReg b 32 ++ [(k, 32)], [(d, 32)], [], none⟩
  | .popc _ ty d a => ⟨[(a, ty.width)], [(d, 32)], [], none⟩
  | .clz _ ty d a => ⟨[(a, ty.width)], [(d, 32)], [], none⟩
  | .brev _ ty d a => ⟨[(a, ty.width)], [(d, ty.width)], [], none⟩
  | .bfe _ ty d a _ _ => ⟨[(a, ty.width)], [(d, ty.width)], [], none⟩
  | .bfi _ ty d a b _ _ => ⟨[(a, ty.width)] ++ bReg b ty.width, [(d, ty.width)], [], none⟩
  | .lea _ d a b _ => ⟨[(a, 64)] ++ bReg b 32, [(d, 64)], [], none⟩
  | .mov _ ty d a => ⟨[(a, ty.width)], [(d, ty.width)], [], none⟩
  | .movi _ d _ => ⟨[], [(d, 32)], [], none⟩
  | .sprRead _ ty d _ => ⟨[], [(d, ty.width)], [], none⟩
  | .sprWrite _ b => ⟨bReg b 32, [], [], none⟩
  | .isetp _ ty _ pd a b => ⟨[(a, ty.width)] ++ bReg b ty.width, [], [], some pd⟩
  | .fsetp _ _ pd a b => ⟨[(a, 32)] ++ bReg b 32, [], [], some pd⟩
  | .dsetp _ _ pd a b => ⟨[(a, 64)] ++ bReg b 64, [], [], some pd⟩
  | .sel _ ty d a b p => ⟨[(a, ty.width)] ++ bReg b ty.width, [(d, ty.width)], [p], none⟩
  | .plop _ pd p q r _ => ⟨[], [], [p, q, r], some pd⟩
  | .fadd _ _ d a b => ⟨[(a, 32)] ++ bReg b 32, [(d, 32)], [], none⟩
  | .fmul _ _ d a b => ⟨[(a, 32)] ++ bReg b 32, [(d, 32)], [], none⟩
  | .ffma _ _ d a b k => ⟨[(a, 32)] ++ bReg b 32 ++ [(k, 32)], [(d, 32)], [], none⟩
  | .fmin _ d a b => ⟨[(a, 32)] ++ bReg b 32, [(d, 32)], [], none⟩
  | .fmax _ d a b => ⟨[(a, 32)] ++ bReg b 32, [(d, 32)], [], none⟩
  | .fscale _ _ d a b => ⟨[(a, 32)] ++ bReg b 32, [(d, 32)], [], none⟩
  | .fclass _ ty d a => ⟨[(a, ty.width)], [(d, 32)], [], none⟩
  | .frcp _ _ d a => ⟨[(a, 32)], [(d, 32)], [], none⟩
  | .frsq _ _ d a => ⟨[(a, 32)], [(d, 32)], [], none⟩
  | .fsqrt _ _ d a => ⟨[(a, 32)], [(d, 32)], [], none⟩
  | .fexp2 _ _ d a => ⟨[(a, 32)], [(d, 32)], [], none⟩
  | .flog2 _ _ d a => ⟨[(a, 32)], [(d, 32)], [], none⟩
  | .fsin _ _ d a => ⟨[(a, 32)], [(d, 32)], [], none⟩
  | .fcos _ _ d a => ⟨[(a, 32)], [(d, 32)], [], none⟩
  | .dadd _ _ d a b => ⟨[(a, 64)] ++ bReg b 64, [(d, 64)], [], none⟩
  | .dmul _ _ d a b => ⟨[(a, 64)] ++ bReg b 64, [(d, 64)], [], none⟩
  | .dfma _ _ d a b k => ⟨[(a, 64)] ++ bReg b 64 ++ [(k, 64)], [(d, 64)], [], none⟩
  | .hadd2 _ _ _ d a b => ⟨[(a, 32)] ++ bReg b 32, [(d, 32)], [], none⟩
  | .hmul2 _ _ _ d a b => ⟨[(a, 32)] ++ bReg b 32, [(d, 32)], [], none⟩
  | .hfma2 _ _ _ d a b k => ⟨[(a, 32)] ++ bReg b 32 ++ [(k, 32)], [(d, 32)], [], none⟩
  | .cvt _ ty src _ _ d a => ⟨[(a, max 32 src.width)], [(d, max 32 ty.width)], [], none⟩
  | .cvtp _ _ _ _ _ d a b => ⟨[(a, 32)] ++ bReg b 32, [(d, 32)], [], none⟩
  | .cvtx _ _ _ _ d a => ⟨[(a, 32)], [(d, 32)], [], none⟩
  | .dot2 _ _ _ d a b => ⟨[(a, 32)] ++ bReg b 32 ++ [(d, 32)], [(d, 32)], [], none⟩
  | .dot4 _ _ _ sc _ d a b k => ⟨[(a, 32)] ++ bReg b 32 ++ [(d, 32)] ++ (if sc then [(k, 32)] else []), [(d, 32)], [], none⟩
  | .dot8 _ _ _ sc _ d a b k => ⟨[(a, 32)] ++ bReg b 32 ++ [(d, 32)] ++ (if sc then [(k, 32)] else []), [(d, 32)], [], none⟩
  | .ld _ ty _ d a _ => ⟨[(a, 64)], [(d, max 32 ty.width)], [], none⟩
  | .st _ ty _ a b _ => ⟨[(a, 64)] ++ bReg b (max 32 ty.width), [], [], none⟩
  | .lds _ ty d a _ => ⟨[(a, 32)], [(d, max 32 ty.width)], [], none⟩
  | .sts _ ty a b _ => ⟨[(a, 32)] ++ bReg b (max 32 ty.width), [], [], none⟩
  | .ldc _ ty d a _ _ => ⟨[(a, 32)], [(d, max 32 ty.width)], [], none⟩
  | .stc _ ty a b _ _ => ⟨[(a, 32)] ++ bReg b (max 32 ty.width), [], [], none⟩
  | .pref _ _ a _ => ⟨[(a, 64)], [], [], none⟩
  | .atomAdd _ ty _ d a b => ⟨[(a, gsel a)] ++ bReg b ty.width, [(d, ty.width)], [], none⟩
  | .atomMin _ ty _ d a b => ⟨[(a, gsel a)] ++ bReg b ty.width, [(d, ty.width)], [], none⟩
  | .atomMax _ ty _ d a b => ⟨[(a, gsel a)] ++ bReg b ty.width, [(d, ty.width)], [], none⟩
  | .atomAnd _ ty _ d a b => ⟨[(a, gsel a)] ++ bReg b ty.width, [(d, ty.width)], [], none⟩
  | .atomOr _ ty _ d a b => ⟨[(a, gsel a)] ++ bReg b ty.width, [(d, ty.width)], [], none⟩
  | .atomXor _ ty _ d a b => ⟨[(a, gsel a)] ++ bReg b ty.width, [(d, ty.width)], [], none⟩
  | .atomExch _ ty _ d a b => ⟨[(a, gsel a)] ++ bReg b ty.width, [(d, ty.width)], [], none⟩
  | .cas _ ty _ d a b k => ⟨[(a, gsel a)] ++ bReg b ty.width ++ [(k, ty.width)], [(d, ty.width)], [], none⟩
  | .redAdd _ ty a b _ => ⟨[(a, gsel a)] ++ bReg b ty.width, [], [], none⟩
  | .redMin _ ty a b _ => ⟨[(a, gsel a)] ++ bReg b ty.width, [], [], none⟩
  | .redMax _ ty a b _ => ⟨[(a, gsel a)] ++ bReg b ty.width, [], [], none⟩
  | .redAnd _ ty a b _ => ⟨[(a, gsel a)] ++ bReg b ty.width, [], [], none⟩
  | .redOr _ ty a b _ => ⟨[(a, gsel a)] ++ bReg b ty.width, [], [], none⟩
  | .redXor _ ty a b _ => ⟨[(a, gsel a)] ++ bReg b ty.width, [], [], none⟩
  | .acq _ ty _ d a _ => ⟨[(a, gsel a)], [(d, ty.width)], [], none⟩
  | .rel _ ty a b _ => ⟨[(a, gsel a)] ++ bReg b ty.width, [], [], none⟩
  | .fence => ⟨[], [], [], none⟩
  | .binit _ gl a b => ⟨[(a, gw gl)] ++ bReg b 32, [], [], none⟩
  | .arrive _ gl a => ⟨[(a, gw gl)], [], [], none⟩
  | .expect _ gl a b => ⟨[(a, gw gl)] ++ bReg b 32, [], [], none⟩
  | .wait _ gl pd a b => ⟨[(a, gw gl)] ++ bReg b 32, [], [], some pd⟩
  | .rinit _ gl a b k => ⟨[(a, gw gl)] ++ bReg b 32 ++ [(k, 32)], [], [], none⟩
  | .rgive _ gl a => ⟨[(a, gw gl)], [], [], none⟩
  | .adecl _ pd a b k _ => ⟨[(a, 64)] ++ bReg b 32 ++ [(k, 64)], [], [], some pd⟩
  | .afree _ pd a => ⟨[(a, 64)], [], [], some pd⟩
  | .astat _ d a => ⟨[(a, 64)], [(d, 128)], [], none⟩
  | .arsum _ _ d pd a b k => ⟨[(a, 64)] ++ bReg b 32 ++ [(k, 32)], [(d, 64)], [], some pd⟩
  | .armax _ d pd a b k => ⟨[(a, 64)] ++ bReg b 32 ++ [(k, 32)], [(d, 64)], [], some pd⟩
  | .armin _ d pd a b k => ⟨[(a, 64)] ++ bReg b 32 ++ [(k, 32)], [(d, 64)], [], some pd⟩
  | .apfx _ d pd a b => ⟨[(a, 64)] ++ bReg b 64, [(d, 32)], [], some pd⟩
  | .apick _ d pd a b => ⟨[(a, 64)] ++ bReg b 32, [(d, 32)], [], some pd⟩
  | .htclaim _ _ pd a => ⟨(List.range 5).map (fun i => (a + BitVec.ofNat 7 i, 32)), [], [], some pd⟩
  | .htfree _ _ pd a => ⟨[(a, 32)], [], [], some pd⟩
  | .htins _ _ _ d pd a b => ⟨[(a, 32)] ++ bReg b 32, [(d, 32)], [], some pd⟩
  | .htprobe _ _ d pd a => ⟨[(a, 32)], [(d, 32)], [], some pd⟩
  | .htdel _ _ d a => ⟨[(a, 32)], [(d, 32)], [], none⟩
  | .htacc _ _ _ a b => ⟨[(a, 32)] ++ bReg b 32, [], [], none⟩
  | .htaccRes _ _ _ d a b => ⟨[(a, 32)] ++ bReg b 32, [(d, 32)], [], none⟩
  | .htdrain _ _ dgl bgl a bs k => ⟨[(a, gw dgl), (bs, 32), (k, gw bgl)], [], [], none⟩
  | .htstat _ _ d => ⟨[], [(d, 128)], [], none⟩
  | .thset _ _ d a => ⟨[(a, 32)], [(d, 32)], [], none⟩
  | .thget _ d a => ⟨[(a, 32)], [(d, 128)], [], none⟩
  | .thdrop _ a => ⟨[(a, 32)], [], [], none⟩
  | .thdropRevoke _ a => ⟨[(a, 32)], [], [], none⟩
  | .cpy _ bgl a bs k => ⟨[(a, 32), (bs, 32), (k, gw bgl)], [], [], none⟩
  | .cpyg _ bgl a bs k => ⟨[(a, 32), (bs, 64), (k, gw bgl)], [], [], none⟩
  | .cpys _ bgl a bs k => ⟨[(a, 64), (bs, 32), (k, gw bgl)], [], [], none⟩
  | .cpysRadd _ bgl a bs k => ⟨[(a, 64), (bs, 32), (k, gw bgl)], [], [], none⟩
  | .cpyr _ bgl a bs k => ⟨[(a, 32), (bs, 64), (k, gw bgl)], [], [], none⟩
  | .mrsv _ _ pd a bs => ⟨[(a, 32), (bs, 32)], [], [], some pd⟩
  | .mrel _ a bs => ⟨[(a, 32), (bs, 32)], [], [], none⟩
  | .mpri _ a bs => ⟨[(a, 32), (bs, 32)], [], [], none⟩
  | .mzero _ a => ⟨[(a, 32)], [], [], none⟩
  | .mma _ _ a bs k => ⟨[(a, 32), (bs, 32), (k, 128)], [], [], none⟩
  | .mmat _ _ _ a bs k => ⟨[(a, 32), (bs, 32), (k, 256)], [], [], none⟩
  | .mld _ _ _ a bs k => ⟨[(a, 32), (bs, 64), (k, 32)], [], [], none⟩
  | .mst _ _ _ a bs k => ⟨[(a, 32), (bs, 64), (k, 32)], [], [], none⟩
  | .csrr _ d _ => ⟨[], [(d, 32)], [], none⟩
  | .csrw _ a _ => ⟨[(a, 32)], [], [], none⟩
  | .tlbiPage _ _ a => ⟨[(a, 64)], [], [], none⟩
  | .tlbiAll _ _ a => ⟨[(a, 64)], [], [], none⟩
  | .l1wb _ => ⟨[], [], [], none⟩
  | .halt _ => ⟨[], [], [], none⟩
  | .clauseIssue _ _ => ⟨[], [], [], none⟩
  | .regangBoundRelease _ _ => ⟨[], [], [], none⟩
  | .detRegangBound _ _ => ⟨[], [], [], none⟩
  | .minClockRelease _ _ => ⟨[], [], [], none⟩
  | .detYield _ _ => ⟨[], [], [], none⟩
  | .waitWake _ _ => ⟨[], [], [], none⟩
  | .loadDataReturn _ _ => ⟨[], [], [], none⟩
  | .atomicStepAtHome _ => ⟨[], [], [], none⟩
  | .releaseAtHome _ => ⟨[], [], [], none⟩
  | .remoteAcquire _ => ⟨[], [], [], none⟩
  | .pullCore _ _ => ⟨[], [], [], none⟩
  | .updateOnlyRecall _ => ⟨[], [], [], none⟩
  | .l1Eviction _ _ => ⟨[], [], [], none⟩
  | .homeEviction _ => ⟨[], [], [], none⟩
  | .leafwrite _ => ⟨[], [], [], none⟩
  | .rangeStep _ => ⟨[], [], [], none⟩
  | .descendStep _ => ⟨[], [], [], none⟩
  | .regionBuild _ => ⟨[], [], [], none⟩
  | .swageAccept _ => ⟨[], [], [], none⟩
  | .swageCredit _ _ _ => ⟨[], [], [], none⟩
  | .cpyrPermit _ _ => ⟨[], [], [], none⟩
  | .drainCredit _ _ => ⟨[], [], [], none⟩
  | .anvilGrant _ => ⟨[], [], [], none⟩
  | .passStep _ => ⟨[], [], [], none⟩
  | .mmatTrigger _ _ => ⟨[], [], [], none⟩
  | .anvilFaultSuspend _ => ⟨[], [], [], none⟩
  | .impreciseStoreFault _ _ => ⟨[], [], [], none⟩
  | .placement _ => ⟨[], [], [], none⟩
  | .teamEnd _ => ⟨[], [], [], none⟩
  | .launchEnd _ => ⟨[], [], [], none⟩
  | .hintCheck _ _ => ⟨[], [], [], none⟩
  | .preemptionRequest _ => ⟨[], [], [], none⟩
  | .deadline _ => ⟨[], [], [], none⟩
  | .suspension _ => ⟨[], [], [], none⟩
  | .timelimit _ => ⟨[], [], [], none⟩
  | .eccCorrected _ => ⟨[], [], [], none⟩
  | .eccUncorrectable _ => ⟨[], [], [], none⟩
  | .coreRejoin _ => ⟨[], [], [], none⟩
  | .scrub _ => ⟨[], [], [], none⟩
  | .linkDown _ => ⟨[], [], [], none⟩
  | .peerInboundAccess _ _ _ => ⟨[], [], [], none⟩
  | .hostCompletionError _ _ => ⟨[], [], [], none⟩
  | .moduleReset => ⟨[], [], [], none⟩
  | .thermalThrottle _ _ => ⟨[], [], [], none⟩
  | .thermalStop _ _ => ⟨[], [], [], none⟩
  | .powerThrottle => ⟨[], [], [], none⟩
  | .eventPost _ => ⟨[], [], [], none⟩
  | .launchPortWrite _ _ _ => ⟨[], [], [], none⟩
  | .bar2Write _ _ _ => ⟨[], [], [], none⟩
  | .bar2Read _ _ _ => ⟨[], [], [], none⟩
  | .registerWrite _ _ _ => ⟨[], [], [], none⟩
  | .ctxcreate _ _ => ⟨[], [], [], none⟩
  | .ctxdestroy _ => ⟨[], [], [], none⟩
  | .preempt _ => ⟨[], [], [], none⟩
  | .hostResume _ _ => ⟨[], [], [], none⟩
  | .hostReturn _ _ => ⟨[], [], [], none⟩
  | .hostKill _ _ => ⟨[], [], [], none⟩
  | .ptwrite _ _ _ => ⟨[], [], [], none⟩
  | .invalPage _ _ => ⟨[], [], [], none⟩
  | .invalAll _ => ⟨[], [], [], none⟩
  | .admitApprove _ _ => ⟨[], [], [], none⟩
  | .admitRefuse _ _ => ⟨[], [], [], none⟩
  | .rgrantGrant _ _ => ⟨[], [], [], none⟩
  | .rgrantRefuse _ _ => ⟨[], [], [], none⟩
  | .frameTrap _ _ _ => ⟨[], [], [], none⟩
  | .frameRecord _ _ _ => ⟨[], [], [], none⟩
  | .pset _ _ => ⟨[], [], [], none⟩
  | .attest _ _ _ => ⟨[], [], [], none⟩
  | .errlog _ _ _ => ⟨[], [], [], none⟩
  | .errlogCerts _ _ _ => ⟨[], [], [], none⟩
  | .peerwinOutbound _ _ _ => ⟨[], [], [], none⟩
  | .peerwinInbound _ _ _ _ => ⟨[], [], [], none⟩
  | .fwstageImage _ _ _ _ => ⟨[], [], [], none⟩
  | .fwstageSvn _ _ _ => ⟨[], [], [], none⟩
  | .power _ _ => ⟨[], [], [], none⟩
  | .storeAcknowledgement _ => ⟨[], [], [], none⟩
  | .unitEnd _ => ⟨[], [], [], none⟩
  | .crucibleOperationApplied _ => ⟨[], [], [], none⟩
  | .linkRetry _ => ⟨[], [], [], none⟩

/-- The guard of an instruction; none where it takes none (R131, R178). -/
def ctlOf : Instr → Option Ctl
  | .nop c => some c
  | .yield c => some c
  | .trap c _ => some c
  | .brk c => some c
  | .ppoint _ => none
  | .exit c => some c
  | .bra c _ => some c
  | .brx c _ => some c
  | .call _ => none
  | .ret => none
  | .rtt => none
  | .mark _ => none
  | .join => none
  | .regang => none
  | .lnch c _ _ _ => some c
  | .qswz c _ _ _ _ => some c
  | .qbc c _ _ _ _ => some c
  | .shflIdx c _ _ _ _ => some c
  | .shflUp c _ _ _ _ => some c
  | .shflDown c _ _ _ _ => some c
  | .shflXor c _ _ _ _ => some c
  | .ballot c _ _ _ => some c
  | .voteAll c _ _ => some c
  | .voteAny c _ _ => some c
  | .voteUni c _ _ => some c
  | .matchAny c _ _ _ => some c
  | .elect c _ => some c
  | .reduxAdd c _ _ _ => some c
  | .reduxMin c _ _ _ => some c
  | .reduxMax c _ _ _ => some c
  | .reduxAnd c _ _ _ => some c
  | .reduxOr c _ _ _ => some c
  | .reduxXor c _ _ _ => some c
  | .scanAdd c _ _ _ _ => some c
  | .scanMin c _ _ _ _ => some c
  | .scanMax c _ _ _ _ => some c
  | .scanAnd c _ _ _ _ => some c
  | .scanOr c _ _ _ _ => some c
  | .scanXor c _ _ _ _ => some c
  | .iadd c _ _ _ _ _ => some c
  | .isub c _ _ _ _ _ => some c
  | .imul c _ _ _ _ _ => some c
  | .iaddc c _ _ _ _ _ _ => some c
  | .imulh c _ _ _ _ => some c
  | .imad c _ _ _ _ _ _ => some c
  | .imin c _ _ _ _ => some c
  | .imax c _ _ _ _ => some c
  | .iabs c _ _ _ _ => some c
  | .and c _ _ _ _ => some c
  | .or c _ _ _ _ => some c
  | .xor c _ _ _ _ => some c
  | .not c _ _ _ => some c
  | .shl c _ _ _ _ => some c
  | .shr c _ _ _ _ => some c
  | .sar c _ _ _ _ => some c
  | .fshf c _ _ _ _ => some c
  | .popc c _ _ _ => some c
  | .clz c _ _ _ => some c
  | .brev c _ _ _ => some c
  | .bfe c _ _ _ _ _ => some c
  | .bfi c _ _ _ _ _ _ => some c
  | .lea c _ _ _ _ => some c
  | .mov c _ _ _ => some c
  | .movi c _ _ => some c
  | .sprRead c _ _ _ => some c
  | .sprWrite c _ => some c
  | .isetp c _ _ _ _ _ => some c
  | .fsetp c _ _ _ _ => some c
  | .dsetp c _ _ _ _ => some c
  | .sel c _ _ _ _ _ => some c
  | .plop c _ _ _ _ _ => some c
  | .fadd c _ _ _ _ => some c
  | .fmul c _ _ _ _ => some c
  | .ffma c _ _ _ _ _ => some c
  | .fmin c _ _ _ => some c
  | .fmax c _ _ _ => some c
  | .fscale c _ _ _ _ => some c
  | .fclass c _ _ _ => some c
  | .frcp c _ _ _ => some c
  | .frsq c _ _ _ => some c
  | .fsqrt c _ _ _ => some c
  | .fexp2 c _ _ _ => some c
  | .flog2 c _ _ _ => some c
  | .fsin c _ _ _ => some c
  | .fcos c _ _ _ => some c
  | .dadd c _ _ _ _ => some c
  | .dmul c _ _ _ _ => some c
  | .dfma c _ _ _ _ _ => some c
  | .hadd2 c _ _ _ _ _ => some c
  | .hmul2 c _ _ _ _ _ => some c
  | .hfma2 c _ _ _ _ _ _ => some c
  | .cvt c _ _ _ _ _ _ => some c
  | .cvtp c _ _ _ _ _ _ _ => some c
  | .cvtx c _ _ _ _ _ => some c
  | .dot2 c _ _ _ _ _ => some c
  | .dot4 c _ _ _ _ _ _ _ _ => some c
  | .dot8 c _ _ _ _ _ _ _ _ => some c
  | .ld c _ _ _ _ _ => some c
  | .st c _ _ _ _ _ => some c
  | .lds c _ _ _ _ => some c
  | .sts c _ _ _ _ => some c
  | .ldc c _ _ _ _ _ => some c
  | .stc c _ _ _ _ _ => some c
  | .pref c _ _ _ => some c
  | .atomAdd c _ _ _ _ _ => some c
  | .atomMin c _ _ _ _ _ => some c
  | .atomMax c _ _ _ _ _ => some c
  | .atomAnd c _ _ _ _ _ => some c
  | .atomOr c _ _ _ _ _ => some c
  | .atomXor c _ _ _ _ _ => some c
  | .atomExch c _ _ _ _ _ => some c
  | .cas c _ _ _ _ _ _ => some c
  | .redAdd c _ _ _ _ => some c
  | .redMin c _ _ _ _ => some c
  | .redMax c _ _ _ _ => some c
  | .redAnd c _ _ _ _ => some c
  | .redOr c _ _ _ _ => some c
  | .redXor c _ _ _ _ => some c
  | .acq c _ _ _ _ _ => some c
  | .rel c _ _ _ _ => some c
  | .fence => none
  | .binit c _ _ _ => some c
  | .arrive c _ _ => some c
  | .expect c _ _ _ => some c
  | .wait c _ _ _ _ => some c
  | .rinit c _ _ _ _ => some c
  | .rgive c _ _ => some c
  | .adecl c _ _ _ _ _ => some c
  | .afree c _ _ => some c
  | .astat c _ _ => some c
  | .arsum c _ _ _ _ _ _ => some c
  | .armax c _ _ _ _ _ => some c
  | .armin c _ _ _ _ _ => some c
  | .apfx c _ _ _ _ => some c
  | .apick c _ _ _ _ => some c
  | .htclaim c _ _ _ => some c
  | .htfree c _ _ _ => some c
  | .htins c _ _ _ _ _ _ => some c
  | .htprobe c _ _ _ _ => some c
  | .htdel c _ _ _ => some c
  | .htacc c _ _ _ _ => some c
  | .htaccRes c _ _ _ _ _ => some c
  | .htdrain c _ _ _ _ _ _ => some c
  | .htstat c _ _ => some c
  | .thset c _ _ _ => some c
  | .thget c _ _ => some c
  | .thdrop c _ => some c
  | .thdropRevoke c _ => some c
  | .cpy c _ _ _ _ => some c
  | .cpyg c _ _ _ _ => some c
  | .cpys c _ _ _ _ => some c
  | .cpysRadd c _ _ _ _ => some c
  | .cpyr c _ _ _ _ => some c
  | .mrsv c _ _ _ _ => some c
  | .mrel c _ _ => some c
  | .mpri c _ _ => some c
  | .mzero c _ => some c
  | .mma c _ _ _ _ => some c
  | .mmat c _ _ _ _ _ => some c
  | .mld c _ _ _ _ _ => some c
  | .mst c _ _ _ _ _ => some c
  | .csrr c _ _ => some c
  | .csrw c _ _ => some c
  | .tlbiPage c _ _ => some c
  | .tlbiAll c _ _ => some c
  | .l1wb c => some c
  | .halt c => some c
  | .clauseIssue _ _ => none
  | .regangBoundRelease _ _ => none
  | .detRegangBound _ _ => none
  | .minClockRelease _ _ => none
  | .detYield _ _ => none
  | .waitWake _ _ => none
  | .loadDataReturn _ _ => none
  | .atomicStepAtHome _ => none
  | .releaseAtHome _ => none
  | .remoteAcquire _ => none
  | .pullCore _ _ => none
  | .updateOnlyRecall _ => none
  | .l1Eviction _ _ => none
  | .homeEviction _ => none
  | .leafwrite _ => none
  | .rangeStep _ => none
  | .descendStep _ => none
  | .regionBuild _ => none
  | .swageAccept _ => none
  | .swageCredit _ _ _ => none
  | .cpyrPermit _ _ => none
  | .drainCredit _ _ => none
  | .anvilGrant _ => none
  | .passStep _ => none
  | .mmatTrigger _ _ => none
  | .anvilFaultSuspend _ => none
  | .impreciseStoreFault _ _ => none
  | .placement _ => none
  | .teamEnd _ => none
  | .launchEnd _ => none
  | .hintCheck _ _ => none
  | .preemptionRequest _ => none
  | .deadline _ => none
  | .suspension _ => none
  | .timelimit _ => none
  | .eccCorrected _ => none
  | .eccUncorrectable _ => none
  | .coreRejoin _ => none
  | .scrub _ => none
  | .linkDown _ => none
  | .peerInboundAccess _ _ _ => none
  | .hostCompletionError _ _ => none
  | .moduleReset => none
  | .thermalThrottle _ _ => none
  | .thermalStop _ _ => none
  | .powerThrottle => none
  | .eventPost _ => none
  | .launchPortWrite _ _ _ => none
  | .bar2Write _ _ _ => none
  | .bar2Read _ _ _ => none
  | .registerWrite _ _ _ => none
  | .ctxcreate _ _ => none
  | .ctxdestroy _ => none
  | .preempt _ => none
  | .hostResume _ _ => none
  | .hostReturn _ _ => none
  | .hostKill _ _ => none
  | .ptwrite _ _ _ => none
  | .invalPage _ _ => none
  | .invalAll _ => none
  | .admitApprove _ _ => none
  | .admitRefuse _ _ => none
  | .rgrantGrant _ _ => none
  | .rgrantRefuse _ _ => none
  | .frameTrap _ _ _ => none
  | .frameRecord _ _ _ => none
  | .pset _ _ => none
  | .attest _ _ _ => none
  | .errlog _ _ _ => none
  | .errlogCerts _ _ _ => none
  | .peerwinOutbound _ _ _ => none
  | .peerwinInbound _ _ _ _ => none
  | .fwstageImage _ _ _ _ => none
  | .fwstageSvn _ _ _ => none
  | .power _ _ => none
  | .storeAcknowledgement _ => none
  | .unitEnd _ => none
  | .crucibleOperationApplied _ => none
  | .linkRetry _ => none

/-- No guard: every lane of the mask (R131). -/
def noGuard : Ctl := ⟨15, false, false⟩

/-- The active lanes of the gang under an instruction's guard. -/
def Env.lanes (e : Env) (i : Instr) : LaneMask := e.active ((ctlOf i).getD noGuard)

/-- Major opcode 0x3E (R64). -/
def isSystem : Instr → Bool
  | .csrr _ _ _ | .csrw _ _ _ | .tlbiPage _ _ _ | .tlbiAll _ _ _ | .l1wb _ | .halt _ => true
  | _ => false

/-- A CSR number that names a register (R301). -/
def csrNamed (n : Nat) : Bool :=
  n == 0x000 || n == 0x001 || decide (0x010 ≤ n ∧ n ≤ 0x01A) || decide (0x020 ≤ n ∧ n ≤ 0x022) ||
  decide (0x030 ≤ n ∧ n ≤ 0x033) || decide (0x040 ≤ n ∧ n ≤ 0x044)

/-- A CSR that CSRW may write. -/
def csrWritable (n : Nat) : Bool := n == 0x000 || n == 0x001 || decide (0x030 ≤ n ∧ n ≤ 0x033)

/-- ILLOP (R59): no well-formed instruction (R63), a system instruction outside a handler (R64), a reserved CSR number or a
write of a read-only one (R317). -/
def Env.illegal (e : Env) (i : Instr) : Bool :=
  !WellFormed i || (isSystem i && !e.inh) ||
  (match i with
   | .csrr _ _ n => !csrNamed n.toNat
   | .csrw _ _ n => !csrWritable n.toNat
   | _ => false)

/-- Every register operand is in its allocation and aligned (R26); HTCLAIM's record starts at S0, S8, S16 or S24
(R221). -/
def Env.regsOk (e : Env) (i : Instr) : Bool :=
  let r := regsOf i
  (r.src ++ r.dst).all (fun x => regOk e.l.vregs x.1 x.2) &&
  (match i with
   | .htclaim _ _ _ a => a.toNat % 8 == 0
   | _ => true)

/-! ## Pending writes (R61) -/

/-- The register numbers of a set. -/
def setRegs (r : RegCode) (w : Nat) : List Nat := (List.range ((w + 31) / 32)).map (fun i => r.toNat + i)

/-- The lane that supplies an S destination: the lowest active present one at issue, 128 where there is none (R27). -/
def Flight.sLane (f : Flight) : Option Nat := f.args.head?

/-- The flight writes its S destination: an active present lane supplies it (R13, R27). -/
def Flight.writesS (f : Flight) : Bool := f.sLane.any (fun l => decide (l < 128))

/-- A flight still has to write a register that is used in some lanes: until the operation completes (R61). Keys of overtaken
writes: lane × 128 + register, 2^14 + lane × 16 + p. -/
def Flight.pendingReg (f : Flight) (lanes : LaneMask) (r : Nat) : Bool :=
  match f.dst with
  | none => false
  | some d =>
    decide (d.toNat ≤ r ∧ r < d.toNat + (f.width + 3) / 4) &&
    (if r < 96 then (lanesOf (f.lanes &&& lanes)).any (fun l => !f.skip.contains (128 * l + r))
     else f.writesS && lanes != 0 && !f.skip.contains r)

/-- A flight still has to write a predicate in one of the lanes. -/
def Flight.pendingPred (f : Flight) (lanes : LaneMask) (p : PredCode) : Bool :=
  f.pdst == some p && p.toNat < 12 && (lanesOf (f.lanes &&& lanes)).any (fun l => !f.skip.contains (2 ^ 14 + 16 * l + p.toNat))

/-- The group's flights. -/
def flightsOf (s : State) (gid : Nat) : List (Nat × Flight) := s.flights.filter (fun e => e.2.gid = gid)

/-- The source lane of QSWZ, QBC and SHFL (R147). -/
def exchangeSource (i : Instr) (g : Group) (l : Nat) : Option Nat :=
  match i with
  | .qswz _ _ _ _ pat => some (4 * (l / 4) + bits pat.toNat (2 * (l % 4) + 1) (2 * (l % 4)))
  | .qbc _ _ _ _ src => some (4 * (l / 4) + src.toNat)
  | .shflIdx _ _ _ _ b => some (readB g l b 32 % 128)
  | .shflUp _ _ _ _ b => let n := readB g l b 32; some (if n ≤ l then l - n else l)
  | .shflDown _ _ _ _ b => let n := readB g l b 32; some (if l + n ≤ 127 then l + n else l)
  | .shflXor _ _ _ _ b => some (l ^^^ (readB g l b 32 % 128))
  | _ => none

/-- The lanes of the aligned octets around some lanes that hold their scales (R176). -/
def scaleLanes (lanes : LaneMask) : LaneMask :=
  maskOf ((lanesOf lanes).flatMap (fun l => [l / 8 * 8, l / 8 * 8 + 1]))

/-- The source registers of an instruction, each with the lanes it is read in: the active ones, but for the operand of an
exchange, read in its source lanes (R146, R147), and the scale register of a dot product (R176). -/
def readsIn (i : Instr) (g : Group) (lanes : LaneMask) : List ((RegCode × Nat) × LaneMask) :=
  let from_ := maskOf ((lanesOf lanes).filterMap (exchangeSource i g))
  match i with
  | .dot4 _ _ _ true _ d a b k | .dot8 _ _ _ true _ d a b k =>
    ((k, 32), scaleLanes lanes) :: ((a, 32) :: bReg b 32 ++ [(d, 32)]).map (fun x => (x, lanes))
  | .qswz _ ty _ a _ | .qbc _ ty _ a _ => [((a, ty.width), from_)]
  | .shflIdx _ ty _ a b | .shflUp _ ty _ a b | .shflDown _ ty _ a b | .shflXor _ ty _ a b =>
    ((a, ty.width), from_) :: (bReg b 32).map (fun x => (x, lanes))
  | _ => (regsOf i).src.map (fun x => (x, lanes))

/-- The lanes in which a destination is written: an S register only where an active lane is present (R13, R27). -/
def Env.writesIn (e : Env) (lanes : LaneMask) (r : Nat) : LaneMask := if r < 96 then lanes else lanes &&& e.pres

/-- Does the instruction read or write a register or predicate with a pending write: its guard in every lane of the gang, its
operands in its active lanes. -/
def Env.hazard (e : Env) (i : Instr) : Bool :=
  let r := regsOf i
  let lanes := e.lanes i
  (flightsOf e.s e.gid).any (fun f =>
    (readsIn i e.g lanes).any (fun x => (setRegs x.1.1 x.1.2).any (fun n => f.2.pendingReg x.2 n)) ||
    r.dst.any (fun x => (setRegs x.1 x.2).any (fun n => f.2.pendingReg (e.writesIn lanes n) n)) ||
    (r.psrc ++ r.pdst.toList).any (fun p => f.2.pendingPred lanes p) ||
    (match ctlOf i with | some c => f.2.pendingPred e.mask c.pred | none => false))

/-- A later write of a register leaves whichever lands last (R61): where the free value says the later one, the flight no
longer writes it (log 6). -/
def overtake (s : State) (gid : Nat) (keys : List Nat) : State :=
  { s with flights := s.flights.map (fun f =>
      if f.2.gid = gid ∧ (f.2.dst.isSome ∨ f.2.pdst.isSome) then
        (f.1, { f.2 with skip := f.2.skip ++ keys.filter (fun k => Config.laterWins (s.tick + f.1) k) })
      else f) }

/-! ## Waiting for earlier operations -/

/-- A gang's next instruction holds its port until its own global acquire has completed (R306). -/
def acquireHolds (s : State) (gid : Nat) (qs : QuadMask) : Bool :=
  (flightsOf s gid).any (fun e =>
    (match e.2.kind with
     | .acquire _ => e.2.pieces.any (fun p => match p.pa with | .glob _ => true | .pad _ _ => false)
     | .atomic _ _ o => (o == .acq || o == .ar) && e.2.pieces.any (fun p => match p.pa with | .glob _ => true | .pad _ _ => false)
     | .waitAcquire => true
     | _ => false) && decide (e.2.quads &&& qs ≠ 0))

/-- A gang blocks at its WAIT.GL until the WAIT's acquire has completed, and is not ready (R20, R306). -/
def waitsAcquire (s : State) (gid : Nat) (qs : QuadMask) : Bool :=
  (flightsOf s gid).any (fun e => e.2.kind == .waitAcquire && decide (e.2.quads &&& qs ≠ 0))

/-- Is an acquire of the group in progress: no further memory access or engine command issues (R115). -/
def acquireOpen (s : State) (gid : Nat) : Bool :=
  (flightsOf s gid).any (fun e =>
    match e.2.kind with
    | .acquire _ | .waitAcquire => true
    | .atomic _ _ o => o == .acq || o == .ar
    | _ => false)

/-- An operation is still to be performed (R114): a piece without its value, or work of its engine. -/
def Flight.open (f : Flight) : Bool :=
  match f.kind with
  | .load => f.pieces.any (fun p => p.got.isNone)
  | .result | .holding | .lnch | .crucible => false
  | .swage | .anvil => false
  | _ => true

/-- The pieces of an operation that no shootdown has refused: all, or those of the pages it did not cover (R328). -/
def Flight.livePieces (f : Flight) : List Piece := if f.refused then f.pieces.filter (fun p => !p.covered) else f.pieces

/-- What a refused operation keeps once its other pieces have been performed: those that write nothing (R328). -/
def Flight.refusedRest (f : Flight) : Flight := { f with pieces := f.pieces.filter (fun p => p.covered) }

/-- Nothing of a refused operation is left to be performed. -/
def Flight.stuck (f : Flight) : Bool := f.refused && f.livePieces.isEmpty

/-- A descriptor's tensor lies in global memory: SPACE 0 (R96). -/
def descGlobal (desc : List Byte) : Bool := bits (ofBytes desc) 15 15 == 0

/-- A place in global memory. -/
def Place.global : Place → Bool
  | .glob _ => true
  | .pad _ _ => false

/-- Global writes of Swage commands, MSTs, spills and drains issued by a group before a flight identifier that have not
been performed (R103, R114). -/
def engineOpen (s : State) (gid upTo : Nat) : Bool :=
  let c := s.core (s.group gid).core
  (c.swageQueue ++ c.swage.map (fun e => e.2)).any (fun x => x.gid = gid && x.flight < upTo && descGlobal x.snapD) ||
  c.crucible.any (fun x => x.gid = gid && x.flight < upTo && (x.fn != 6 || x.dst.any Place.global)) ||
  c.drains.any (fun x => x.2.gid = gid && x.2.flight < upTo && x.2.moves.any (fun m => m.1.global)) ||
  (s.cluster ((s.group gid).core / 4)).table.any (fun r =>
    r.gid = gid && r.flight < upTo && r.kind = .mst && descGlobal r.snapA)

/-- Some operation of the group below an identifier is not yet performed, in the sense of step 1 of R114. -/
def earlierOpen (s : State) (gid upTo : Nat) : Bool :=
  (flightsOf s gid).any (fun e => e.1 < upTo && e.2.open) || engineOpen s gid upTo

/-- An ATOM, a CAS or a query that a group issued before a flight identifier has still to take its value: no later write of
the group is seen before it (R109; log 84). -/
def readsOpen (s : State) (gid upTo : Nat) : Bool :=
  (flightsOf s gid).any (fun e => e.1 < upTo &&
    (match e.2.kind with
     | .atomic _ _ _ | .query _ _ => true
     | _ => false))

/-- A memory access or engine command of the group may not issue yet: an acquire is in progress (R115), an ADECL or AFREE
(R211), an HTCLAIM or HTFREE (R234), a drain has not expected its bytes (R235), or a FENCE, TLBI or L1WB still waits for
operations before it (R121, R318). -/
def Env.accessHeld (e : Env) : Bool :=
  acquireOpen e.s e.gid || (flightsOf e.s e.gid).any (fun f => f.2.kind == .build || f.2.kind == .holding) ||
  (e.s.core e.core).crucible.any (fun o => o.gid = e.gid && o.fn = 6) || (0 < e.g.fence && earlierOpen e.s e.gid e.g.fence)

/-- Cluster-scratchpad and region accesses of the group before its latest acquire or release are still to be performed: a
later access to another scratchpad or region follows them (R120, R124). -/
def syncOpen (s : State) (gid : Nat) : Bool :=
  (flightsOf s gid).any (fun e => e.1 < (s.group gid).sync && e.2.open &&
    (match e.2.kind with
     | .leaf _ _ _ | .query _ _ => true
     | .load | .through => e.2.pieces.any (fun p => !p.pa.global)
     | _ => false))

/-- The group has executed an acquire or a release: its earlier accesses of those kinds come before its later ones. -/
def noteSync (s : State) (gid : Nat) : State := s.updGroup gid (fun g => { g with sync := s.nextId })

/-- Does a place overlap a span. -/
def Place.meets (p : Place) (w : Nat) (q : Place) (n : Nat) : Bool :=
  match p, q with
  | .glob a, .glob b => decide (a < b + n ∧ b < a + w)
  | .pad t a, .pad u b => t == u && decide (a < b + n ∧ b < a + w)
  | _, _ => false

/-- A write or atomic of the group in flight on the same line, or on the same scratchpad: a later access waits for it, as
program order and group order require (R107, R119). -/
def lineBusy (s : State) (gid : Nat) (p : Place) : Bool :=
  (flightsOf s gid).any (fun e =>
    e.2.kind != .load && e.2.open && e.2.pieces.any (fun x =>
      match x.pa, p with
      | .glob a, .glob b => lineOf a == lineOf b
      | .pad t _, .pad u _ => t == u
      | _, _ => false))

/-! ## The course of an instruction -/

/-- The checks of R59 and R61 that every encoded instruction opens with, then its own meaning on its active lanes. A held
port leaves the state as it is: the instruction has not retired (R60). -/
def instr (i : Instr) (s : State) (k : Env → LaneMask → Host.Outcome State Fault Refusal) :
    Host.Outcome State Fault Refusal :=
  withEnv s (fun e =>
    let lanes := e.lanes i
    if acquireHolds s e.gid e.is.quads then .next s
    else if e.illegal i then .next (raiseAll e s .illop (lanes &&& e.pres))
    else if !e.regsOk i then .next (raiseAll e s .illreg (lanes &&& e.pres))
    else if e.hazard i && e.l.check then .next (raiseAll e s .depmiss (lanes &&& e.pres))
    else if e.hazard i && e.l.det then .next s
    else k e lanes)

/-- What an instruction computes in one lane: its destination's value, its predicate, its flags. -/
structure LaneOut where
  d : Option Nat := none
  p : Option Bool := none
  fl : Flags := {}

/-- Write a destination of `w` bits: in each lane given, or in an S destination the value of the lowest present one
(R27). -/
def writeDst (g : Group) (pres : LaneMask) (d : RegCode) (w : Nat) (outs : List (Nat × Nat)) : Group :=
  let n := (w + 31) / 32
  if d.toNat < 96 then outs.foldl (fun g o => writeSet g o.1 d.toNat o.2 n) g
  else match outs.find? (fun o => pres.getLsbD o.1) with
    | some o => writeSet g 0 d.toNat o.2 n
    | none => g

/-- Keys of the registers and predicates an instruction writes: an S register's where an active lane is present (R27). -/
def writtenKeys (r : Regs) (lanes pres : LaneMask) : List Nat :=
  (lanesOf lanes).flatMap (fun l =>
    (r.dst.flatMap (fun x => setRegs x.1 x.2)).filterMap (fun n =>
      if n < 96 then some (128 * l + n) else if pres.getLsbD l then some n else none) ++
    r.pdst.toList.map (fun p => 2 ^ 14 + 16 * l + p.toNat))

/-- Write the results of the lanes: destination, predicate, flags of present lanes (R13, R27, R30). -/
def writeOuts (g : Group) (pres : LaneMask) (r : Regs) (outs : List (Nat × LaneOut)) : Group :=
  let g := match r.dst with
    | (d, w) :: _ => writeDst g pres d w (outs.filterMap (fun o => o.2.d.map (fun v => (o.1, v))))
    | [] => g
  let g := match r.pdst with
    | some p => outs.foldl (fun g o => match o.2.p with | some v => writePred g o.1 p v | none => g) g
    | none => g
  outs.foldl (fun g o => if pres.getLsbD o.1 then stickyOr g o.2.fl else g) g

/-- The state after a register instruction's results are written and it has retired. -/
def afterLanes (i : Instr) (e : Env) (outs : List (Nat × LaneOut)) : State :=
  let r := regsOf i
  let s := overtake e.s e.gid (writtenKeys r (maskOf (outs.map (fun o => o.1))) e.pres)
  retire e (s.setGroup e.gid (writeOuts e.g e.pres r outs))

/-- A fixed-latency register instruction: every active lane reads its sources, then the results are written (R130,
R158). -/
def perLane (i : Instr) (s : State) (f : Env → Nat → LaneOut) : Host.Outcome State Fault Refusal :=
  instr i s (fun e lanes => .next (afterLanes i e ((lanesOf lanes).map (fun l => (l, f e l)))))

/-- A lane result that is a register value alone. -/
def outD (v : Nat) : LaneOut := { d := some v }
/-- A lane result that is a register value with flags. -/
def outF (v : Nat × Flags) : LaneOut := { d := some v.1, fl := v.2 }
/-- A lane result that is a predicate alone. -/
def outP (v : Bool) : LaneOut := { p := some v }

/-- Mark the flag an instruction's FS selects (R60). -/
def markFlag (s : State) (gid : Nat) (flag : Option Nat) : State :=
  match flag with
  | none => s
  | some f =>
    let g := s.group gid
    let g := { g with flags := Store.set g.flags f (Store.get g.flags f + 1) }
    -- gangs whose header waits on the flag are no longer ready; the gang in issue is judged at its clause's end (R22)
    let issuing : QuadMask := match ((s.core g.core).port (g.slot % 2)).issue with
      | some i => if i.gid = gid then i.quads else 0
      | none => 0
    s.setGroup gid { g with quads := g.quads.map (fun x =>
      if x.2.stamp.isSome && !issuing.getLsbD x.1 && !headerPasses s g x.2 then (x.1, { x.2 with stamp := none }) else x) }

/-- A flag's pending operation completes (R60). -/
def clearFlag (s : State) (gid : Nat) (flag : Option Nat) : State :=
  match flag with
  | none => s
  | some f => s.updGroup gid (fun g =>
      if Store.get g.flags f = 0 then g else { g with flags := Store.set g.flags f (Store.get g.flags f - 1) })

/-- The flag an instruction would mark holds 63 pending operations (R60). -/
def Env.flagFull (e : Env) (c : Ctl) : Bool :=
  match e.is.flag c.fs with
  | some f => Store.get e.g.flags f == 63
  | none => false

/-- Put an operation in flight, marking its flag. -/
def launchFlight (s : State) (f : Flight) : State :=
  let (id, s) := s.fresh
  markFlag (s.setFlight id f) f.gid f.flag

/-- A flight with what every operation of an instruction carries. -/
def Env.flight (e : Env) (kind : FlightKind) (c : Ctl) : Flight :=
  { gid := e.gid, team := e.g.team, ctx := e.ctx, core := e.core, kind, pc := e.is.pc, flag := e.is.flag c.fs,
    quads := e.is.quads }

end Sys2Proof.Machine
end

