-- ==== Sys2Proof/Machine/Flags.lean ====
section
/-!
DEFINITION. Results with their STICKY flags: integer arithmetic with and without saturation (R150), and the merge of the
flags of several computations (R80).
-/
namespace Sys2Proof.Machine

/-- A code of a type as an integer (R68, R150). -/
def asInt (t : Ty) (v : Nat) : Int := if t.signed then sgn t.width v else (v % 2 ^ t.width : Nat)

/-- An exact result into an integer type: saturated with OVF, or wrapped without a flag (R150). -/
def intResult (t : Ty) (sat : Bool) (v : Int) : Nat × Flags :=
  let (lo, hi) := intBounds t
  let (w, acted) := clampTo lo hi v
  if sat then (wrapN t.width w, { ovf := acted }) else (wrapN t.width v, {})

/-- A bitwise or integer operation of REDUX and SCAN: 0 ADD, 1 MIN, 2 MAX, 3 AND, 4 OR, 5 XOR (R148). -/
def foldOp (op : Nat) (t : Ty) (vs : List Nat) : Nat :=
  let start := match op with
    | 1 => wrapN t.width (intBounds t).2
    | 2 => wrapN t.width (intBounds t).1
    | 3 => 2 ^ t.width - 1
    | _ => 0
  vs.foldl (combine op t) start

/-- The flags of two results together. -/
def withFlags (v : Nat) (f g : Flags) : Nat × Flags := (v, f.or g)

end Sys2Proof.Machine
end

