-- ==== Sys2Proof/Machine/Transc.lean ====
section
/-!
DEFINITION. The correctly rounded functions of R167. Each is computed as an integer enclosure at 320 binary places,
narrower than the distance of any F32 argument's result from a rounding boundary (DEDUCED, log 15); the enclosure's
lower end with a sticky last bit rounds as the exact value does. Exact results are returned exactly.
-/
namespace Sys2Proof.Machine

/-- Binary places of the enclosures. -/
def places : Nat := 320

/-- Floor of the square root, by `fuel` bits from the top. -/
def isqrtGo (n : Nat) : Nat → Nat → Nat
  | 0, r => r
  | k + 1, r =>
    let r' := r + 2 ^ k
    isqrtGo n k (if r' * r' ≤ n then r' else r)

/-- Floor of the square root. -/
def isqrt (n : Nat) : Nat := isqrtGo n (bitLen n / 2 + 1) 0

/-- A magnitude with a sticky bit below it. -/
def sticky (neg : Bool) (m : Nat) (inexact : Bool) (e : Int) : FVal := .fin neg (2 * m + b2n inexact) (e - 1)

/-- 1/a (R167). -/
def rcpV (neg : Bool) (m : Nat) (e : Int) : FVal :=
  let k := bitLen m + 64
  sticky neg (2 ^ k / m) (2 ^ k % m != 0) (-e - k)

/-- √a for a positive a (R167). -/
def sqrtV (m : Nat) (e : Int) : FVal :=
  let (m, e) := if e % 2 = 0 then (m, e) else (2 * m, e - 1)
  let n := m * 2 ^ 128
  let s := isqrt n
  sticky false s (s * s != n) (e / 2 - 64)

/-- 1/√a for a positive a (R167). -/
def rsqV (m : Nat) (e : Int) : FVal :=
  let (m, e) := if e % 2 = 0 then (m, e) else (2 * m, e - 1)
  let j := bitLen m + 64
  let s := isqrt (2 ^ (2 * j) / m)
  sticky false s (s * s * m != 2 ^ (2 * j)) (-(e / 2) - j)

/-- Σ x^(2k+1)/(2k+1) for a fixed-point x at `p` places, all terms added or alternating: atanh or atan. -/
def oddSeries (p : Nat) (alt : Bool) (x2 : Nat) : Nat → Nat → Nat → Int → Int
  | 0, _, _, acc => acc
  | fuel + 1, k, pw, acc =>
    let t : Int := pw / (2 * k + 1)
    oddSeries p alt x2 fuel (k + 1) (pw * x2 / 2 ^ p) (if alt && k % 2 == 1 then acc - t else acc + t)

/-- atanh of a fixed-point x below 1/3. -/
def atanhFx (p x : Nat) : Nat := (oddSeries p false (x * x / 2 ^ p) 120 0 x 0).toNat

/-- atan(1/n). -/
def atanInv (p n : Nat) : Nat :=
  (oddSeries p true (2 ^ p / (n * n)) 120 0 (2 ^ p / n) 0).toNat

/-- ln 2 at `p` places. -/
def ln2Fx (p : Nat) : Nat := 2 * atanhFx p (2 ^ p / 3)

/-- π/2 at `p` places (Machin). -/
def halfPi (p : Nat) : Nat := 8 * atanInv p 5 - 2 * atanInv p 239

/-- Σ x^k/k! with the given stride and alternation, from the term `t` at `k`. -/
def expSeries (p : Nat) (alt : Bool) (stride : Nat) (x : Nat) : Nat → Nat → Nat → Int → Bool → Int
  | 0, _, _, acc, _ => acc
  | fuel + 1, k, t, acc, minus =>
    let acc' : Int := if minus then acc - t else acc + t
    let t' := if stride = 1 then t * x / 2 ^ p / (k + 1) else t * x / 2 ^ p / (k + 1) * x / 2 ^ p / (k + 2)
    expSeries p alt stride x fuel (k + stride) t' acc' (alt && !minus)

/-- e^x for a fixed-point x below 1. -/
def expFx (p x : Nat) : Nat := (expSeries p false 1 x 100 0 (2 ^ p) 0 false).toNat

/-- sin x for a fixed-point x below 2. -/
def sinFx (p x : Nat) : Nat := (expSeries p true 2 x 60 1 x 0 false).toNat

/-- cos x for a fixed-point x below 2. -/
def cosFx (p x : Nat) : Nat := (expSeries p true 2 x 60 0 (2 ^ p) 0 false).toNat

/-- 2^a for a finite a (R167). -/
def exp2V (neg : Bool) (m : Nat) (e : Int) : FVal :=
  if m = 0 then .fin false 1 0
  else if 10 < e + bitLen m then (if neg then .fin false 1 (-4000) else .fin false 1 4000)
  else
    let p := places
    -- every F32 magnitude below 2^10 is a multiple of 2^-149
    let v : Int := scaled neg (shiftN m (e + p)) 0 0
    let n := v / (2 ^ p : Nat)
    let f := (v % (2 ^ p : Nat)).toNat
    if f = 0 then .fin false 1 n
    else sticky false (expFx p (f * ln2Fx p / 2 ^ p)) true (n - p)

/-- log2 a for a positive a (R167). -/
def log2V (m : Nat) (e : Int) : FVal :=
  let n : Int := e + bitLen m - 1
  let p := places
  let one := 2 ^ (bitLen m - 1)
  if m = one then intVal n
  else
    -- t = m / one in (1, 2); ln t = 2 atanh((t - 1)/(t + 1))
    let z := (m - one) * 2 ^ p / (m + one)
    let l := 2 * atanhFx p z * 2 ^ p / ln2Fx p
    let v : Int := n * (2 ^ p : Nat) + l
    if 0 ≤ v then sticky false v.toNat true (-p) else sticky true ((-v).toNat - 1) true (-p)

/-- sin or cos of a finite nonzero a, the argument reduced exactly enough for every F32 (R167). -/
def sinCosV (wantCos : Bool) (neg : Bool) (m : Nat) (e : Int) : FVal :=
  if e + bitLen m < -14 then
    -- just below a, or just below 1
    if wantCos then .fin false (2 ^ 64 - 1) (-64) else .fin neg (m * 2 ^ 40 - 1) (e - 40)
  else
    let p := places + 140
    let x := shiftN m (e + p)
    let h := halfPi p
    let k := x / h
    let r := x % h
    let s := sinFx p r
    let c := cosFx p r
    let quad := if wantCos then (k + 1) % 4 else k % 4
    let mag := if quad % 2 = 0 then s else c
    let flip := decide (2 ≤ quad)
    sticky (if wantCos then flip else neg != flip) mag true (-p)

/-- The seven functions (R167). -/
inductive Fn7 where
  | rcp | rsq | sqrt | exp2 | log2 | sin | cos
  deriving DecidableEq, Repr

/-- f(a) as an exact value, or its sticky stand-in, with R167's special inputs. -/
def fn7V (f : Fn7) (a : FVal) : FVal :=
  match f, a with
  | _, .nan => .nan
  | .rcp, .inf neg => .fin neg 0 0
  | .rcp, .fin neg m e => if m = 0 then .inf neg else rcpV neg m e
  | .rsq, .inf neg => if neg then .nan else .fin false 0 0
  | .rsq, .fin neg m e => if m = 0 then .inf neg else if neg then .nan else rsqV m e
  | .sqrt, .inf neg => if neg then .nan else .inf false
  | .sqrt, .fin neg m e => if m = 0 then .fin neg 0 0 else if neg then .nan else sqrtV m e
  | .exp2, .inf neg => if neg then .fin false 0 0 else .inf false
  | .exp2, .fin neg m e => exp2V neg m e
  | .log2, .inf neg => if neg then .nan else .inf false
  | .log2, .fin neg m e => if m = 0 then .inf true else if neg then .nan else log2V m e
  | .sin, .inf _ => .nan
  | .sin, .fin neg m e => if m = 0 then .fin neg 0 0 else sinCosV false neg m e
  | .cos, .inf _ => .nan
  | .cos, .fin neg m e => if m = 0 then .fin false 1 0 else sinCosV true neg m e

/-- The rounded function on F32 codes (R167). -/
def fn7 (f : Fn7) (rm : Rnd) (a : Nat) : Nat := roundIEEE .f32 rm (fn7V f (value .f32 a))

end Sys2Proof.Machine
end

