-- ==== Sys2Proof/Machine/Float.lean ====
section
/-!
DEFINITION. Floating arithmetic, correctly rounded functions, conversions and packed dot products (R158 to R177).
-/
namespace Sys2Proof.Machine

/-- A lane's operand as an exact value of a float type. -/
def srcF (e : Env) (l : Nat) (t : Ty) (r : RegCode) : FVal := value t (readSet e.g l r t.width)
def srcBF (e : Env) (l : Nat) (t : Ty) (b : SrcB) : FVal := value t (readB e.g l b t.width)

/-- A two-operand arithmetic instruction: exact, then rounded once (R162). -/
def arith2 (i : Instr) (s : State) (t : Ty) (rm : Rnd) (a : RegCode) (b : SrcB) (f : FVal → FVal → FVal) :
    Host.Outcome State Fault Refusal :=
  perLane i s (fun e l => outD (roundIEEE t rm (f (srcF e l t a) (srcBF e l t b))))

/-- FADD (R162). -/
def execFadd (c : Ctl) (rm : Rnd) (d a : RegCode) (b : SrcB) (s : State) : Host.Outcome State Fault Refusal :=
  arith2 (.fadd c rm d a b) s .f32 rm a b (addV rm)

/-- FMUL (R162). -/
def execFmul (c : Ctl) (rm : Rnd) (d a : RegCode) (b : SrcB) (s : State) : Host.Outcome State Fault Refusal :=
  arith2 (.fmul c rm d a b) s .f32 rm a b mulV

/-- A fused multiply-add: the product is never rounded (R162). -/
def arith3 (i : Instr) (s : State) (t : Ty) (rm : Rnd) (a : RegCode) (b : SrcB) (k : RegCode) :
    Host.Outcome State Fault Refusal :=
  perLane i s (fun e l => outD (roundIEEE t rm (addV rm (mulV (srcF e l t a) (srcBF e l t b)) (srcF e l t k))))

/-- FFMA (R162). -/
def execFfma (c : Ctl) (rm : Rnd) (d a : RegCode) (b : SrcB) (k : RegCode) (s : State) :
    Host.Outcome State Fault Refusal :=
  arith3 (.ffma c rm d a b k) s .f32 rm a b k

/-- The operand FMIN or FMAX returns (R164). -/
def fminmax (isMax : Bool) (x y : Nat) : Nat :=
  match value .f32 x, value .f32 y with
  | .nan, .nan => canonicalNaN .f32
  | .nan, _ => y
  | _, .nan => x
  | u, v =>
    match cmpV u v with
    | some .lt => if isMax then y else x
    | some .gt => if isMax then x else y
    | _ => if isMax then x &&& y else x ||| y

/-- FMIN (R164): of two equal numbers with different signs, that is zeros, the negative one. -/
def execFmin (c : Ctl) (d a : RegCode) (b : SrcB) (s : State) : Host.Outcome State Fault Refusal :=
  perLane (.fmin c d a b) s (fun e l => outD (fminmax false (readSet e.g l a 32) (readB e.g l b 32)))

/-- FMAX (R164). -/
def execFmax (c : Ctl) (d a : RegCode) (b : SrcB) (s : State) : Host.Outcome State Fault Refusal :=
  perLane (.fmax c d a b) s (fun e l => outD (fminmax true (readSet e.g l a 32) (readB e.g l b 32)))

/-- A value times a power of two, exact. -/
def scaleV (n : Int) : FVal → FVal
  | .fin neg m e => .fin neg m (e + n)
  | y => y

/-- FSCALE's count brought within a range beyond which every F32 over- or underflows (R165). -/
def clampScale (n : Int) : Int := if n < -1000 then -1000 else if 1000 < n then 1000 else n

/-- FSCALE (R165). -/
def execFscale (c : Ctl) (rm : Rnd) (d a : RegCode) (b : SrcB) (s : State) : Host.Outcome State Fault Refusal :=
  perLane (.fscale c rm d a b) s (fun e l =>
    outD (roundIEEE .f32 rm (scaleV (clampScale (sgn 32 (readB e.g l b 32))) (srcF e l .f32 a))))

/-- The one-hot class of a float code (R166). -/
def classOf (t : Ty) (code : Nat) : Nat :=
  match floatFields t with
  | none => 0
  | some (eb, mb, _) =>
    let neg := code.testBit (eb + mb)
    let x := code / 2 ^ mb % 2 ^ eb
    let m := code % 2 ^ mb
    let i :=
      if x = 2 ^ eb - 1 then (if m = 0 then (if neg then 0 else 7) else if m.testBit (mb - 1) then 9 else 8)
      else if x = 0 then (if m = 0 then (if neg then 3 else 4) else if neg then 2 else 5)
      else if neg then 1 else 6
    2 ^ i

/-- FCLASS (R166). -/
def execFclass (c : Ctl) (ty : Ty) (d a : RegCode) (s : State) : Host.Outcome State Fault Refusal :=
  perLane (.fclass c ty d a) s (fun e l => outD (classOf ty (readSet e.g l a ty.width)))

/-- A correctly rounded function (R167). -/
def func7 (i : Instr) (s : State) (f : Fn7) (rm : Rnd) (a : RegCode) : Host.Outcome State Fault Refusal :=
  perLane i s (fun e l => outD (fn7 f rm (readSet e.g l a 32)))

/-- FRCP (R167). -/
def execFrcp (c : Ctl) (rm : Rnd) (d a : RegCode) (s : State) : Host.Outcome State Fault Refusal :=
  func7 (.frcp c rm d a) s .rcp rm a

/-- FRSQ (R167). -/
def execFrsq (c : Ctl) (rm : Rnd) (d a : RegCode) (s : State) : Host.Outcome State Fault Refusal :=
  func7 (.frsq c rm d a) s .rsq rm a

/-- FSQRT (R167). -/
def execFsqrt (c : Ctl) (rm : Rnd) (d a : RegCode) (s : State) : Host.Outcome State Fault Refusal :=
  func7 (.fsqrt c rm d a) s .sqrt rm a

/-- FEXP2 (R167). -/
def execFexp2 (c : Ctl) (rm : Rnd) (d a : RegCode) (s : State) : Host.Outcome State Fault Refusal :=
  func7 (.fexp2 c rm d a) s .exp2 rm a

/-- FLOG2 (R167). -/
def execFlog2 (c : Ctl) (rm : Rnd) (d a : RegCode) (s : State) : Host.Outcome State Fault Refusal :=
  func7 (.flog2 c rm d a) s .log2 rm a

/-- FSIN (R167). -/
def execFsin (c : Ctl) (rm : Rnd) (d a : RegCode) (s : State) : Host.Outcome State Fault Refusal :=
  func7 (.fsin c rm d a) s .sin rm a

/-- FCOS (R167). -/
def execFcos (c : Ctl) (rm : Rnd) (d a : RegCode) (s : State) : Host.Outcome State Fault Refusal :=
  func7 (.fcos c rm d a) s .cos rm a

/-- DADD (R162). -/
def execDadd (c : Ctl) (rm : Rnd) (d a : RegCode) (b : SrcB) (s : State) : Host.Outcome State Fault Refusal :=
  arith2 (.dadd c rm d a b) s .f64 rm a b (addV rm)

/-- DMUL (R162). -/
def execDmul (c : Ctl) (rm : Rnd) (d a : RegCode) (b : SrcB) (s : State) : Host.Outcome State Fault Refusal :=
  arith2 (.dmul c rm d a b) s .f64 rm a b mulV

/-- DFMA (R162). -/
def execDfma (c : Ctl) (rm : Rnd) (d a : RegCode) (b : SrcB) (k : RegCode) (s : State) :
    Host.Outcome State Fault Refusal :=
  arith3 (.dfma c rm d a b k) s .f64 rm a b k

/-- Element `j` of a packed pair (R163). -/
def half (t : Ty) (v j : Nat) : FVal := value t (v / 2 ^ (16 * j) % 2 ^ 16)

/-- A packed instruction: each element pair on its own, at the type's precision and range (R163). -/
def packed (t : Ty) (rm : Rnd) (f : Nat → FVal) : LaneOut :=
  outD (roundIEEE t rm (f 0) + roundIEEE t rm (f 1) * 2 ^ 16)

/-- HADD2 (R163). -/
def execHadd2 (c : Ctl) (ty : Ty) (rm : Rnd) (d a : RegCode) (b : SrcB) (s : State) : Host.Outcome State Fault Refusal :=
  perLane (.hadd2 c ty rm d a b) s (fun e l =>
    packed ty rm (fun j => addV rm (half ty (readSet e.g l a 32) j) (half ty (readB e.g l b 32) j)))

/-- HMUL2 (R163). -/
def execHmul2 (c : Ctl) (ty : Ty) (rm : Rnd) (d a : RegCode) (b : SrcB) (s : State) : Host.Outcome State Fault Refusal :=
  perLane (.hmul2 c ty rm d a b) s (fun e l =>
    packed ty rm (fun j => mulV (half ty (readSet e.g l a 32) j) (half ty (readB e.g l b 32) j)))

/-- HFMA2 (R163). -/
def execHfma2 (c : Ctl) (ty : Ty) (rm : Rnd) (d a : RegCode) (b : SrcB) (k : RegCode) (s : State) :
    Host.Outcome State Fault Refusal :=
  perLane (.hfma2 c ty rm d a b k) s (fun e l =>
    packed ty rm (fun j => addV rm (mulV (half ty (readSet e.g l a 32) j) (half ty (readB e.g l b 32) j))
      (half ty (readSet e.g l k 32) j)))

/-! ## Conversions -/

/-- The draw of a stochastic conversion: SEED, the quad's DIX at issue, GLANE, the element number (R74, R171). -/
def drawOf (e : Env) (l j : Nat) : Nat :=
  srBits e.g.seed (e.g.quad (l / 4)).dix (BitVec.ofNat 64 (e.t.teamid * 2048 + 128 * e.g.idx + l)) j

/-- CVT (R171): a code in its container, its high bits zero (R78). -/
def execCvt (c : Ctl) (ty src : Ty) (rm : Rnd) (sat : Bool) (d a : RegCode) (s : State) :
    Host.Outcome State Fault Refusal :=
  perLane (.cvt c ty src rm sat d a) s (fun e l =>
    outF (conv ty rm sat (drawOf e l 0) (value src (readSet e.g l a (max 32 src.width)))))

/-- CVTP (R172). -/
def execCvtp (c : Ctl) (ty src : Ty) (rm : Rnd) (sat : Bool) (d a : RegCode) (b : SrcB) (s : State) :
    Host.Outcome State Fault Refusal :=
  perLane (.cvtp c ty src rm sat d a b) s (fun e l =>
    let lo := conv ty rm sat (drawOf e l 0) (value src (readSet e.g l a 32))
    let hi := conv ty rm sat (drawOf e l 1) (value src (readB e.g l b 32))
    outF (hi.1 * 2 ^ ty.width + lo.1, lo.2.or hi.2))

/-- CVTX: element `x` exactly, no flag (R173). -/
def execCvtx (c : Ctl) (ty src : Ty) (x : BitVec 3) (d a : RegCode) (s : State) : Host.Outcome State Fault Refusal :=
  perLane (.cvtx c ty src x d a) s (fun e l =>
    outD (conv ty .rne true 0 (value src (readSet e.g l a 32 / 2 ^ (src.width * x.toNat)))).1)

/-! ## Packed dot products -/

/-- The terms of a DOT: `n` element pairs, each times its lane's block scale (R177). -/
def dotTerms (el : Ty) (n : Nat) (mx : Bool) (a b : Nat) (sa sb : FVal) : List FVal :=
  (List.range n).map (fun i =>
    let x := mulV (elemVal el mx (a / 2 ^ (el.width * i))) sa
    let y := mulV (elemVal el mx (b / 2 ^ (el.width * i))) sb
    mulV x y)

/-- The scale of one: no scaling. -/
def oneV : FVal := .fin false 1 0

/-- A DOT instruction: one exact K-step per active lane (R177, R82). -/
def dot (i : Instr) (s : State) (ty el : Ty) (n : Nat) (sc : Option (RegCode × Nat)) (d a : RegCode) (b : SrcB) :
    Host.Outcome State Fault Refusal :=
  perLane i s (fun e l =>
    let scale := fun (lane : Nat) => match sc with
      | none => oneV
      | some (k, bs) => scaleVal .e8m0 (readSet e.g lane k 32 / 2 ^ (8 * bs) % 256)
    outF (kstep ty (readSet e.g l d 32)
      (dotTerms el n sc.isSome (readSet e.g l a 32) (readB e.g l b 32) (scale (l / 8 * 8)) (scale (l / 8 * 8 + 1)))))

/-- DOT2 (R177). -/
def execDot2 (c : Ctl) (ty el : Ty) (d a : RegCode) (b : SrcB) (s : State) : Host.Outcome State Fault Refusal :=
  dot (.dot2 c ty el d a b) s ty el 2 none d a b

/-- DOT4 (R177). -/
def execDot4 (c : Ctl) (ty el : Ty) (sc : Bool) (bs : BitVec 2) (d a : RegCode) (b : SrcB) (k : RegCode) (s : State) :
    Host.Outcome State Fault Refusal :=
  dot (.dot4 c ty el sc bs d a b k) s ty el 4 (if sc then some (k, bs.toNat) else none) d a b

/-- DOT8 (R177). -/
def execDot8 (c : Ctl) (ty el : Ty) (sc : Bool) (bs : BitVec 2) (d a : RegCode) (b : SrcB) (k : RegCode) (s : State) :
    Host.Outcome State Fault Refusal :=
  dot (.dot8 c ty el sc bs d a b k) s ty el 8 (if sc then some (k, bs.toNat) else none) d a b

end Sys2Proof.Machine
end

