-- ==== Sys2Proof/Machine/Control.lean ====
section
/-!
DEFINITION. Control flow: branches and the reconvergence stack, calls, EXIT, traps, REGANG, pre-emption points
(R15 to R19, R23, R130 to R143).
-/
namespace Sys2Proof.Machine

/-- A control instruction has retired: its quads continue where they were sent (R20, R29), and the group ends with its
last quad (R139). -/
def endControl (e : Env) (s : State) : State := checkEnd (endIssue e (countRetired e s)) e.gid

/-- A displacement from the holding clause's header (R51). -/
def Env.target (e : Env) (disp : BitVec 32) : VAddr := e.is.hdr + disp.signExtend 49

/-- The lanes of the quads of a list. -/
def lanesOfQuads (g : Group) (qs : List Nat) : LaneMask :=
  qs.foldl (fun m q => m ||| nibbleLanes q ((g.quad q).mask &&& ~~~ (g.quad q).exited)) 0

/-- A push by some quads: ADDR precisely, and nothing pushed, when one of them has no room for its entries (R19);
the handler's lanes are the active present ones of the quads that lack room, with address 0 (log 95). -/
def withRoom (e : Env) (need : Nat → Nat) (s : State) : State :=
  let full := (quadsOf e.is.quads).filter (fun q => decide (256 < (e.g.quad q).depth + need q))
  if full.isEmpty then s
  else raiseAll e e.s .addr (lanesOfQuads e.g full &&& e.pres)

/-- NOP (R140). -/
def execNop (c : Ctl) (s : State) : Host.Outcome State Fault Refusal :=
  instr (.nop c) s (fun e _ => .next (retire e e.s))

/-- The gang's ready stamp is taken afresh (R22). -/
def freshStamps (e : Env) (s : State) : State :=
  let n := ((s.core e.core).port e.port).count
  let g := s.group e.gid
  s.setGroup e.gid { g with quads := g.quads.map (fun x =>
    if e.is.quads.getLsbD x.1 then (x.1, { x.2 with stamp := some n }) else x) }

/-- YIELD: a fresh ready stamp at retirement, of a gang with an active lane (R22, R140). -/
def execYield (c : Ctl) (s : State) : Host.Outcome State Fault Refusal :=
  instr (.yield c) s (fun e lanes => .next (retire e (if lanes = 0 then e.s else freshStamps e e.s)))

/-- TRAP and BRK: raised after retirement in the active present lanes; without one, NOP (R141). -/
def trapAfter (i : Instr) (s : State) (cause : Cause) (code : Nat) : Host.Outcome State Fault Refusal :=
  instr i s (fun e lanes =>
    let f := lanes &&& e.pres
    if f = 0 then .next (retire e e.s)
    else .next (raiseAfter e (countRetired e e.s) cause code f ((lanesOf f).map (fun l => (l, cause, 0)))))

/-- TRAP (R141). -/
def execTrap (c : Ctl) (code : BitVec 8) (s : State) : Host.Outcome State Fault Refusal :=
  trapAfter (.trap c code) s .trapn code.toNat

/-- BRK (R141). -/
def execBrk (c : Ctl) (s : State) : Host.Outcome State Fault Refusal := trapAfter (.brk c) s .brk 0

/-! ## Liveness records (R350, R352) -/

/-- A liveness record's fields, when it is well formed for a group (R350, R352). -/
def parseLiveness (vregs padBytes : Nat) (bs : List Byte) : Option Liveness :=
  let v := ofBytes bs
  let n := bits v 155 152
  let ranges := (List.range 8).map (fun i =>
    let r := ofBytes ((bs.drop (32 + 8 * i)).take 8)
    (bits r 19 0, bits r 52 32, decide (bits r 63 53 ≠ 0 ∨ bits r 31 20 ≠ 0)))
  let used := ranges.take n
  if bits v 255 156 ≠ 0 ∨ 8 < n ∨ bits v 95 0 / 2 ^ vregs ≠ 0 ∨ ranges.any (fun r => r.2.2) then none
  else if used.any (fun r => decide (r.2.1 = 0 ∨ r.2.1 % 4 ≠ 0 ∨ r.1 % 4 ≠ 0 ∨ 2 ^ 20 < r.2.1 ∨ padBytes < r.1 + r.2.1))
    then none
  else some ⟨BitVec.ofNat 96 v, BitVec.ofNat 32 (bits v 127 96), BitVec.ofNat 12 (bits v 139 128),
    BitVec.ofNat 8 (bits v 151 144), BitVec.ofNat 4 (bits v 143 140), used.map (fun r => (r.1, r.2.1))⟩

/-- Read bytes of a group's global memory as a load would, none where a check of R85 fails: a declared region answers no such
read (R207). -/
def readSpan (s : State) (core ctx : Nat) (inh : Bool) (va n : Nat) : Option (List Byte) :=
  if 2 ^ 49 < va + n then none
  else (List.range n).foldr (fun i acc =>
    match acc, mapAddr s core ctx inh .read (va + i) with
    | some bs, .ok pa _ => if !noRegion (regionHit s pa) then none else some ((l1Load s core pa 1 .na false).1 ++ bs)
    | _, _ => none) (some [])

/-- A group stops at a PPOINT with the liveness of its record, or with full liveness and BADLIVE (R349, R352). -/
def stopAt (s : State) (gid va : Nat) : State :=
  let g := s.group gid
  let l := s.launch (s.team g.team).launch
  let rec_ := if va % 8 ≠ 0 then none
    else (readSpan s g.core l.ctx (g.frame.tstate.getLsbD 10) va 96).bind (parseLiveness l.vregs l.padBytes)
  match rec_ with
  | some r => s.setGroup gid { g with stop := some (.record r) }
  | none => statusAdd (s.setGroup gid { g with stop := some .full }) l.ctx 28 1

/-- PPOINT: a NOP unless a pre-emption is pending; then the group stops after it retires (R143, R349). -/
def execPpoint (a : RegCode) (s : State) : Host.Outcome State Fault Refusal :=
  instr (.ppoint a) s (fun e _ =>
    let s' := endIssue e (gotoNext e (countRetired e e.s))
    if (s'.ctx e.ctx).stopping.isSome then .next (stopAt s' e.gid (readSet e.g 0 a 64))
    else .next s')

/-! ## REGANG (R23, R280, R308) -/

/-- REGANG: the arriving quads are held at this address (R23). -/
def execRegang (s : State) : Host.Outcome State Fault Refusal :=
  instr .regang s (fun e _ =>
    -- a bound that has passed releases the quads that wait before this gang arrives
    let s' := gotoNext e (countRetired e (releaseDue e.s e.gid))
    let g := s'.group e.gid
    let s' := s'.setGroup e.gid { g with quads := g.quads.map (fun x =>
      if e.is.quads.getLsbD x.1 then (x.1, { x.2 with regang := some (e.is.pc, 0, g.lclk), stamp := none }) else x) }
    .next (regangCheck (endIssue e s') e.gid))

/-! ## Branches -/

/-- BRA, in each quad: uniform, or a PEND entry for the takers and the rest fall through (R134). -/
def execBra (c : Ctl) (disp : BitVec 32) (s : State) : Host.Outcome State Fault Refusal :=
  instr (.bra c disp) s (fun e lanes =>
    let t := e.target disp
    let takers := fun (q : Nat) => laneNibble lanes q
    let mask := fun (q : Nat) => (e.g.quad q).mask &&& ~~~ (e.g.quad q).exited
    let splits := fun (q : Nat) => takers q != 0 && takers q != mask q
    .next (withRoom e (fun q => b2n (splits q))
      (endControl e ((quadsOf e.is.quads).foldl (fun s q =>
        if takers q = mask q then updQuad s e.gid q (fun x => x.goto t)
        else if takers q = 0 then updQuad s e.gid q (fun x => x.goto e.is.after)
        else
          let s := push s e.gid q (stackEntry 2 (takers q) 0 t)
          updQuad s e.gid q (fun x => { (x.goto e.is.after) with mask := mask q &&& ~~~ takers q })) e.s))))

/-- Where BRX sends a lane: its pair's address where it takes the branch and the address is good (R135). -/
def brxDest (e : Env) (lanes : LaneMask) (a : RegCode) (l : Nat) : VAddr ⊕ Cause :=
  if lanes.getLsbD l then
    let t := readSet e.g l a 64
    if t / 2 ^ 49 ≠ 0 then (if e.pres.getLsbD l then .inr .addr else .inl e.is.after)
    else if t % 4 ≠ 0 then (if e.pres.getLsbD l then .inr .align else .inl e.is.after)
    else .inl (BitVec.ofNat 49 t)
  else .inl e.is.after

/-- BRX: branches per lane, PEND entries for the targets that do not run first (R135). -/
def execBrx (c : Ctl) (a : RegCode) (s : State) : Host.Outcome State Fault Refusal :=
  instr (.brx c a) s (fun e lanes =>
    let quadLanes := fun (q : Nat) =>
      lanesOf (nibbleLanes q ((e.g.quad q).mask &&& ~~~ (e.g.quad q).exited))
    let all := (quadsOf e.is.quads).flatMap quadLanes
    let bad := all.filterMap (fun l => match brxDest e lanes a l with
      | .inr cz => some (l, cz, readSet e.g l a 64) | .inl _ => none)
    if bad.isEmpty then
      let dest := fun (l : Nat) => match brxDest e lanes a l with | .inl t => t | .inr _ => e.is.after
      let targets := fun (q : Nat) => distinct ((quadLanes q).map dest)
      .next (withRoom e (fun q => (targets q).length - 1)
        (endControl e ((quadsOf e.is.quads).foldl (fun s q =>
          let ts := targets q
          let cur := if ts.contains e.is.after then e.is.after else ts.headD e.is.after
          let lanesTo := fun (t : VAddr) => laneNibble (maskOf ((quadLanes q).filter (fun l => dest l == t))) q
          let s := (ts.filter (fun t => t != cur)).reverse.foldl
            (fun s t => push s e.gid q (stackEntry 2 (lanesTo t) 0 t)) s
          updQuad s e.gid q (fun x => { (x.goto cur) with mask := lanesTo cur })) e.s)))
    else
      let cause := if bad.any (fun b => b.2.1 == Cause.addr) then Cause.addr else Cause.align
      .next (raise e e.s cause (maskOf (bad.map (fun b => b.1))) bad))

/-- CALL (R136). -/
def execCall (disp : BitVec 32) (s : State) : Host.Outcome State Fault Refusal :=
  instr (.call disp) s (fun e _ =>
    .next (withRoom e (fun _ => 1)
      (endControl e ((quadsOf e.is.quads).foldl (fun s q =>
        let m := (e.g.quad q).mask
        updQuad (push s e.gid q (stackEntry 3 m 0 e.is.after)) e.gid q (fun x => x.goto (e.target disp))) e.s))))

/-- MARK (R18, R137). -/
def execMark (disp : BitVec 32) (s : State) : Host.Outcome State Fault Refusal :=
  instr (.mark disp) s (fun e _ =>
    .next (withRoom e (fun _ => 1)
      (endControl e ((quadsOf e.is.quads).foldl (fun s q =>
        let m := (e.g.quad q).mask
        updQuad (push s e.gid q (stackEntry 1 m 0 (e.target disp))) e.gid q (fun x => x.goto e.is.after)) e.s))))

/-- Resume a popped entry in a quad: its lanes less the exited ones, or the unwinding loop where none lives (R18, R136,
R138). -/
def resumeEntry (s : State) (gid q : Nat) (en : DWord) : State :=
  let s := pop s gid q
  let s := updQuad s gid q (fun x =>
    { (x.goto (entryPc en)) with mask := entryMask en &&& ~~~ x.exited })
  unwind s gid q (maxDepth + 1)

/-- Some quad of the gang has a top entry, or an empty stack, that the instruction does not take. -/
def badTop (e : Env) (emptyBad : Bool) (kinds : List Nat) : Bool :=
  (quadsOf e.is.quads).any (fun q =>
    match (e.g.quad q).resident.head? with
    | none => emptyBad
    | some en => !kinds.contains (entryKind en))

/-- RET: pops a CALL entry in each quad; ILLOP on any other top (R136). -/
def execRet (s : State) : Host.Outcome State Fault Refusal :=
  instr .ret s (fun e lanes =>
    if badTop e true [3] then .next (raiseAll e e.s .illop (lanes &&& e.pres))
    else
      let s' := (quadsOf e.is.quads).foldl (fun s q =>
        match topEntry s e.gid q with | some en => resumeEntry s e.gid q en | none => s) e.s
      .next (regangCheck (tryReturn (endControl e s') e.gid) e.gid))

/-- JOIN: pops a PEND or MARK entry in each quad, or continues where the stack is empty; ILLOP on CALL or TRAP (R18). -/
def execJoin (s : State) : Host.Outcome State Fault Refusal :=
  instr .join s (fun e lanes =>
    if badTop e false [1, 2] then .next (raiseAll e e.s .illop (lanes &&& e.pres))
    else
      let s' := (quadsOf e.is.quads).foldl (fun s q =>
        match topEntry s e.gid q with
        | some en => resumeEntry s e.gid q en
        | none => updQuad s e.gid q (fun x => x.goto e.is.after)) e.s
      .next (regangCheck (tryReturn (endControl e s') e.gid) e.gid))

/-- EXIT: the active lanes leave; a quad without lanes unwinds its stack, and may end (R138). -/
def execExit (c : Ctl) (s : State) : Host.Outcome State Fault Refusal :=
  instr (.exit c) s (fun e lanes =>
    let s' := (quadsOf e.is.quads).foldl (fun s q =>
      let out := laneNibble lanes q
      let s := updQuad s e.gid q (fun x =>
        { (x.goto e.is.after) with exited := x.exited ||| out, mask := x.mask &&& ~~~ (x.exited ||| out) })
      unwind s e.gid q (maxDepth + 1)) e.s
    .next (regangCheck (tryReturn (endControl e s') e.gid) e.gid))

/-- RTT: each quad pops its TRAP entry and is held; trap return when no handler quad is left (R142, R307). -/
def execRtt (s : State) : Host.Outcome State Fault Refusal :=
  instr .rtt s (fun e lanes =>
    if badTop e true [4] then .next (raiseAll e e.s .illop (lanes &&& e.pres))
    else
      let s' := (quadsOf e.is.quads).foldl (fun s q =>
        updQuad (pop s e.gid q) e.gid q (fun x => { x with handled := true, stamp := none })) e.s
      .next (regangCheck (tryReturn (endIssue e (countRetired e s')) e.gid) e.gid))

end Sys2Proof.Machine
end

