-- ==== Sys2Proof/Machine/Ports.lean ====
section
/-!
DEFINITION. Issue ports: which gangs are ready, the choice of a gang, fetching and checking a clause, and the events that
release and yield (R15, R20 to R24, R56 to R59, R279, R282, R362, R387).
-/
namespace Sys2Proof.Machine

/-- The context of a group may run: live and its core in service (R315, R381). -/
def mayRun (s : State) (g : Group) : Bool :=
  let ctx := (s.launch (s.team g.team).launch).ctx
  (s.ctx ctx).state = .live && (s.core g.core).service = .inService && !s.iluic.stopped

/-- A quad that has neither ended nor is absent. -/
def Quad.lives (x : Quad) : Bool := x.kind != .absent && x.kind != .ended

/-- A group is blocked in WAIT: a quad waits, and every other live quad does or is held for trap return (R196, R349). -/
def Group.blocked (g : Group) : Bool :=
  g.quads.any (fun e => e.2.lives && e.2.waiting.isSome && !e.2.trapHeld) &&
  g.quads.all (fun e => !e.2.lives || e.2.waiting.isSome || e.2.trapHeld || e.2.handled)

/-- A group's stop under a requested pre-emption: at a PPOINT or the deadline, parked, blocked in WAIT, or ended (R349). -/
def stopped (s : State) (ctx : Nat) (g : Group) : Bool :=
  g.stop.isSome || ((s.ctx ctx).stopping.isSome && (g.park || g.blocked || g.allEnded))

/-- A context's stop deadline has passed: its groups begin no further clause (R349). -/
def pastDeadline (s : State) (ctx : Nat) : Bool :=
  match (s.ctx ctx).stopping with
  | some d => decide (d ≤ s.clock)
  | none => false

/-- The context of a group. -/
def ctxOf (s : State) (g : Group) : Nat := (s.launch (s.team g.team).launch).ctx

/-- A quad may be issued: at a header whose wait is over, or with a remainder; not held, blocked or stopped (R20). -/
def quadReady (s : State) (gid : Nat) (g : Group) (q : Nat) (x : Quad) : Bool :=
  !g.park && !stopped s (ctxOf s g) g && !pastDeadline s (ctxOf s g) && !x.trapHeld && !x.handled && x.waiting.isNone && x.regang.isNone &&
  headerPasses s g x && !waitsAcquire s gid (BitVec.ofNat 32 (2 ^ q))

/-- A gang that could be issued (R15). -/
structure Gang where
  gid : Nat
  quads : QuadMask
  pc : VAddr
  kind : QKind
  stamp : Nat
  slot : Nat
  low : Nat
  deriving DecidableEq, Repr

/-- Add a ready quad to the gangs: equal addresses join, under DET only within the quads' own gang (R15, R280). -/
def addQuad (det : Bool) (g : Group) (gid q : Nat) (x : Quad) (gs : List Gang) : List Gang :=
  let stamp := x.stamp.getD 0
  let same := fun (y : Gang) => y.gid == gid && y.pc == x.pc && y.kind == x.kind &&
    (!det || (g.quad y.low).det == x.det)
  if gs.any same then
    gs.map (fun y => if same y then { y with quads := y.quads ||| BitVec.ofNat 32 (2 ^ q), stamp := min y.stamp stamp } else y)
  else gs ++ [⟨gid, BitVec.ofNat 32 (2 ^ q), x.pc, x.kind, stamp, g.slot, q⟩]

/-- The groups that issue on a port (R20). -/
def portGroups (s : State) (core port : Nat) : List (Nat × Group) :=
  s.groups.filter (fun e => e.2.core = core && e.2.slot % 2 = port && mayRun s e.2)

/-- Take the ready stamps of the quads that became ready, and drop those of quads that are not (R22). -/
def stampPort (s : State) (core port : Nat) : State :=
  let n := ((s.core core).port port).count
  (portGroups s core port).foldl (fun s e =>
    let g := s.group e.1
    s.setGroup e.1 { g with quads := g.quads.map (fun x =>
      let r := quadReady s e.1 g x.1 x.2
      (x.1, { x.2 with stamp := if r then some (x.2.stamp.getD n) else none })) }) s

/-- The gangs ready at a port (R15, R20). -/
def readyGangs (s : State) (core port : Nat) : List Gang :=
  (portGroups s core port).foldl (fun gs e =>
    let g := e.2
    let det := (s.launch (s.team g.team).launch).det
    g.quads.foldl (fun gs x => if quadReady s e.1 g x.1 x.2 then addQuad det g e.1 x.1 x.2 gs else gs) gs) []

/-- A team's urgent group: the lowest count of retired instructions since the last phase, then the lowest GROUPID; a group
that has ended is none (R21; log 82). -/
def isUrgent (s : State) (gid : Nat) : Bool :=
  let g := s.group gid
  let peers := s.groups.filter (fun e => e.2.team = g.team && !e.2.allEnded)
  match leastBy (fun (e : Nat × Group) => (e.2.retired - e.2.base) * 16 + e.2.idx) peers with
  | some e => e.1 == gid
  | none => false

/-- Steps 2 to 5 of R21. -/
def pickByAge (s : State) (gs : List Gang) : Option Gang :=
  leastBy (fun y => ((b2n (!isUrgent s y.gid) * 2 ^ 64 + y.stamp) * 128 + y.slot) * 32 + y.low) gs

/-- The rotation of a DET team among its ready gangs on the port: the next key after the one issued last (R279). -/
def pickByRotation (s : State) (port : Nat) (gs : List Gang) (y : Gang) : Option Gang :=
  let t := (s.group y.gid).team
  let mine := gs.filter (fun z => (s.group z.gid).team == t)
  let key := fun (z : Gang) => (s.group z.gid).idx * 32 + z.low
  match aget? (s.team t).rotation port with
  | none => leastBy key mine
  | some last => leastBy (fun z => if last < key z then key z else key z + 1024) mine

/-- The gang a port issues (R21, R22, R279). -/
def chooseGang (s : State) (port : Nat) (gs : List Gang) : Option Gang :=
  match pickByAge s gs with
  | none => none
  | some y =>
    match leastBy (fun z => (z.stamp * 128 + z.slot) * 32 + z.low) gs with
    | none => some y
    | some old =>
      let det := (s.launch (s.team (s.group y.gid).team).launch).det
      -- a gang the age rule forces issues itself; the rotation stands under that rule too
      let z := if det then (pickByRotation s port gs y).getD y else y
      if old.stamp + 64 < y.stamp || old.stamp + 64 < z.stamp then some old else some z

/-- A fetched word, or the cause of a fetch fault. -/
inductive Fetched where
  | ok (w : Word) (s : State)
  | bad (c : Cause)

/-- Fetch one word of code by a core's cluster: its instruction cache may still hold the word fetched before, else the
home's (R57). -/
def fetchWord (s : State) (core ctx : Nat) (inh : Bool) (va : VAddr) : Fetched :=
  match mapCode s core ctx inh va.toNat with
  | .bad c => .bad c
  | .ok pa l =>
    if s.isPoisoned pa then .bad .poison
    else
      let asid := (s.ctx ctx).asid
      let key := asid * 2 ^ 49 + va.toNat
      let cl := s.cluster (core / 4)
      let s := s.setCluster (core / 4) { cl with itlb := tlbWith cl.itlb asid va.toNat l }
      if cl.cached.contains key && Config.staleCode s.tick key then .ok (Store.get cl.icache key) s
      else
        let (bs, s) := homeRead s pa 4
        let w := BitVec.ofNat 32 (ofBytes bs)
        let cl := s.cluster (core / 4)
        .ok w (s.setCluster (core / 4) { cl with
          icache := Store.set cl.icache key w
          cached := if cl.cached.contains key then cl.cached else insertBy id key cl.cached })

/-- The outcome of fetching a run of instructions: their words, or a fault with its address. -/
inductive Run where
  | ok (ws : List Word) (s : State)
  | bad (c : Cause) (va : VAddr)

/-- Fetch `n` words. -/
def fetchWords (s : State) (core ctx : Nat) (inh : Bool) (va : VAddr) : Nat → List Word → Run
  | 0, acc => .ok acc s
  | n + 1, acc =>
    match fetchWord s core ctx inh va with
    | .bad c => .bad c va
    | .ok w s => fetchWords s core ctx inh (va + 4) n (acc ++ [w])

/-- Fetch `n` instructions: each first word's LEN gives its length (R48). -/
def fetchInstrs (s : State) (core ctx : Nat) (inh : Bool) (va : VAddr) : Nat → List Word → Run
  | 0, acc => .ok acc s
  | n + 1, acc =>
    match fetchWord s core ctx inh va with
    | .bad c => .bad c va
    | .ok w s =>
      let len := wordsOfLen (lenOf w)
      match fetchWords s core ctx inh (va + 4) (len - 1) (acc ++ [w]) with
      | .bad c a => .bad c a
      | .ok acc s => fetchInstrs s core ctx inh (va + BitVec.ofNat 49 (4 * len)) n acc

/-- The clause-ending instructions (R57). -/
def endsClause : Instr → Bool
  | .bra _ _ | .brx _ _ | .call _ | .ret | .mark _ | .join | .regang | .rtt | .ppoint _ | .exit _ => true
  | _ => false

/-- A clause-ending instruction stands anywhere but last (R58). -/
def badEnding : List Word → Nat → Bool
  | _, 0 => false
  | _, 1 => false
  | ws, n + 2 =>
    let len := wordsOfLen (lenOf (ws.headD 0))
    (match decode ws with | some (i, _) => endsClause i | none => false) || badEnding (ws.drop len) (n + 1)

/-- A header that is no header (R58). -/
def badHeader (h : Word) : Bool :=
  hdrCount h == 0 || decide (24 < hdrCount h) || bits h.toNat 5 0 != 0 ||
  decide (12 ≤ hdrSetA h ∧ hdrSetA h ≤ 14) || decide (12 ≤ hdrSetB h ∧ hdrSetB h ≤ 14)

/-- A trap at a clause header (kind H, R304). -/
def trapAtHeader (s : State) (core port : Nat) (y : Gang) (h : Option Word) (cause : Cause) (lanes : LaneMask)
    (addr : Nat) : State :=
  let free := (Config.freeWord s.tick).toNat
  enterTrap s
    { core, port, gid := y.gid, gang := y.quads, cause, lanes,
      each := (lanesOf lanes).map (fun l => (l, cause, addr)),
      resume := y.pc + 4
      rem := match h with | some w => if 1 ≤ hdrCount w ∧ hdrCount w ≤ 24 then hdrCount w else 1 | none => 1
      hdr := true, after := false
      -- an unfetched header has no SETA and SETB: free values (log 16)
      seta := match h with | some w => hdrSetA w | none => free % 16
      setb := match h with | some w => hdrSetB w | none => free / 16 % 16
      hoff := 0, pc := y.pc }

/-- Lanes of a gang's quads that have not exited. -/
def unexited (g : Group) (qs : QuadMask) : LaneMask :=
  (quadsOf qs).foldl (fun m q => m ||| nibbleLanes q (~~~ (g.quad q).exited)) 0

/-- The first pending cause of R387 that a header's WAIT mask covers, with the lanes to report: those of the gang that
waits, as the handler runs in its quads (log 83). -/
def duePending (s : State) (gid : Nat) (qs : QuadMask) (wait : BitVec 12) (pres : LaneMask) :
    Option (Pend × LaneMask) :=
  let g := s.group gid
  let mine := unexited g qs
  let due := g.pend.filter (fun p => wait.getLsbD p.flag && (p.what == .mmafault || decide (p.lanes &&& mine ≠ 0)))
  let lanesFor := fun (k : Pend) => (due.filter (fun p => p.what == k)).foldl (fun m p => m ||| p.lanes) 0 &&& mine
  if due.any (fun p => p.what == .poison) then some (.poison, lanesFor .poison)
  else if due.any (fun p => p.what == .mmafault) then some (.mmafault, gangMask g qs &&& pres)
  else if due.any (fun p => p.what == .htfull) then some (.htfull, lanesFor .htfull)
  else none

/-- What is left pending once a header has raised a cause for some lanes. -/
def pendAfter (ps : List Pending) (k : Pend) (wait : BitVec 12) (lanes : LaneMask) : List Pending :=
  ps.filterMap (fun p =>
    if p.what == k && wait.getLsbD p.flag then
      (if k == .mmafault || p.lanes &&& ~~~ lanes == 0 then none else some { p with lanes := p.lanes &&& ~~~ lanes })
    else some p)

/-- The cause a pending event raises. -/
def Pend.cause : Pend → Cause
  | .poison => .poison | .mmafault => .mmafault | .htfull => .htfull | .hmlost => .hmlost

/-- The lanes of a gang whose acquire removed a stale entry while it could not raise HMLOST (R306; log 85). -/
def lostLanes (g : Group) (qs : QuadMask) : LaneMask :=
  (g.pend.filter (fun p => p.what == .hmlost && p.quads &&& qs != 0)).foldl (fun m p => m ||| p.lanes) 0 &&& unexited g qs

/-- SETA and SETB of the acquire that a gang's pending HMLOST follows. -/
def lostFlags (g : Group) (qs : QuadMask) : Nat × Nat :=
  match g.pend.find? (fun p => p.what == .hmlost && p.quads &&& qs != 0) with
  | some p => (p.flag / 16 % 16, p.flag / 256 % 16)
  | none => (15, 15)

/-- A gang's pending HMLOST is pending no more. -/
def dropLost (s : State) (gid : Nat) (qs : QuadMask) : State :=
  s.updGroup gid (fun g => { g with pend := g.pend.filter (fun p => !(p.what == .hmlost && p.quads &&& qs != 0)) })

/-- A gang's pending HMLOST, raised where it goes on: at its next header, or at the instruction its remainder begins with
(R304, R306). -/
def raisePendingLost (s : State) (core port : Nat) (y : Gang) (lanes : LaneMask) : State :=
  let g := s.group y.gid
  let x := g.quad y.low
  let (a, b) := lostFlags g y.quads
  let hdr := y.kind == .header
  let count := match peekWord s core (ctxOf s g) y.pc with
    | some w => if 1 ≤ hdrCount w ∧ hdrCount w ≤ 24 then hdrCount w else 1
    | none => 1
  enterTrap (dropLost s y.gid y.quads)
    { core, port, gid := y.gid, gang := y.quads, cause := .hmlost, lanes,
      each := (lanesOf lanes).map (fun l => (l, Cause.hmlost, 0))
      resume := if hdr then y.pc + 4 else y.pc, rem := if hdr then count else x.rem, hdr, after := true
      seta := if hdr then a else x.seta, setb := if hdr then b else x.setb, hoff := if hdr then 0 else x.hoff, pc := y.pc }

/-- Begin a gang's clause or remainder at a port; the words that a remainder fetches again are not checked for an instruction
that ends a clause before its end (R58; log 34). -/
def startIssue (s : State) (core port : Nat) (y : Gang) : State :=
  let g := s.group y.gid
  let l := s.launch (s.team g.team).launch
  let pres := presentLanes l g.idx
  let inh := g.frame.tstate.getLsbD 10
  let lanes := gangMask g y.quads &&& pres
  -- poisoned code is context-fatal, in a handler with DOUBLE (R312, R380); so are poisoned stack entries (log 103)
  let poisoned := fun (va : VAddr) => contextFatal s l.ctx
    { cause := Cause.poison.code, double := inh, launchid := l.id.toNat, teamid := (s.team g.team).teamid, groupid := g.idx
      addr := va.toNat, core, inc := (s.core core).incarnation, pc := y.pc }
  let issue := fun (s : State) (hdr pc : VAddr) (ws : List Word) (n a b : Nat) (yld : Bool) (only : Option LaneMask) =>
    let k := s.core core
    let p := k.port port
    let g := s.group y.gid
    let t := s.team g.team
    let key := g.idx * 32 + y.low
    let s := s.setTeam g.team { t with rotation := aset (aset t.rotation port key) 2 key }
    let p' : Issue := { gid := y.gid, quads := y.quads, hdr, pc, words := ws, rem := n, seta := a, setb := b, yld, only, held := false
                        clockHeld := false, clockPassed := false }
    s.setCore core (k.setPort port { count := p.count + 1, issue := some p' })
  let lost := if inh then 0 else lostLanes g y.quads
  if (quadsOf y.quads).any (fun q => (g.quad q).badStack) then poisoned 0
  else if lost ≠ 0 && (quadsOf y.quads).all (fun q => (g.quad q).only.isNone) then raisePendingLost s core port y lost
  else match y.kind with
  | .remainder =>
    let x := g.quad y.low
    let only := if (quadsOf y.quads).any (fun q => (g.quad q).only.isSome) then
        some ((quadsOf y.quads).foldl (fun m q =>
          m ||| nibbleLanes q ((g.quad q).only.getD ((g.quad q).mask))) 0)
      else none
    match fetchInstrs s core l.ctx inh y.pc x.rem [] with
    | .ok ws s =>
      -- its header, which says whether the clause ends with YLD, is read again (log 34)
      let hdr := y.pc - BitVec.ofNat 49 (4 * x.hoff)
      issue s hdr y.pc ws x.rem x.seta x.setb ((peekWord s core l.ctx hdr).any hdrYld) only
    | .bad .poison va => poisoned va
    | .bad c va =>
      enterTrap s
        { core, port, gid := y.gid, gang := y.quads, cause := c, lanes,
          each := (lanesOf lanes).map (fun ln => (ln, c, va.toNat)), resume := y.pc, rem := x.rem, hdr := false,
          after := false, seta := x.seta, setb := x.setb, hoff := x.hoff, pc := y.pc }
  | _ =>
    match fetchWord s core l.ctx inh y.pc with
    | .bad .poison => poisoned y.pc
    | .bad c => trapAtHeader s core port y none c lanes y.pc.toNat
    | .ok h s =>
      match if inh then none else duePending s y.gid y.quads (hdrWait h) pres with
      | some (k, m) =>
        let s := s.setGroup y.gid { (s.group y.gid) with pend := pendAfter (s.group y.gid).pend k (hdrWait h) m }
        trapAtHeader s core port y (some h) k.cause m 0
      | none =>
        let n := if hdrCount h ≤ 24 then hdrCount h else 0
        match fetchInstrs s core l.ctx inh (y.pc + 4) n [] with
        | .bad .poison va => poisoned va
        | .bad c va => trapAtHeader s core port y (some h) c lanes va.toNat
        | .ok ws s =>
          if badHeader h || badEnding ws n then trapAtHeader s core port y (some h) .illclause lanes 0
          else issue s y.pc (y.pc + 4) ws n (hdrSetA h) (hdrSetB h) (hdrYld h) none

/-- One arbitration round for the quads that wait at a REGANG on the port (R23). -/
def countRound (s : State) (core port : Nat) : State :=
  (portGroups s core port).foldl (fun s e =>
    let g := s.group e.1
    s.setGroup e.1 { g with quads := g.quads.map (fun x =>
      (x.1, { x.2 with regang := x.2.regang.map (fun r => (r.1, r.2.1 + 1, r.2.2)) })) }) s

/-- A port is between clauses and may choose. -/
def portFree (s : State) (core port : Nat) : Bool :=
  ((s.core core).port port).issue.isNone && (s.core core).service = .inService && !s.iluic.stopped

/-- Every quad of a gang takes the gang's ready stamp, the earliest of theirs (R22). -/
def mergeStamps (s : State) (gs : List Gang) : State :=
  gs.foldl (fun s y => s.updGroup y.gid (fun g => { g with quads := g.quads.map (fun x =>
    if y.quads.getLsbD x.1 then (x.1, { x.2 with stamp := some y.stamp }) else x) })) s

/-- The header a gang would issue, as its cluster fetches it, waits on a flag: the fetched word is checked as it stands
(R57). -/
def fetchedWaits (s : State) (core : Nat) (y : Gang) : Bool :=
  let g := s.group y.gid
  y.kind == .header &&
  (match fetchWord s core (ctxOf s g) (g.frame.tstate.getLsbD 10) y.pc with
   | .ok h _ => !g.clear (hdrWait h)
   | .bad _ => false)

/-- CLAUSE_ISSUE: the port chooses a ready gang and begins its clause (R21). -/
def execClauseIssue (core port : Nat) (s : State) : Host.Outcome State Fault Refusal :=
  if portFree s core port then
    let s' := (portGroups s core port).foldl (fun s e => releaseDue s e.1) s
    let s' := stampPort s' core port
    let gs := readyGangs s' core port
    let s' := mergeStamps s' gs
    match chooseGang s' port gs with
    | some y => if fetchedWaits s' core y then .next s else .next (startIssue (countRound s' core port) core port y)
    | none => .next s
  else .next s

/-- REGANG_BOUND_RELEASE: 64 arbitration rounds have passed since the first waiting quad arrived (R23). -/
def execRegangBoundRelease (gid : Nat) (addr : VAddr) (s : State) : Host.Outcome State Fault Refusal :=
  let g := s.group gid
  let det := (s.launch (s.team g.team).launch).det
  if !det && boundPassed false g addr then .next (releaseRegang s gid addr)
  else .next s

/-- DET_REGANG_BOUND: the group's LCLK has advanced by 1,536 since the first waiting quad arrived (R280). -/
def execDetRegangBound (gid : Nat) (addr : VAddr) (s : State) : Host.Outcome State Fault Refusal :=
  let g := s.group gid
  let det := (s.launch (s.team g.team).launch).det
  if det && boundPassed true g addr then .next (releaseRegang s gid addr)
  else .next s

/-- A port whose instruction could not issue holds it (R20): it stands where it stood. -/
def noteHold (before after : State) (core port : Nat) : State :=
  let k := after.core core
  let p := k.port port
  match ((before.core core).port port).issue, p.issue with
  | some x, some y =>
    if x.gid = y.gid ∧ x.pc = y.pc ∧ x.rem = y.rem ∧ x.quads = y.quads
    then after.setCore core (k.setPort port { p with issue := some { y with held := true } })
    else after
  | _, _ => after

/-! ## The minimum-clock rule (R281, R282) -/

/-- A barrier object's fields (R190). -/
structure BarObj where
  phase : Nat
  exp : Nat
  err : Bool
  arr : Nat
  bexp : Nat
  landed : Nat
  deriving DecidableEq, Repr

/-- Parse the 16 bytes of an object. -/
def parseBar (bs : List Byte) : BarObj :=
  let v := ofBytes bs
  ⟨bits v 31 0, bits v 46 32, bitOf v 47, bits v 62 48, bits v 95 64, bits v 127 96⟩

/-- The 16 bytes of an object; bit 63 is reserved and zero. -/
def barBytes (o : BarObj) : List Byte :=
  toBytes (o.phase + o.exp * 2 ^ 32 + b2n o.err * 2 ^ 47 + o.arr * 2 ^ 48 + o.bexp * 2 ^ 64 + o.landed * 2 ^ 96) 16

/-- Phase `p` has passed at phase `q` (R196, R341): (q − p) mod 2^32 is nonzero and below 2^31. -/
def phasePassed (q p : Nat) : Bool :=
  let d := (q + 2 ^ 32 - p % 2 ^ 32) % 2 ^ 32
  d != 0 && decide (d < 2 ^ 31)

/-- The physical place of an object a context names. -/
def physOf (s : State) (ctx : Nat) (p : Place) : Option Place :=
  match p with
  | .pad _ _ => some p
  | .glob va =>
    match walk s ctx va with
    | .ok l => (l.place s ctx va).map .glob
    | .bad _ => none

/-- Two names of a context for one object. -/
def samePlace (s : State) (ctx : Nat) (p q : Place) : Bool :=
  p == q || (match physOf s ctx p with | some x => physOf s ctx q == some x | none => false)

/-- A team's phase clocks of an object: of the current phase, of the last completed one (R283). -/
def phaseClocks (s : State) (t : Team) (p : Place) : DWord × DWord :=
  ((t.pclk.find? (fun c => samePlace s (s.launch t.launch).ctx c.1 p)).map (fun c => c.2)).getD (0, 0)

/-- The bytes of an object as they stand at its home or scratchpad, none where an address has no translation. -/
def peekBar (s : State) (ctx : Nat) (p : Place) : Option BarObj :=
  match p with
  | .glob va =>
    match walk s ctx va with
    | .ok l => (l.place s ctx va).map (fun pa => parseBar (homeBytes s pa 16))
    | .bad _ => none
  | .pad t off => some (parseBar (readBytes (s.team t).pad off 16))

/-- How an object that a group waits on stands: the phase its WAIT names has passed, so that the group is no longer blocked
(R196); its current phase has all its arrivals; or it lacks arrivals. -/
inductive WaitStand where
  | passed | arrived | lacking
  deriving DecidableEq, Repr

/-- How the object of a WAIT stands; one that cannot be read holds no group back. -/
def standOf (s : State) (ctx : Nat) (w : Waiting) : WaitStand :=
  match peekBar s ctx w.obj with
  | none => .arrived
  | some o => if phasePassed o.phase w.phase.toNat then .passed else if o.arr < o.exp then .lacking else .arrived

/-- What the WAITs of a group wait for. -/
def Group.waits (g : Group) : List Waiting :=
  g.quads.filterMap (fun e => if e.2.lives && !e.2.trapHeld then e.2.waiting else none)

/-- A group is counted by the minimum-clock rule: live, and not blocked in WAIT on an object whose current phase lacks
arrivals (R282). -/
def counted (s : State) (ctx : Nat) (g : Group) : Bool :=
  !g.allEnded && !(g.blocked && g.waits.all (fun w => standOf s ctx w == .lacking))

/-- A counted group's clock: while it is blocked on an object that has all its arrivals, raised to the current phase's PCLK;
and, its phase having passed, to that of the completed one, which its WAIT will take (R283). -/
def clockOf (s : State) (g : Group) : Nat :=
  let t := s.team g.team
  let ctx := (s.launch t.launch).ctx
  if g.blocked then
    g.waits.foldl (fun c w => match standOf s ctx w with
      | .passed => max c (phaseClocks s t w.obj).2.toNat
      | .arrived => max c (phaseClocks s t w.obj).1.toNat
      | .lacking => c) g.lclk.toNat
  else g.lclk.toNat

/-- An arrival of the team with a clock up to `c` is still to be counted: it may release a group with a lower clock (R283,
R285; log 97). -/
def arrivalOpen (s : State) (team c : Nat) : Bool :=
  s.flights.any (fun f => f.2.team == team &&
    (match f.2.kind with
     | .arrive _ clk => decide (clk.toNat ≤ c)
     | _ => false))

/-- R282's condition for a group, once every arrival that may change it has been counted (log 97). -/
def clockLeast (s : State) (gid : Nat) : Bool :=
  let g := s.group gid
  let ctx := (s.launch (s.team g.team).launch).ctx
  !arrivalOpen s g.team g.lclk.toNat &&
  s.groups.all (fun e =>
    e.1 == gid || e.2.team != g.team || !counted s ctx e.2 ||
    decide (g.lclk.toNat < clockOf s e.2) || (clockOf s e.2 == g.lclk.toNat && decide (g.idx < e.2.idx)))

/-- Set the minimum-clock marks of a port's issue. -/
def setClock (s : State) (core port : Nat) (held passed : Bool) : State :=
  let k := s.core core
  let p := k.port port
  s.setCore core (k.setPort port { p with issue := p.issue.map (fun i => { i with clockHeld := held, clockPassed := passed }) })

/-- An instruction of R281 waits under the minimum-clock rule before its step; in a handler it is exempt. -/
def minClock (e : Env) (k : Host.Outcome State Fault Refusal) : Host.Outcome State Fault Refusal :=
  if !e.l.det || e.inh || e.is.clockPassed then k
  else if clockLeast e.s e.gid then k
  else .next (setClock e.s e.core e.port true false)

/-- MIN_CLOCK_RELEASE: the condition of the instruction a port holds is met, and holds for good (R282). -/
def execMinClockRelease (core port : Nat) (s : State) : Host.Outcome State Fault Refusal :=
  match ((s.core core).port port).issue with
  | some i => if i.clockHeld && clockLeast s i.gid then .next (setClock s core port false true) else .next s
  | none => .next s

/-- DET_YIELD: a waiting gang gives its port to a ready gang of a lower-clocked group of its team (R362). -/
def execDetYield (core port : Nat) (s : State) : Host.Outcome State Fault Refusal :=
  match ((s.core core).port port).issue with
  | none => .next s
  | some i =>
    let g := s.group i.gid
    let lower := (readyGangs s core port).any (fun y =>
      let h := s.group y.gid
      y.gid != i.gid && h.team == g.team &&
      (decide (h.lclk.toNat < g.lclk.toNat) || (h.lclk == g.lclk && decide (h.idx < g.idx))))
    if i.clockHeld && lower then
      match ({ s with cur := (core, port) } : State).env? with
      | some e => .next (parkRemainder e s i.pc i.rem i.hoff i.only)
      | none => .next s
    else .next s

end Sys2Proof.Machine
end

