-- ==== Sys2Proof/Machine/Tree.lean ====
section
/-!
DEFINITION. The tree of an aggregate region (R202 to R205): contributions, entries and their places, the step that writes
a leaf (R208), and the walks of the queries (R215 to R218).
-/
namespace Sys2Proof.Machine

/-- The leaf type (R201). -/
def Region.ty (r : Region) : Ty := (Ty.ofCode (r.attr.setWidth 5)).getD .i32

/-- Q of the attribute word. -/
def Region.q (r : Region) : Int := sgn 8 (bits r.attr.toNat 31 24)

/-- Leaves of the region. -/
def Region.n (r : Region) : Nat := 2 ^ r.log2n

/-- The bound of CLAMP (R205). -/
def clampBound : Int := 2 ^ 63 - 1

/-- CLAMP (R205). -/
def clampSum (v : Int) : Int := if clampBound < v then clampBound else if v < -clampBound then -clampBound else v

/-- A leaf's contribution with its flags: ASAT for a saturated F32, INVALID for a NaN (R202). -/
def Region.contribution (r : Region) (code : Nat) : Int × Flags :=
  match r.ty with
  | .i32 => (sgn 32 code, {})
  | .n32 => (code % 2 ^ 32, {})
  | .f32 =>
    let (v, f) := fxOf r.q code
    (sgn 64 v, { f with ovf := false, asat := f.ovf })
  | _ => (sgn 64 code, {})

/-- The bits of a leaf. -/
def leafCode (s : State) (r : Region) (i : Nat) : Nat :=
  ofBytes (readBytes s.mem (spanAt r.leaves (r.leafBytes * i)) r.leafBytes)

/-- The leaves under an entry: the first one and the one past the last (R203, R205). -/
def Region.under (r : Region) (k j : Nat) : Nat × Nat := (j * 4 ^ k, min ((j + 1) * 4 ^ k) r.n)

/-- The contributions of the leaves under an entry. -/
def contributions (s : State) (r : Region) (k j : Nat) : List Int :=
  let (a, b) := r.under k j
  (List.range (b - a)).map (fun i => (r.contribution (leafCode s r (a + i))).1)

/-- The exact sum, the largest and the smallest of some contributions. -/
def sumOf (vs : List Int) : Int := vs.foldl (· + ·) 0
def maxOf (vs : List Int) : Int := vs.foldl max (vs.headD 0)
def minOf (vs : List Int) : Int := vs.foldl min (vs.headD 0)

/-- The bytes of an entry with its value under R205. -/
def entryBytesOf (r : Region) (vs : List Int) : List Byte :=
  let sum := toBytes (wrapN 64 (clampSum (sumOf vs))) 8
  let mx := toBytes (wrapN 64 (maxOf vs)) 8
  match r.kindNo with
  | 0 => sum
  | 1 => mx
  | 2 => toBytes (wrapN 64 (minOf vs)) 8
  | _ => sum ++ mx

/-- CLAMP acts on an entry of these contributions. -/
def clampActs (r : Region) (vs : List Int) : Bool :=
  (r.kindNo == 0 || r.kindNo == 3) && clampSum (sumOf vs) != sumOf vs

/-- Write bytes of a region in place, at the apex unit. -/
def regionWrite (s : State) (pa : Nat) (bs : List Byte) : State :=
  { s with mem := writeBytes s.mem pa bs }.clearPoison pa bs.length

/-- An entry takes its value under R205; answers whether CLAMP acted. -/
def writeEntry (s : State) (r : Region) (k j : Nat) : Bool × State :=
  let vs := contributions s r k j
  (clampActs r vs, regionWrite s (spanAt r.shadow (r.off k j)) (entryBytesOf r vs))

/-- Every entry on a leaf's path takes its value (R208). -/
def writePath (s : State) (r : Region) (i : Nat) : Bool × State :=
  (List.range r.levels).foldl (fun acc k =>
    let (c, s) := writeEntry acc.2 r (k + 1) (i / 4 ^ (k + 1))
    (acc.1 || c, s)) (false, s)

/-- The new bits of a leaf, with ASAT where CLAMP acts (R208). -/
def leafNew (r : Region) (red : Bool) (old b : Nat) : Nat × Bool :=
  if !red then (b, false)
  else match r.ty with
    | .i32 | .n32 => ((old + b) % 2 ^ 32, false)
    | .f32 => (combine 0 .f32 old b, false)
    | _ =>
      let v := sgn 64 old + sgn 64 b
      (wrapN 64 (clampSum v), clampSum v != v)

/-- LEAFWRITE on one leaf, named by its place: the flags it raises and the state after (R208). -/
def leafStep (s : State) (r : Region) (red : Bool) (pa b : Nat) : Flags × State :=
  match spanOff r.leaves pa with
  | none => ({}, s)
  | some o =>
    let i := o / r.leafBytes
    let (x, sat) := leafNew r red (leafCode s r i) b
    let s := regionWrite s pa (toBytes x r.leafBytes)
    let fl := (r.contribution x).2
    let (c, s) := writePath s r i
    ({ fl with asat := fl.asat || sat || c }, s)

/-- A plain store that reaches a leaf after the region was declared leaves the leaf's path unpredictable (R211; log 10). -/
def racePath (s : State) (pa : Nat) : State :=
  match regionHit s pa with
  | .leaf slot r =>
    match spanOff r.leaves pa with
    | none => s
    | some o =>
      let i := o / r.leafBytes
      (List.range r.levels).foldl (fun s k =>
        (List.range (r.entryBytes / 8)).foldl (fun s h =>
          regionWrite s (spanAt r.shadow (r.off (k + 1) (i / 4 ^ (k + 1))) + 8 * h)
            (toBytes (Config.racedEntry s.tick (((slot * 64 + k) * 4 + h) * 2 ^ 40 + i)).toNat 8)) s) s
  | _ => s

/-- Build a tree: every entry, padding entries zero; the flags the build meets (R204, R211). -/
def buildTree (s : State) (r : Region) : Flags × State :=
  let fl := (List.range r.n).foldl (fun f i => f.or (r.contribution (leafCode s r i)).2) ({} : Flags)
  (List.range r.levels).foldl (fun acc k =>
    let lvl := k + 1
    (List.range (max (r.count lvl) 4)).foldl (fun acc j =>
      if j < r.count lvl then
        let (c, s) := writeEntry acc.2 r lvl j
        ({ acc.1 with asat := acc.1.asat || c }, s)
      else (acc.1, regionWrite acc.2 (spanAt r.shadow (r.off lvl j)) (List.replicate r.entryBytes 0))) acc) (fl, s)

/-! ## Queries -/

/-- VAL (R215): a leaf's contribution, or an entry as the shadow holds it; the half a SUMMAX query needs. -/
def treeVal (s : State) (r : Region) (maxHalf : Bool) (k j : Nat) : Int :=
  if k = 0 then (r.contribution (leafCode s r j)).1
  else sgn 64 (ofBytes (readBytes s.mem (spanAt r.shadow (r.off k j) + (if r.kindNo = 3 ∧ maxHalf then 8 else 0)) 8))

/-- The values RANGE reads from level `k` on (R215); the fuel is the number of levels left. -/
def rangeVals (val : Nat → Nat → Int) : Nat → Nat → Nat → Nat → List Int
  | 0, _, _, _ => []
  | n + 1, k, a, b =>
    let run := fun (x y : Nat) => (List.range (y - x)).map (fun i => val k (x + i))
    if a < b then
      if a / 4 = (b - 1) / 4 then run a b
      else
        let a' := (a + 3) / 4
        let b' := b / 4
        run a (4 * a') ++ run (4 * b') b ++ rangeVals val n (k + 1) a' b'
    else []

/-- DESCEND below entry (k, j), k = `n` (R217). -/
def descendFrom (val : Nat → Nat → Int) (count : Nat → Nat) (t : Int) : Nat → Int → Nat → Nat
  | 0, _, j => j
  | n + 1, acc, j =>
    let c := min 4 (count n - 4 * j)
    let rec pick : Nat → Nat → Int → Nat × Int
      | 0, m, acc => (m, acc)
      | f + 1, m, acc =>
        let v := val n (4 * j + m)
        if t < acc + v ∨ m + 1 = c then (m, acc) else pick f (m + 1) (acc + v)
    let (m, acc') := pick 4 0 acc
    descendFrom val count t n acc' (4 * j + m)

/-- DESCEND: the leaf index, and whether t lies below the total (R217). -/
def descend (s : State) (r : Region) (t : Int) : Nat × Bool :=
  if treeVal s r false r.levels 0 ≤ t then (r.n, false)
  else (descendFrom (treeVal s r false) (fun k => if k = 0 then r.n else r.count k) t r.levels 0 0, true)

/-- APICK (R218). -/
def pickLeaf (s : State) (r : Region) (u : Nat) : Nat × Bool :=
  let total := treeVal s r false r.levels 0
  if total ≤ 0 then (r.n, false) else descend s r (u * total / 2 ^ 32)

/-- RNE(v × 2^Q) as F32 (R216). -/
def toF32 (r : Region) (v : Int) : Nat := (conv .f32 .rne false 0 (valueQ .fx64 r.q (wrapN 64 v))).1

/-- What a range query with no leaf returns (R216). -/
def emptyRange (r : Region) (fn : Nat) : Nat :=
  match fn, r.ty with
  | 0, _ => 0
  | 1, .i32 => 0xFFFFFFFF80000000
  | 1, .n32 => 0
  | 1, .f32 => 0xFF800000
  | 1, _ => 0x8000000000000000
  | _, .i32 => 0x7FFFFFFF
  | _, .n32 => 0xFFFFFFFF
  | _, .f32 => 0x7F800000
  | _, _ => 0x7FFFFFFFFFFFFFFF

/-- A range query's value, predicate and flags (R215, R216): FN 0 ARSUM, 1 ARMAX, 2 ARMIN. -/
def rangeQuery (s : State) (r : Region) (fn : Nat) (fx : Bool) (lo hi : Nat) : Nat × Bool × Flags :=
  if hi ≤ lo then (emptyRange r fn, false, {})
  else
    let vs := rangeVals (treeVal s r (fn != 0)) (r.levels + 1) 0 lo hi
    match fn with
    | 0 =>
      let sum := sumOf vs
      let sat := clampSum sum != sum || vs.any (fun v => v == clampBound || v == -clampBound)
      let v := clampSum sum
      (if r.ty = .f32 ∧ !fx then toF32 r v else wrapN 64 v, true, { asat := sat })
    | _ =>
      let v := if fn = 1 then maxOf vs else minOf vs
      (if r.ty = .f32 then toF32 r v else wrapN 64 v, true, {})

/-- The root value (R213). -/
def rootValue (s : State) (r : Region) : Nat := wrapN 64 (treeVal s r false r.levels 0)

end Sys2Proof.Machine
end

