-- ==== Sys2Proof/Machine/Memory.lean ====
section
/-!
DEFINITION. Loads and stores: effective addresses and checks (R83 to R85), region accesses (R207, R208), pieces in
flight, LD, ST, LDS, STS, LDC, STC, PREF (R178 to R182), reuse hints (R95), and the events that complete them.
-/
namespace Sys2Proof.Machine

/-! ## Addresses and checks -/

/-- The outcome of the checks of R85 on one lane: a place with its page's AGG bit and size, or the first failing check. -/
inductive Target where
  | at (p : Place) (agg : Bool) (pbits : Nat)
  | bad (c : Cause)
  deriving DecidableEq, Repr

/-- Lane effective addresses of a global access: the lane's pair plus the offset (R83). -/
def Env.globalEA (e : Env) (a : RegCode) (off : BitVec 32) (l : Nat) : Int := (readSet e.g l a 64 : Int) + off.toInt

/-- Row addressing of the scratchpad (R83). -/
def Env.rowEA (e : Env) (a : RegCode) (off : BitVec 32) (w l : Nat) : Int :=
  ((readReg e.g 0 a.toNat).toNat : Int) + off.toInt + (w * l : Nat)

/-- The uniform scratchpad address (R83). -/
def Env.uniformEA (e : Env) (a : RegCode) (off : BitVec 32) : Int :=
  ((readReg e.g 0 a.toNat).toNat : Int) + off.toInt

/-- The checks of R85 on a lane's global address; `ok` says which places in a declared region or shadow the access may
reach (R207). -/
def checkGlobal (s : State) (core ctx : Nat) (inh : Bool) (need : Need) (ok : RegionHit → Bool) (lane : Nat) (ea : Int)
    (w : Nat) : Target :=
  if ea < 0 ∨ (2 ^ 49 : Int) < ea + (w : Int) then .bad .addr
  else if ea % (w : Int) ≠ 0 then .bad .align
  else match mapLane s core ctx inh need lane ea.toNat with
    | .bad c => .bad c
    | .ok pa l => if ok (regionHit s pa) then .at (.glob pa) l.agg l.size else .bad .prot

/-- The checks of R85 on a scratchpad offset of a team. -/
def checkPad (s : State) (team : Nat) (ea : Int) (w : Nat) : Target :=
  let t := s.team team
  let n := (s.launch t.launch).padBytes
  if ea < 0 ∨ (n : Int) < ea + (w : Int) then .bad .addr
  else if ea % (w : Int) ≠ 0 then .bad .align
  else if t.claims ea.toNat w then .bad .prot
  else .at (.pad team ea.toNat) false 0

/-- Region places an LD may reach: leaves at their width, shadow entries by .B64 (R207). -/
def loadRegion (ty : Ty) : RegionHit → Bool
  | .none => true
  | .leaf _ r => (ty == .b32 || ty == .b64) && ty.width / 8 == r.leafBytes
  | .shadow _ _ => ty == .b64

/-- Region places an ST may reach: leaves at their width (R207). -/
def storeRegion (ty : Ty) : RegionHit → Bool
  | .none => true
  | .leaf _ r => (ty == .b32 || ty == .b64) && ty.width / 8 == r.leafBytes
  | .shadow _ _ => false

/-- The team whose CSLOT a cluster access names (R83, R181). -/
def peerTeam (s : State) (e : Env) (slot : Nat) : Option Nat :=
  (s.teams.find? (fun x => x.2.launch = e.t.launch && x.2.teamid / 4 = e.t.teamid / 4 && x.2.cslot = slot)).map
    (fun x => x.1)

/-- The checks of an LDC or STC (R84, R85, R181). -/
def checkPeer (s : State) (e : Env) (slot : Nat) (ea : Int) (w : Nat) : Target :=
  if !e.l.isCluster then .bad .prot
  else match peerTeam s e slot with
    | none => .bad .addr
    | some t => checkPad s t ea w

/-- A passing lane's piece: its operands, its address and page. -/
def pieceOf (w : Nat) (ea : Nat → Int) (x : Nat × Place × Bool × Nat) (b k : Nat) : Piece :=
  { lane := x.1, pa := x.2.1, w, b, k, got := none, bad := false, va := (ea x.1).toNat, pbits := x.2.2.2, agg := x.2.2.1 }

/-- The lanes of an instruction sorted by R85: those that pass, the present lanes that fail, the helper lanes that
fail. -/
structure Sorted where
  good : List (Nat × Place × Bool × Nat)
  bad : List (Nat × Cause × Nat)
  dead : List Nat

/-- Check every active lane (R85). -/
def sortLanes (e : Env) (lanes : LaneMask) (ea : Nat → Int) (check : Nat → Int → Target) : Sorted :=
  (lanesOf lanes).foldr (fun l r =>
    match check l (ea l) with
    | .at p agg n => { r with good := (l, p, agg, n) :: r.good }
    | .bad c =>
      if e.pres.getLsbD l then { r with bad := (l, c, wrapN 49 (ea l)) :: r.bad }
      else { r with dead := l :: r.dead }) ⟨[], [], []⟩

/-- The operation is assigned to its flag: no trap stops it at issue, or a present lane's access is made all the same
(R60). -/
def Sorted.assigns (r : Sorted) (e : Env) : Bool := r.bad.isEmpty || r.good.any (fun x => e.pres.getLsbD x.1)

/-- The error record of an error at the instruction in issue (R312). -/
def Env.info (e : Env) (c : Cause) (addr : Nat) : ErrorInfo :=
  { cause := c.code, launchid := e.l.id.toNat, teamid := e.t.teamid, groupid := e.g.idx, addr, core := e.core,
    inc := (e.s.core e.core).incarnation, pc := e.is.pc }

/-- The trap of the failing lanes: the first cause in the order ADDR, ALIGN, XLATE, PROT that some lane met (R85); a walk
that meets poison is context-fatal (R380). -/
def raiseBad (e : Env) (s : State) (bad : List (Nat × Cause × Nat)) : State :=
  match bad.find? (fun b => b.2.1 == .poison) with
  | some b => contextFatal s e.ctx (e.info .poison b.2.2)
  | none =>
    let has := fun (c : Cause) => bad.any (fun b => b.2.1 == c)
    let cause := if has .addr then Cause.addr else if has .align then .align else if has .xlate then .xlate
      else if has .prot then .prot else (bad.headD (0, .aregion, 0)).2.1
    raise e s cause (maskOf (bad.map (fun b => b.1))) bad

/-- End the instruction: it retires, or traps for its failing lanes (R85). -/
def retireOr (e : Env) (s : State) (bad : List (Nat × Cause × Nat)) : State :=
  if bad.isEmpty then retire e s else raiseBad e s bad

/-- The core's TLB takes the translations the passing lanes used (R87, R326), one for each 64 KiB they meet. -/
def touchTlb (s : State) (core ctx : Nat) (vas : List Nat) : State :=
  ((distinct (vas.map (fun va => va / 2 ^ 16))).map (fun n => n * 2 ^ 16)).foldl (fun s va =>
    match translate s core ctx va with | .ok l => tlbInsert s core ctx va l | .bad _ => s) s

/-! ## Reuse hints (R95) -/

/-- An address lies in a hinted range. -/
def HintUse.covers (h : HintUse) (va : Nat) : Bool :=
  h.cls != 0 && !h.dropped && decide (h.base ≤ va ∧ va < h.base + h.pages * 4096)

/-- STREAM makes .CA accesses of its range allocate as .ST (R95). -/
def Launch.hintFor (l : Launch) (va : Nat) (h : Hint) : Hint :=
  if h == .ca && l.hints.any (fun x => x.cls == 1 && x.covers va) then .st else h

/-- KEEP gives the lines of its range last place for replacement (R95). -/
def Launch.keeps (l : Launch) (va : Nat) : Bool := l.hints.any (fun x => x.cls == 3 && x.covers va)

/-- The measured ratio lies outside the class's band (R95); a range with no access has no ratio (log 86). -/
def HintUse.outside (h : HintUse) : Bool :=
  let m := h.misses
  let a := 4 * h.accesses
  if h.accesses = 0 then false
  else match h.cls with
    | 1 => !decide (a < 2 * m)
    | 2 => !decide (a ≤ 64 * m ∧ 2 * m ≤ a)
    | _ => !decide (64 * m < a)

/-- Count one line request with its misses; at each multiple of 4,096 the ratio is checked (R95). -/
def HintUse.count (h : HintUse) (misses : Nat) : HintUse :=
  let h := { h with accesses := h.accesses + 1, misses := h.misses + misses }
  if h.accesses % 4096 = 0 then { h with contradicted := h.contradicted || h.outside } else h

/-- Sectors of a core that a load in flight is filling. -/
def fillInFlight (s : State) (core sector : Nat) : Bool :=
  s.flights.any (fun f => f.2.core = core && f.2.kind == .load && f.2.pieces.any (fun p =>
    p.got.isNone && (match p.pa with | .glob a => sectorOf a == sector | .pad _ _ => false)))

/-- Count an instruction's line requests against the launch's hinted ranges: of each access its address, its place, and
whether it takes a miss-status entry where its sector is not valid (R88, R95; log 86). -/
def countHints (s : State) (e : Env) (accs : List (Nat × Nat × Bool)) : State :=
  let l := s.launch e.t.launch
  if l.hints.isEmpty || accs.isEmpty then s
  else
    let lines := distinct (accs.map (fun a => a.1 / 256))
    let hints := lines.foldl (fun hs ln =>
      let mine := accs.filter (fun a => a.1 / 256 == ln)
      let pas := distinct ((mine.filter (fun a => a.2.2)).map (fun a => sectorOf a.2.1))
      let misses := (pas.filter (fun sec =>
        let x := (s.core e.core).line (sec / 4)
        !x.valid.getLsbD (sec % 4) && !fillInFlight s e.core sec)).length
      hs.map (fun h => if h.covers (ln * 256) then h.count misses else h)) l.hints
    s.setLaunch e.t.launch { l with hints := hints }

/-! ## Performing the pieces of a load -/

/-- The hint a piece of a load follows: its own page's AGG bit makes it .NA (R91, R95, R325). -/
def Piece.hint (p : Piece) (l : Launch) (h : Hint) : Hint := if p.agg then .na else l.hintFor p.va h

/-- Perform one piece of a load (R61, R90), whole: an access of more than 32 bits never tears (R111; log 93). -/
def performPiece (s : State) (f : Flight) (p : Piece) : Piece × State :=
  match p.got with
  | some _ => (p, s)
  | none =>
    match p.pa with
    | .pad t off => ({ p with got := some (ofBytes (readBytes (s.team t).pad off p.w)), bad := (s.team t).padBad off p.w }, s)
    | .glob pa =>
      let l := s.launch (s.team f.team).launch
      let (bs, bad, s) := l1Load s f.core pa p.w (p.hint l f.hint) f.stale
      ({ p with got := some (ofBytes bs), bad := bad }, keepLine s f.core (lineOf pa) (l.keeps p.va))

/-- Perform the pieces of a load that a test selects. -/
def performLoad (s : State) (id : Nat) (sel : Piece → Bool) : State :=
  match aget? s.flights id with
  | none => s
  | some f =>
    let (ps, s) := f.pieces.foldl (fun acc p =>
      if sel p then let (p, s) := performPiece acc.2 f p; (acc.1 ++ [p], s) else (acc.1 ++ [p], acc.2)) ([], s)
    s.setFlight id { f with pieces := ps }

/-- A write of a group is not published before its earlier loads have their values (R109): they are performed now. -/
def settle (s : State) (gid : Nat) : State :=
  s.flights.foldl (fun s f =>
    if f.2.gid = gid && f.2.kind == .load then performLoad s f.1 (fun _ => true) else s) s

/-! ## Landing results -/

/-- Write a flight's value into its destination in a lane, but for registers a later write overtook (R61). -/
def landReg (g : Group) (f : Flight) (lane v : Nat) : Group :=
  match f.dst with
  | none => g
  | some d =>
    (List.range ((f.width + 3) / 4)).foldl (fun g i =>
      let r := d.toNat + i
      let key := if r < 96 then 128 * lane + r else r
      if f.skip.contains key then g else writeReg g lane r (BitVec.ofNat 32 (v / 2 ^ (32 * i)))) g

/-- Write a flight's predicate in a lane. -/
def landPred (g : Group) (f : Flight) (lane : Nat) (v : Bool) : Group :=
  match f.pdst with
  | none => g
  | some p => if f.skip.contains (2 ^ 14 + 16 * lane + p.toNat) then g else writePred g lane p v

/-- Land values by lane: V registers in every lane, an S register from the one lane that supplies it (R27). -/
def landVals (g : Group) (f : Flight) (sLane : Option Nat) (vals : List (Nat × Nat)) : Group :=
  match f.dst with
  | none => g
  | some d =>
    if d.toNat < 96 then vals.foldl (fun g x => landReg g f x.1 x.2) g
    else match vals.find? (fun x => some x.1 == sLane) with
      | some x => landReg g f 0 x.2
      | none => g

/-- Note poisoned data for the header that waits on the flag (R302, R387). -/
def pendPoison (g : Group) (f : Flight) (lanes : LaneMask) : Group :=
  match f.flag with
  | some n => if lanes = 0 then g else { g with pend := g.pend ++ [⟨.poison, n, f.quads, lanes⟩] }
  | none => g

/-- An operation completes: its flight ends and its flag falls (R60). -/
def complete (s : State) (id : Nat) : State :=
  match aget? s.flights id with
  | none => s
  | some f => clearFlag (s.dropFlight id) f.gid f.flag

/-- Land the whole result of an operation computed at issue, and complete it. -/
def landAll (s : State) (id : Nat) : State :=
  match aget? s.flights id with
  | none => s
  | some f =>
    complete (s.updGroup f.gid (fun g =>
      f.preds.foldl (fun g x => landPred g f x.1 x.2) (landVals g f f.sLane f.vals))) id

/-- Extend a loaded value (R180). -/
def extend (f : Flight) (p : Piece) (v : Nat) : Nat := if f.sext then wrapN 32 (sgn (8 * p.w) v) else v

/-- The line request a piece belongs to: its line, or its scratchpad's team. -/
def Piece.request (p : Piece) : Nat :=
  match p.pa with
  | .glob a => lineOf a
  | .pad t _ => t

/-- Land the lanes of one line request of a load (R61, R87); the last one completes the load, and until then its writes stay
pending (R61). -/
def landLine (s : State) (id line : Nat) : State :=
  match aget? s.flights id with
  | none => s
  | some f =>
    let now := f.pieces.filter (fun p => p.request == line)
    let rest := f.pieces.filter (fun p => p.request != line)
    let t := s.team f.team
    let pres := presentLanes (s.launch t.launch) (s.group f.gid).idx
    -- a helper lane's load that would raise POISON returns zero (R13)
    let vals := now.map (fun p => (p.lane, if p.bad && !pres.getLsbD p.lane then 0 else extend f p (p.got.getD 0)))
    let bad := maskOf ((now.filter (fun p => p.bad && pres.getLsbD p.lane)).map (fun p => p.lane))
    let s := s.updGroup f.gid (fun g => pendPoison (landVals g f f.sLane vals) f bad)
    if rest.isEmpty then landAll s id
    else s.setFlight id { f with pieces := rest }

/-- Earlier cluster loads of a group from a scratchpad are performed before a later one (R120). -/
def settlePeer (s : State) (f : Flight) (id line : Nat) : State :=
  if f.pieces.any (fun p => match p.pa with | .pad t _ => t == line | .glob _ => false) then
    s.flights.foldl (fun s x =>
      if x.1 < id && x.2.gid = f.gid && x.2.kind == .load then
        performLoad s x.1 (fun p => match p.pa with | .pad t _ => t == line | .glob _ => false)
      else s) s
  else s

/-- LOAD_DATA_RETURN: a line request's data returns and its lanes' destinations are written; a result computed at issue
is written (R61). -/
def execLoadDataReturn (op line : Nat) (s : State) : Host.Outcome State Fault Refusal :=
  match aget? s.flights op with
  | none => .next s
  | some f =>
    match f.kind with
    | .load =>
      if f.pieces.any (fun p => p.request == line) then
        .next (landLine (performLoad (settlePeer s f op line) op (fun p => p.request == line)) op line)
      else .next s
    | .result | .holding => .next (landAll s op)
    | _ => .next s

/-! ## Loads -/

/-- Bytes read at a region's place: its leaf or shadow entry, one step at the apex unit (R124, R207). -/
def regionRead (s : State) (pa w : Nat) : Nat := ofBytes (readBytes s.mem pa w)

/-- Poison at a region's place: in its sector, or of a shadow entry in its region (R380). -/
def regionBad (s : State) (pa : Nat) : Bool :=
  s.isPoisoned pa || (match regionHit s pa with | .shadow _ r => r.poisoned | _ => false)

/-- A piece of a load; a region's and a scratchpad's own row is read at issue, in group order (R119, R124). -/
def loadPiece (s : State) (w : Nat) (early : Bool) (ea : Nat → Int) (x : Nat × Place × Bool × Nat) : Piece :=
  let p := pieceOf w ea x 0 0
  match x.2.1 with
  | .glob pa => if noRegion (regionHit s pa) then p else { p with got := some (regionRead s pa w), bad := regionBad s pa }
  | .pad t off =>
    if early then { p with got := some (ofBytes (readBytes (s.team t).pad off w)), bad := (s.team t).padBad off w } else p

/-- The tree of a region slot is still to be built (R211). -/
def building (s : State) (slot : Nat) : Bool :=
  s.flights.any (fun f => f.2.kind == .build && f.2.args.head? == some slot)

/-- A step of the group on a region is in flight, or the region is still to be built: a later access to the region follows
it (R124, R211). -/
def slotBusyFor (s : State) (gid slot : Nat) : Bool :=
  building s slot || (flightsOf s gid).any (fun f => match f.2.kind with
    | .leaf r _ _ => r == slot | .query _ _ => f.2.args.getD 1 0 == slot | _ => false)

/-- An access to a place of a region must wait for other steps on the region. -/
def regionBusy (s : State) (gid : Nat) (p : Place) : Bool :=
  match p with
  | .glob pa =>
    match regionHit s pa with
    | .leaf slot _ | .shadow slot _ => slotBusyFor s gid slot
    | .none => false
  | .pad _ _ => false

/-- A place of a scratchpad or a region: what an acquire or a release orders with earlier accesses of those kinds (R120,
R124). -/
def Place.apart (p : Place) (s : State) : Bool :=
  match p with
  | .glob pa => !noRegion (regionHit s pa)
  | .pad _ _ => true

/-- The accesses must wait for earlier ones of the group (R107, R115, R119 to R121, R124). -/
def mustHold (e : Env) (r : Sorted) : Bool :=
  e.accessHeld || r.good.any (fun x => lineBusy e.s e.gid x.2.1 || regionBusy e.s e.gid x.2.1 ||
    (x.2.1.apart e.s && syncOpen e.s e.gid))

/-- The writes must wait: as any access, and for the group's reads that have not taken their values (R109). -/
def writesHold (e : Env) (r : Sorted) : Bool := mustHold e r || readsOpen e.s e.gid e.s.nextId

/-- Lanes of an S destination's supplier among the passing ones. -/
def supplier (e : Env) (ls : List Nat) : List Nat := (ls.filter e.pres.getLsbD).take 1

/-- A load of a type: pieces in flight for the passing lanes, zero for failing helper lanes (R13), the trap of the failing
ones (R85, R181). -/
def loadWith (i : Instr) (c : Ctl) (ty : Ty) (d : RegCode) (h : Hint) (early : Bool)
    (ea : Env → Nat → Int) (check : Env → Nat → Int → Target) (s : State) : Host.Outcome State Fault Refusal :=
  instr i s (fun e lanes =>
    let w := ty.width / 8
    let r := sortLanes e lanes (ea e) (check e)
    if mustHold e r || (r.assigns e && e.flagFull c) then .next e.s
    else
      let globals := r.good.filterMap (fun x => match x.2.1 with
        | .glob pa => some ((ea e x.1).toNat, pa, true)
        | .pad _ _ => none)
      let s := touchTlb (countHints e.s e globals) e.core e.ctx (globals.map (fun x => x.1))
      let f : Flight := { e.flight (if r.good.isEmpty then .result else .load) c with
        pieces := r.good.map (loadPiece s w early (ea e))
        dst := some d, width := max 4 w, sext := ty == .i8 || ty == .i16
        vals := r.dead.map (fun l => (l, 0))
        lanes := maskOf (r.good.map (fun x => x.1) ++ r.dead)
        args := supplier e (r.good.map (fun x => x.1))
        flag := if r.assigns e then e.is.flag c.fs else none
        hint := h }
      let s := if f.lanes = 0 && !r.bad.isEmpty then s else launchFlight s f
      .next (retireOr e s r.bad))

/-- LD (R181). -/
def execLd (c : Ctl) (ty : Ty) (h : Hint) (d a : RegCode) (off : BitVec 32) (s : State) :
    Host.Outcome State Fault Refusal :=
  loadWith (.ld c ty h d a off) c ty d h false (fun e l => e.globalEA a off l)
    (fun e l ea => checkGlobal e.s e.core e.ctx e.inh .read (loadRegion ty) l ea (ty.width / 8)) s

/-- LDS (R181). -/
def execLds (c : Ctl) (ty : Ty) (d a : RegCode) (off : BitVec 32) (s : State) : Host.Outcome State Fault Refusal :=
  loadWith (.lds c ty d a off) c ty d .ca true (fun e l => e.rowEA a off (ty.width / 8) l)
    (fun e _ ea => checkPad e.s e.g.team ea (ty.width / 8)) s

/-- LDC (R181). -/
def execLdc (c : Ctl) (ty : Ty) (d a : RegCode) (slot : BitVec 2) (off : BitVec 32) (s : State) :
    Host.Outcome State Fault Refusal :=
  loadWith (.ldc c ty d a slot off) c ty d .ca false (fun e l => e.rowEA a off (ty.width / 8) l)
    (fun e _ ea => checkPeer e.s e slot.toNat ea (ty.width / 8)) s

/-! ## Stores -/

/-- The store-origin table has no free entry (R310). -/
def originsFull (s : State) (core : Nat) : Bool := decide (256 ≤ (s.core core).origins.length)

/-- Take the lowest free entry of the store-origin table for `n` writes (R310). -/
def takeOrigin (e : Env) (s : State) (n : Nat) : Nat × State :=
  let k := s.core e.core
  let id := ((List.range 256).find? (fun i => (aget? k.origins i).isNone)).getD 0
  let o : Origin := ⟨e.is.pc, e.g.idx, e.t.teamid, e.l.id, e.ctx, true, n⟩
  (id, s.setCore e.core { k with origins := aset k.origins id o })

/-- One write of an entry is acknowledged; the last frees it (R310). -/
def ackOrigin (s : State) (core : Nat) (origin : Option Nat) : State :=
  match origin with
  | none => s
  | some id =>
    let k := s.core core
    match aget? k.origins id with
    | none => s
    | some o =>
      let os := if o.count ≤ 1 then adel k.origins id else aset k.origins id { o with count := o.count - 1 }
      s.setCore core { k with origins := os }

/-- An imprecise store fault: context-fatal, recorded from the store-origin entry (R311). -/
def impreciseFault (s : State) (core : Nat) (origin : Option Nat) (ctx : Nat) (c : Cause) (addr : Nat) : State :=
  let k := s.core core
  match origin.bind (aget? k.origins) with
  | some o => contextFatal s o.ctx
      { cause := c.code, imprecise := true, exited := !o.live, launchid := o.launchid.toNat, teamid := o.teamid,
        groupid := o.groupid, addr, core, inc := k.incarnation, pc := o.pc }
  | none => contextFatal s ctx { cause := c.code, imprecise := true, addr, core, inc := k.incarnation }

/-- Put several flights of one instruction under one store-origin entry (R310). -/
def launchWrites (e : Env) (s : State) (fs : List Flight) : State :=
  if fs.isEmpty then s
  else
    let (id, s) := takeOrigin e s fs.length
    fs.foldl (fun s f => launchFlight s { f with origin := some id }) s

/-- A store's or RED's pieces on declared regions, one operation per region (R208, R209). -/
def leafFlights (e : Env) (c : Ctl) (red : Bool) (ty : Ty) (ps : List Piece) : List Flight :=
  let slotOf := fun (p : Piece) => match p.pa with
    | .glob pa => (match regionHit e.s pa with | .leaf slot _ => some slot | _ => none)
    | .pad _ _ => none
  (distinct (ps.filterMap slotOf)).map (fun slot =>
    { e.flight (.leaf slot red ty) c with flag := none, pieces := ps.filter (fun p => slotOf p == some slot) })

/-- A region received a leaf store or RED from the launch (R281). -/
def noteWritten (s : State) (launch : Nat) (slots : List Nat) : State :=
  let l := s.launch launch
  if slots.isEmpty then s else s.setLaunch launch { l with written := distinct (l.written ++ slots) }

/-- A global piece that writes through: a .RO or .NA store, an AGG page's, host or peer memory's (R91, R325, R376). -/
def isThrough (h : Hint) (agg : Bool) (pa : Nat) : Bool := h == .ro || h == .na || agg || !isDevice pa

/-- The spans of home memory among some written places, and those of a scratchpad. -/
def homeSpans (xs : List (Place × Nat)) : List (Nat × Nat) :=
  xs.filterMap (fun x => match x.1 with | .glob a => some (a, x.2) | .pad _ _ => none)

def padSpans (team : Nat) (xs : List (Place × Nat)) : List (Nat × Nat) :=
  xs.filterMap (fun x => match x.1 with | .pad t o => if t = team then some (o, x.2) else none | .glob _ => none)

/-- One write covered some places: the sectors it covers whole are poisoned no more, in a core's own copies too (R380;
log 81). -/
def coverPlaces (s : State) (core : Nat) (xs : List (Place × Nat)) : State :=
  let s := (s.coverHome (homeSpans xs)).coverL1 core (homeSpans xs)
  (distinct (xs.filterMap (fun x => match x.1 with | .pad t _ => some t | .glob _ => none))).foldl (fun s t =>
    match aget? s.teams t with
    | some x => s.setTeam t (x.coverPad (padSpans t xs))
    | none => s) s

/-- ST (R181): into L1, written through, or a region step. -/
def execSt (c : Ctl) (ty : Ty) (h : Hint) (a : RegCode) (b : SrcB) (off : BitVec 32) (s : State) :
    Host.Outcome State Fault Refusal :=
  instr (.st c ty h a b off) s (fun e lanes =>
    let w := ty.width / 8
    let ea := fun (l : Nat) => e.globalEA a off l
    let r := sortLanes e (lanes &&& e.pres) ea (fun l x => checkGlobal e.s e.core e.ctx e.inh .write (storeRegion ty) l x w)
    let piece := fun (x : Nat × Place × Bool × Nat) => pieceOf w ea x (readB e.g x.1 b ty.width % 2 ^ (8 * w)) 0
    let addr := fun (x : Nat × Place × Bool × Nat) => match x.2.1 with | .glob pa => pa | .pad _ o => o
    let region := fun x => !noRegion (regionHit e.s (addr x))
    let leaves := leafFlights e c false ty ((r.good.filter region).map piece)
    let thru := r.good.filter (fun x => !region x && isThrough h x.2.2.1 (addr x))
    let plain := r.good.filter (fun x => !region x && !isThrough h x.2.2.1 (addr x))
    let fs := leaves ++ (if thru.isEmpty then [] else
      [{ e.flight .through c with flag := none, pieces := thru.map piece }])
    if writesHold e r || (!fs.isEmpty && originsFull e.s e.core) then .next e.s
    else
      let s := touchTlb (settle e.s e.gid) e.core e.ctx (r.good.map (fun x => (ea x.1).toNat))
      let s := plain.foldl (fun s x =>
        let va := (ea x.1).toNat
        keepLine (l1Store s e.core (addr x) (toBytes (piece x).b w) (e.l.hintFor va h == .st)) e.core (lineOf (addr x))
          (e.l.keeps va)) s
      let s := s.coverL1 e.core (plain.map (fun x => (addr x, w)))
      let s := launchWrites e s fs
      let s := noteWritten s e.t.launch (leaves.filterMap (fun f => match f.kind with | .leaf n _ _ => some n | _ => none))
      .next (retireOr e s r.bad))

/-- STS: performed at the scratchpad, in group order (R119, R181). -/
def execSts (c : Ctl) (ty : Ty) (a : RegCode) (b : SrcB) (off : BitVec 32) (s : State) :
    Host.Outcome State Fault Refusal :=
  instr (.sts c ty a b off) s (fun e lanes =>
    let w := ty.width / 8
    let r := sortLanes e (lanes &&& e.pres) (fun l => e.rowEA a off w l) (fun _ ea => checkPad e.s e.g.team ea w)
    if writesHold e r then .next e.s
    else
      let s := settle e.s e.gid
      let t := r.good.foldl (fun t x => match x.2.1 with
        | .pad _ o => t.padWrite o (toBytes (readB e.g x.1 b ty.width) w)
        | .glob _ => t) (s.team e.g.team)
      let t := t.coverPad (padSpans e.g.team (r.good.map (fun x => (x.2.1, w))))
      .next (retireOr e (s.setTeam e.g.team t) r.bad))

/-- STC: a write in flight to a peer's scratchpad (R120, R181). -/
def execStc (c : Ctl) (ty : Ty) (a : RegCode) (b : SrcB) (slot : BitVec 2) (off : BitVec 32) (s : State) :
    Host.Outcome State Fault Refusal :=
  instr (.stc c ty a b slot off) s (fun e lanes =>
    let w := ty.width / 8
    let r := sortLanes e (lanes &&& e.pres) (fun l => e.rowEA a off w l) (fun _ ea => checkPeer e.s e slot.toNat ea w)
    if writesHold e r then .next e.s
    else
      let s := settle e.s e.gid
      let ps := r.good.map (fun x => pieceOf w (fun _ => 0) x (readB e.g x.1 b ty.width % 2 ^ (8 * w)) 0)
      let s := if ps.isEmpty then s else launchFlight s { e.flight .through c with flag := none, pieces := ps }
      .next (retireOr e s r.bad))

/-- STORE_ACKNOWLEDGEMENT: a write-through or cluster store is performed at its home or scratchpad and acknowledged
(R91, R93, R120); what a shootdown refused of it writes nothing (R311, R328). -/
def execStoreAcknowledgement (op : Nat) (s : State) : Host.Outcome State Fault Refusal :=
  match aget? s.flights op with
  | none => .next s
  | some f =>
    if f.kind == .through && f.livePieces.any (fun p => match p.pa with | .glob pa => s.linkLost pa | .pad _ _ => false) then
      -- the link is down: an imprecise store fault with cause POISON (R377)
      .next (impreciseFault s f.core f.origin f.ctx .poison ((f.livePieces.map (fun p => p.va)).headD 0))
    else if f.kind == .through && !f.stuck then
      let s := f.livePieces.foldl (fun s p => match p.pa with
        | .glob pa => racePath (throughStore s f.core pa (toBytes p.b p.w)) pa
        | .pad t o => s.writePad t o (toBytes p.b p.w)) s
      let s := coverPlaces s f.core (f.livePieces.map (fun p => (p.pa, p.w)))
      if f.refused then .next (s.setFlight op f.refusedRest)
      else .next (ackOrigin (s.dropFlight op) f.core f.origin)
    else .next s

/-! ## PREF -/

/-- PREF: fetches into L1 the sector of each lane's byte; nothing with .NA, on a region or in host memory (R182, R207, R376);
on a region it is no access of a hinted range, with .NA or on an AGG page an access without a miss, and in host memory one
that may miss (R95; log 86, the model's choice). -/
def execPref (c : Ctl) (h : Hint) (a : RegCode) (off : BitVec 32) (s : State) : Host.Outcome State Fault Refusal :=
  instr (.pref c h a off) s (fun e lanes =>
    let ea := fun (l : Nat) => e.globalEA a off l
    let r := sortLanes e lanes ea (fun l x => checkGlobal e.s e.core e.ctx e.inh .read (fun _ => true) l x 1)
    if e.accessHeld then .next e.s
    else
      let fetch := r.good.filterMap (fun x => match x.2.1 with
        | .glob pa => if noRegion (regionHit e.s pa) then some ((ea x.1).toNat, pa, x.2.2.1) else none
        | .pad _ _ => none)
      let takes := fun (x : Nat × Nat × Bool) => h != .na && !x.2.2
      let s := touchTlb (countHints e.s e (fetch.map (fun x => (x.1, x.2.1, takes x)))) e.core e.ctx
        (r.good.map (fun x => (ea x.1).toNat))
      let s := fetch.foldl (fun s x =>
        if takes x then
          keepLine (l1Load s e.core x.2.1 1 (e.l.hintFor x.1 h) false).2.2 e.core (lineOf x.2.1) (e.l.keeps x.1)
        else s) s
      .next (retireOr e s r.bad))

end Sys2Proof.Machine
end

