-- ==== Sys2Proof/Machine/Atomics.lean ====
section
/-!
DEFINITION. The Hallmark protocol (R112 to R117), ATOM, CAS, RED, ACQ, REL and FENCE (R183 to R189), and the events that
perform them.
-/
namespace Sys2Proof.Machine

/-! ## The Hallmark protocol -/

def State.hallmark (s : State) (line : Nat) : Hallmark := (aget? s.hallmarks line).getD {}
def State.setHallmark (s : State) (line : Nat) (h : Hallmark) : State := { s with hallmarks := aset s.hallmarks line h }

/-- An entry names its core's current incarnation. -/
def HmEntry.current (e : HmEntry) (s : State) : Bool := e.inc == (s.core e.core).incarnation

/-- An acquire by a core at a line's home is local (R115). -/
def acquireLocal (s : State) (c line : Nat) : Bool :=
  let h := s.hallmark line
  h.lv && h.lcore == c && h.linc == (s.core c).incarnation && h.pend.all (fun e => e.2.core == c)

/-- A core's R lines become invalid: a local acquire that names .RO (R115); .RO fills in flight are not installed
(R116). -/
def invalidateRO (s : State) (c : Nat) : State :=
  let k := s.core c
  let s := s.setCore c { k with l1 := k.l1.filter (fun e => e.2.state != .r) }
  { s with flights := s.flights.map (fun e =>
      if e.2.core = c && e.2.kind = .load && e.2.hint = .ro then (e.1, { e.2 with stale := true }) else e) }

/-- A core has self-invalidated in an acquire of the line (log 96). -/
def Hallmark.sync (h : Hallmark) (c : Nat) : Hallmark :=
  { h with synced := if h.synced.contains c then h.synced else insertBy id c h.synced }

/-- An acquire of a line by a core, but for its read: local, or remote with its pulls and self-invalidation; answers
whether a stale entry was removed (R115). A local acquire of a core that has not self-invalidated since another core's last
release evicts its clean lines, as it may at any time, so that what that release ordered is read (R90, R108; log 96). -/
def acquireAt (s : State) (c line : Nat) (ro : Bool) : Bool × State :=
  if acquireLocal s c line then
    (false,
      if (s.hallmark line).synced.contains c then if ro then invalidateRO s c else s
      else selfInvalidate (s.setHallmark line ((s.hallmark line).sync c)) c ro)
  else
    let h := s.hallmark line
    let lost := h.pend.any (fun e => !e.2.current s)
    let s' := h.pend.foldl (fun t e => if e.2.core != c && e.2.current s then pullLines t e.2.core e.2.e else t) s
    let h' := { h with pend := h.pend.filter (fun e => e.2.core == c && e.2.current s) }.sync c
    let s' := if (aget? s.hallmarks line).isSome then s'.setHallmark line h' else s'
    (lost, selfInvalidate s' c ro)

/-- Record a release in a Hallmark record (R114 step 4); every other core has then to self-invalidate anew (log 96). -/
def Hallmark.record (h : Hallmark) (c inc : Nat) (e : Word) : Hallmark :=
  let new : HmEntry := ⟨c, inc, e⟩
  let h := { h with lv := true, lcore := c, linc := inc, synced := h.synced.filter (fun x => x == c) }
  match h.pend.find? (fun x => x.2.core == c && x.2.inc == inc) with
  | some x => { h with pend := aset h.pend x.1 new }
  | none =>
    match h.pend.find? (fun x => x.2.core == c) with
    | some x => { h with pend := aset h.pend x.1 new }
    | none =>
      match (List.range 4).find? (fun i => (aget? h.pend i).isNone) with
      | some i => { h with pend := aset h.pend i new }
      | none => { h with pend := aset ((h.pend.filter (fun x => x.1 != 0)).map (fun x => (x.1 - 1, x.2))) 3 new }

/-- The record must first pull the core of PEND0 (R114 step 4): all four entries are valid and none names the core. -/
def Hallmark.fullFor (h : Hallmark) (c : Nat) : Bool :=
  h.pend.length == 4 && h.pend.all (fun x => x.2.core != c)

/-- Every valid entry of a line's record is pulled, and the record is dropped (R113). -/
def dropRecord (s : State) (line : Nat) : State :=
  let s := (s.hallmark line).pend.foldl (fun t e => pullLines t e.2.core e.2.e) s
  { s with hallmarks := adel s.hallmarks line }

/-- Lines a home slice holds: 512 KiB of 256 bytes (R3). -/
def sliceLines : Nat := 2048

/-- Lines with records of the home slice of a line. -/
def sliceRecords (s : State) (line : Nat) : List Nat :=
  (s.hallmarks.filter (fun e => homeSliceOf s (256 * e.1) == homeSliceOf s (256 * line))).map (fun e => e.1)

/-- Room for a record in a line's home slice: one that has no record while its slice is full of others evicts one of them,
which pulls its entries and drops it (R3, R113; log 12). -/
def roomForRecord (s : State) (line : Nat) : State :=
  if decide (s.hallmarks.length < sliceLines) || (aget? s.hallmarks line).isSome then s
  else
    let xs := sliceRecords s line
    if xs.length < sliceLines then s
    else match xs[Config.victim s.tick % xs.length]? with
      | some v => dropRecord s v
      | none => s

/-- Steps 2 to 4 of a global release by a core on a line, but for its write (R114); lines that would lag too far are written
back before the count advances (R112). The core of PEND0 is pulled whatever its incarnation (log 87). -/
def releaseAt (s : State) (c line : Nat) : State :=
  let e := (s.core c).release
  let s := writebackLagging s c (e + 1)
  let k := s.core c
  let s := s.setCore c { k with release := e + 1 }
  let s := roomForRecord (flushLine s c line) line
  let h := s.hallmark line
  let s := if h.fullFor c then
      match aget? h.pend 0 with
      | some x => pullLines s x.core x.e
      | none => s
    else s
  s.setHallmark line ((s.hallmark line).record c k.incarnation e)

/-- PULL: a core writes back the lines a release count covers and combines its update-only copies (R115, R118). -/
def execPullCore (core : Nat) (upTo : Word) (s : State) : Host.Outcome State Fault Refusal := .next (pullLines s core upTo)

/-- UPDATE_ONLY_RECALL: the home recalls and combines the update-only copies of a line (R118). -/
def execUpdateOnlyRecall (line : Nat) (s : State) : Host.Outcome State Fault Refusal := .next (recallCopies s line)

/-- L1_EVICTION: a line is written back and replaced (R90). -/
def execL1Eviction (core line : Nat) (s : State) : Host.Outcome State Fault Refusal := .next (flushLine s core line)

/-- HOME_EVICTION: every entry of the line's record is pulled, and the record is dropped (R113). -/
def execHomeEviction (line : Nat) (s : State) : Host.Outcome State Fault Refusal := .next (dropRecord s line)

/-! ## HMLOST (R115, R306) -/

/-- What an acquire keeps for its trap (R303): after the supplier lane, SETA and SETB of its clause, and whether it was
issued in a handler. -/
def Env.acqArgs (e : Env) (ls : List Nat) : List Nat := [(supplier e ls).headD 128, e.is.seta, e.is.setb, b2n e.inh]

/-- HMLOST of an acquire stays pending for its gang (R306; log 85). -/
def pendLost (s : State) (f : Flight) (lanes : LaneMask) : State :=
  if lanes = 0 then s
  else s.updGroup f.gid (fun g => { g with
    pend := g.pend ++ [⟨.hmlost, 12 + 16 * f.args.getD 1 15 + 256 * f.args.getD 2 15, f.quads, lanes⟩] })

/-- The trap after an acquire of a gang, at the instruction that follows it (R306). -/
def lostTrap (s : State) (f : Flight) (lanes : LaneMask) : State :=
  let g := s.group f.gid
  let port := g.slot % 2
  let args := fun (resume : VAddr) (rem : Nat) (hdr : Bool) (a b hoff : Nat) =>
    ({ core := g.core, port, gid := f.gid, gang := f.quads, cause := .hmlost, lanes,
       each := (lanesOf lanes).map (fun l => (l, Cause.hmlost, 0)), resume, rem, hdr, after := true, seta := a, setb := b,
       hoff, pc := f.pc } : TrapArgs)
  let fromQuad := fun (s : State) =>
    let x := (s.group f.gid).quad ((quadsOf f.quads).headD 0)
    if x.kind = .remainder then enterTrap s (args x.pc x.rem false x.seta x.setb x.hoff)
    else
      let h := peekWord s g.core f.ctx x.pc
      let n := match h with | some w => if 1 ≤ hdrCount w ∧ hdrCount w ≤ 24 then hdrCount w else 1 | none => 1
      enterTrap s (args (x.pc + 4) n true (f.args.getD 1 15) (f.args.getD 2 15) 0)
  match ((s.core g.core).port port).issue with
  | some is =>
    if is.gid = f.gid then
      if is.quads = f.quads then enterTrap s (args is.pc is.rem false is.seta is.setb is.hoff)
      else
        -- another gang of the group is mid-clause: it is held at its next instruction (R305)
        match ({ s with cur := (g.core, port) } : State).env? with
        | some e => fromQuad { (parkRemainder e s is.pc is.rem is.hoff is.only) with cur := s.cur }
        | none => fromQuad s
    else fromQuad s
  | none => fromQuad s

/-- HMLOST of an acquire that has completed, with what its gang has pending; it stays pending while the group is in a handler
that did not issue the acquire, and none is raised for a group that has ended (R306; log 85). -/
def raiseLost (s : State) (f : Flight) (lanes : LaneMask) : State :=
  if (aget? s.groups f.gid).isNone || (s.group f.gid).allEnded then s
  else if (s.group f.gid).frame.tstate.getLsbD 10 && f.args.getD 3 0 != 1 then pendLost s f lanes
  else
    let all := lanes ||| lostLanes (s.group f.gid) f.quads
    if all = 0 then s else lostTrap (dropLost s f.gid f.quads) f all

/-! ## Atomic steps -/

/-- What performing an operation's lanes gave: values read, lanes that lost a releaser, lanes that met poison. -/
structure Stepped where
  vals : List (Nat × Nat)
  lost : LaneMask
  bad : LaneMask
  s : State

/-- The new value of an atomic step: ATOM's operations, or CAS, which writes only on a match (R183, R184). -/
def atomicNew (op : Nat) (ty : Ty) (old b k : Nat) : Option Nat :=
  if op = 7 then (if old = b % 2 ^ ty.width then some (k % 2 ^ ty.width) else none)
  else some (combine op ty old (b % 2 ^ ty.width))

/-- One lane's atomic step at the home or at the scratchpad (R117, R183 to R185). -/
def atomicPiece (r : Stepped) (f : Flight) (op : Nat) (ty : Ty) (ord : Ord) (p : Piece) : Stepped :=
  match p.pa with
  | .pad t off =>
    let old := ofBytes (readBytes (r.s.team t).pad off p.w)
    let bad := (r.s.team t).padBad off p.w
    let s := match atomicNew op ty old p.b p.k with
      | some v => r.s.writePad t off (toBytes v p.w)
      | none => r.s
    { vals := r.vals ++ [(p.lane, old)], lost := r.lost, s,
      bad := if bad then r.bad ||| maskOf [p.lane] else r.bad }
  | .glob pa =>
    let line := lineOf pa
    let (lost, s) := if ord == .acq || ord == .ar then acquireAt r.s f.core line false else (false, r.s)
    let s := if ord == .rel || ord == .ar then releaseAt s f.core line else flushLine s f.core line
    let (bs, s) := homeRead s pa p.w
    let old := ofBytes bs
    let bad := s.isPoisoned pa
    let s := match atomicNew op ty old p.b p.k with
      | some v => homeWrite s pa (toBytes v p.w)
      | none => s
    { vals := r.vals ++ [(p.lane, old)], s,
      lost := if lost then r.lost ||| maskOf [p.lane] else r.lost
      bad := if bad then r.bad ||| maskOf [p.lane] else r.bad }

/-- The lanes' acquires of an ACQ, ascending (R115, R187). -/
def acquirePiece (r : Stepped) (f : Flight) (ro : Bool) (p : Piece) : Stepped :=
  match p.pa with
  | .pad t off =>
    { vals := r.vals ++ [(p.lane, ofBytes (readBytes (r.s.team t).pad off p.w))], lost := r.lost, s := r.s
      bad := if (r.s.team t).padBad off p.w then r.bad ||| maskOf [p.lane] else r.bad }
  | .glob pa =>
    let line := lineOf pa
    let (lost, s) := acquireAt r.s f.core line ro
    let s := flushLine s f.core line
    let (bs, s) := homeRead s pa p.w
    { vals := r.vals ++ [(p.lane, ofBytes bs)], s,
      lost := if lost then r.lost ||| maskOf [p.lane] else r.lost
      bad := if s.isPoisoned pa then r.bad ||| maskOf [p.lane] else r.bad }

/-- Perform an ATOM, a CAS or an ACQ: all its lanes, ascending. -/
def performAtomic (s : State) (f : Flight) : Stepped :=
  let r0 : Stepped := ⟨[], 0, 0, s⟩
  match f.kind with
  | .atomic op ty ord => f.pieces.foldl (fun r p => atomicPiece r f op ty ord p) r0
  | .acquire ro => f.pieces.foldl (fun r p => acquirePiece r f ro p) r0
  | _ => r0

/-- The flight of a performed operation: a result to be written. -/
def Flight.done (f : Flight) (vals : List (Nat × Nat)) : Flight :=
  { f with kind := .result, pieces := [], vals := f.vals ++ vals }

/-- Perform an operation in flight, write its results and complete it (R183, R187). -/
def finishAtomic (s : State) (id : Nat) (f : Flight) : State :=
  let r := performAtomic s f
  let s := ackOrigin r.s f.core f.origin
  let s := s.updGroup f.gid (fun g => pendPoison g f r.bad)
  let s := landAll (s.setFlight id (f.done r.vals)) id
  raiseLost s f r.lost

/-- A release of the group before a flight identifier is still to be performed (R105). -/
def releaseOpen (s : State) (gid upTo : Nat) : Bool :=
  (flightsOf s gid).any (fun e => e.1 < upTo &&
    (match e.2.kind with
     | .release | .arrive _ _ => true
     | .atomic _ _ o => o == .rel || o == .ar
     | _ => false))

/-- An operation's release waits for the accesses before it, its acquire for the releases before it (R105, R114, R185). -/
def orderHolds (s : State) (gid id : Nat) (rel acq : Bool) : Bool :=
  (rel && earlierOpen s gid id) || (acq && releaseOpen s gid id)

/-- The class of an ORD. -/
def Ord.rel : Ord → Bool
  | .rel | .ar => true
  | _ => false

def Ord.acq : Ord → Bool
  | .acq | .ar => true
  | _ => false

/-- The lanes of an atomic operation that a shootdown did not refuse take their steps; the operation never completes
(R328). -/
def stepLive (s : State) (id : Nat) (f : Flight) : State :=
  let r := performAtomic s { f with pieces := f.livePieces }
  r.s.setFlight id { f.refusedRest with vals := f.vals ++ r.vals }

/-- ATOMIC_STEP_AT_HOME (R183 to R185), after the group's earlier reads (R109); a refused write is a fault in transit instead
(R311). -/
def execAtomicStepAtHome (op : Nat) (s : State) : Host.Outcome State Fault Refusal :=
  match aget? s.flights op with
  | none => .next s
  | some f =>
    match f.kind with
    | .atomic _ _ o =>
      if f.stuck || readsOpen s f.gid op || orderHolds s f.gid op (Ord.rel o) (Ord.acq o) then .next s
      else .next (if f.refused then stepLive s op f else finishAtomic s op f)
    | _ => .next s

/-! ## ATOM, CAS and ACQ -/

/-- The effective address of a location operand: a V pair names global memory, an S register the scratchpad (R83). -/
def Env.locEA (e : Env) (a : RegCode) (off : BitVec 32) (l : Nat) : Int :=
  if a.toNat < 96 then e.globalEA a off l else e.uniformEA a off

/-- The checks of a location operand (R85). -/
def Env.locCheck (e : Env) (a : RegCode) (need : Need) (ok : RegionHit → Bool) (w lane : Nat) (ea : Int) : Target :=
  if a.toNat < 96 then checkGlobal e.s e.core e.ctx e.inh need ok lane ea w else checkPad e.s e.g.team ea w

/-- A value-returning synchronising operation: in flight for its present lanes, zero in helper lanes (R13); under DET its
step waits for its clock and is performed at issue (R281, R282). -/
def syncOp (i : Instr) (c : Ctl) (kind : FlightKind) (ty : Ty) (d a : RegCode) (off : BitVec 32) (need : Need)
    (rel acq writes : Bool) (hint : Hint) (b k : Env → Nat → Nat) (s : State) : Host.Outcome State Fault Refusal :=
  instr i s (fun e lanes =>
    let w := ty.width / 8
    let ea := e.locEA a off
    let r := sortLanes e (lanes &&& e.pres) ea (e.locCheck a need noRegion w)
    let helpers := lanesOf (lanes &&& ~~~ e.pres)
    let pieces := r.good.map (fun x => pieceOf w ea x (b e x.1) (k e x.1))
    let f : Flight := { e.flight (if r.good.isEmpty then .result else kind) c with
      pieces, dst := some d, width := max 4 w, vals := helpers.map (fun l => (l, 0))
      flag := if r.assigns e then e.is.flag c.fs else none
      lanes := maskOf (r.good.map (fun x => x.1) ++ helpers), args := e.acqArgs (r.good.map (fun x => x.1)), hint }
    let note := fun (s : State) => if (rel || acq) && !r.good.isEmpty then noteSync s e.gid else s
    -- HMLOST once the instruction has retired (R306)
    let finish := fun (s : State) (lost : LaneMask) =>
      if lost = 0 then retire e s
      else raiseAfter e (countRetired e (dropLost s e.gid e.is.quads)) .hmlost 0 lost
        ((lanesOf lost).map (fun l => (l, Cause.hmlost, 0)))
    let before := if e.inh then 0 else lostLanes e.g e.is.quads
    if mustHold e r || (r.assigns e && e.flagFull c) || (writes && !r.good.isEmpty && originsFull e.s e.core) then .next e.s
    else if e.l.det && !e.inh then
      minClock e
        (if readsOpen e.s e.gid e.s.nextId || orderHolds e.s e.gid e.s.nextId rel acq then .next e.s
         else
           let s := settle e.s e.gid
           let r' := performAtomic s f
           let s := if f.lanes = 0 && !r.bad.isEmpty then r'.s else launchFlight r'.s (f.done r'.vals)
           let s := note (s.updGroup e.gid (fun g => pendPoison g f r'.bad))
           if r.bad.isEmpty then .next (finish s (r'.lost ||| before))
           else .next (raiseBad e (pendLost s f r'.lost) r.bad))
    else
      let s := touchTlb (settle e.s e.gid) e.core e.ctx
        (if a.toNat < 96 then r.good.map (fun x => (ea x.1).toNat) else [])
      let s := if f.lanes = 0 && !r.bad.isEmpty then s
        else if r.good.isEmpty || !writes then launchFlight s f
        else launchWrites e s [f]
      let s := note s
      if !r.bad.isEmpty then .next (raiseBad e s r.bad)
      else .next (finish s (if r.good.isEmpty then before else 0)))

/-- ATOM of an operation (R183). -/
def atom (i : Instr) (c : Ctl) (op : Nat) (ty : Ty) (ord : Ord) (d a : RegCode) (b : SrcB) (s : State) :
    Host.Outcome State Fault Refusal :=
  syncOp i c (.atomic op ty ord) ty d a 0 .both (Ord.rel ord) (Ord.acq ord) true .ca
    (fun e l => readB e.g l b ty.width) (fun _ _ => 0) s

/-- ATOM.ADD (R183). -/
def execAtomAdd (c : Ctl) (ty : Ty) (ord : Ord) (d a : RegCode) (b : SrcB) (s : State) : Host.Outcome State Fault Refusal :=
  atom (.atomAdd c ty ord d a b) c 0 ty ord d a b s
/-- ATOM.MIN (R183). -/
def execAtomMin (c : Ctl) (ty : Ty) (ord : Ord) (d a : RegCode) (b : SrcB) (s : State) : Host.Outcome State Fault Refusal :=
  atom (.atomMin c ty ord d a b) c 1 ty ord d a b s
/-- ATOM.MAX (R183). -/
def execAtomMax (c : Ctl) (ty : Ty) (ord : Ord) (d a : RegCode) (b : SrcB) (s : State) : Host.Outcome State Fault Refusal :=
  atom (.atomMax c ty ord d a b) c 2 ty ord d a b s
/-- ATOM.AND (R183). -/
def execAtomAnd (c : Ctl) (ty : Ty) (ord : Ord) (d a : RegCode) (b : SrcB) (s : State) : Host.Outcome State Fault Refusal :=
  atom (.atomAnd c ty ord d a b) c 3 ty ord d a b s
/-- ATOM.OR (R183). -/
def execAtomOr (c : Ctl) (ty : Ty) (ord : Ord) (d a : RegCode) (b : SrcB) (s : State) : Host.Outcome State Fault Refusal :=
  atom (.atomOr c ty ord d a b) c 4 ty ord d a b s
/-- ATOM.XOR (R183). -/
def execAtomXor (c : Ctl) (ty : Ty) (ord : Ord) (d a : RegCode) (b : SrcB) (s : State) : Host.Outcome State Fault Refusal :=
  atom (.atomXor c ty ord d a b) c 5 ty ord d a b s
/-- ATOM.EXCH (R183). -/
def execAtomExch (c : Ctl) (ty : Ty) (ord : Ord) (d a : RegCode) (b : SrcB) (s : State) : Host.Outcome State Fault Refusal :=
  atom (.atomExch c ty ord d a b) c 6 ty ord d a b s

/-- CAS (R184). -/
def execCas (c : Ctl) (ty : Ty) (ord : Ord) (d a : RegCode) (b : SrcB) (k : RegCode) (s : State) :
    Host.Outcome State Fault Refusal :=
  syncOp (.cas c ty ord d a b k) c (.atomic 7 ty ord) ty d a 0 .both (Ord.rel ord) (Ord.acq ord) true .ca
    (fun e l => readB e.g l b ty.width) (fun e l => readSet e.g l k ty.width) s

/-- ACQ (R187). -/
def execAcq (c : Ctl) (ty : Ty) (h : Hint) (d a : RegCode) (off : BitVec 32) (s : State) :
    Host.Outcome State Fault Refusal :=
  syncOp (.acq c ty h d a off) c (.acquire (h == .ro)) ty d a off .acquire false true false h
    (fun _ _ => 0) (fun _ _ => 0) s

/-! ## RED (R118, R186) -/

/-- RED forms a region leaf takes (R207): ADD at the leaf's type, .I64 on FX64 leaves. -/
def redRegion (op : Nat) (ty : Ty) : RegionHit → Bool
  | .none => true
  | .leaf _ r => op == 0 &&
      ((BitVec.ofNat 5 r.attr.toNat == Ty.code ty && (ty == .i32 || ty == .n32 || ty == .i64 || ty == .f32)) ||
       (ty == .i64 && BitVec.ofNat 5 r.attr.toNat == Ty.code .fx64))
  | .shadow _ _ => false

/-- RED of an operation: gathered into the core's update-only copy, or combined at the home on an AGG page, which no L1
holds (R325); applied at the scratchpad, or a region step. -/
def red (i : Instr) (c : Ctl) (op : Nat) (ty : Ty) (a : RegCode) (b : SrcB) (off : BitVec 32) (s : State) :
    Host.Outcome State Fault Refusal :=
  instr i s (fun e lanes =>
    let w := ty.width / 8
    let ea := e.locEA a off
    let r := sortLanes e (lanes &&& e.pres) ea (e.locCheck a .localWrite (redRegion op ty) w)
    let val := fun (l : Nat) => readB e.g l b ty.width % 2 ^ ty.width
    let inRegion := fun (x : Nat × Place × Bool × Nat) => match x.2.1 with
      | .glob pa => !noRegion (regionHit e.s pa)
      | .pad _ _ => false
    let leaves := leafFlights e c true ty ((r.good.filter inRegion).map (fun x => pieceOf w ea x (val x.1) 0))
    if writesHold e r || (!leaves.isEmpty && originsFull e.s e.core) then .next e.s
    else
      let s := touchTlb (settle e.s e.gid) e.core e.ctx
        (if a.toNat < 96 then r.good.map (fun x => (ea x.1).toNat) else [])
      let s := r.good.foldl (fun (s : State) (x : Nat × Place × Bool × Nat) =>
        if inRegion x then s
        else match x.2.1 with
          | .glob pa =>
            if x.2.2.1 then redHome s e.core pa ⟨op, ty⟩ (val x.1)
            else keepLine (redGather s e.core pa ⟨op, ty⟩ (val x.1)) e.core (lineOf pa) (e.l.keeps (ea x.1).toNat)
          | .pad t o =>
            let old := ofBytes (readBytes (s.team t).pad o w)
            s.writePad t o (toBytes (combine op ty old (val x.1)) w)) s
      let s := launchWrites e s leaves
      let s := noteWritten s e.t.launch (leaves.filterMap (fun f => match f.kind with | .leaf n _ _ => some n | _ => none))
      .next (retireOr e s r.bad))

/-- RED.ADD (R186). -/
def execRedAdd (c : Ctl) (ty : Ty) (a : RegCode) (b : SrcB) (off : BitVec 32) (s : State) : Host.Outcome State Fault Refusal :=
  red (.redAdd c ty a b off) c 0 ty a b off s
/-- RED.MIN (R186). -/
def execRedMin (c : Ctl) (ty : Ty) (a : RegCode) (b : SrcB) (off : BitVec 32) (s : State) : Host.Outcome State Fault Refusal :=
  red (.redMin c ty a b off) c 1 ty a b off s
/-- RED.MAX (R186). -/
def execRedMax (c : Ctl) (ty : Ty) (a : RegCode) (b : SrcB) (off : BitVec 32) (s : State) : Host.Outcome State Fault Refusal :=
  red (.redMax c ty a b off) c 2 ty a b off s
/-- RED.AND (R186). -/
def execRedAnd (c : Ctl) (ty : Ty) (a : RegCode) (b : SrcB) (off : BitVec 32) (s : State) : Host.Outcome State Fault Refusal :=
  red (.redAnd c ty a b off) c 3 ty a b off s
/-- RED.OR (R186). -/
def execRedOr (c : Ctl) (ty : Ty) (a : RegCode) (b : SrcB) (off : BitVec 32) (s : State) : Host.Outcome State Fault Refusal :=
  red (.redOr c ty a b off) c 4 ty a b off s
/-- RED.XOR (R186). -/
def execRedXor (c : Ctl) (ty : Ty) (a : RegCode) (b : SrcB) (off : BitVec 32) (s : State) : Host.Outcome State Fault Refusal :=
  red (.redXor c ty a b off) c 5 ty a b off s

/-! ## REL and FENCE -/

/-- REL: a release in flight for the present lanes (R188). -/
def execRel (c : Ctl) (ty : Ty) (a : RegCode) (b : SrcB) (off : BitVec 32) (s : State) :
    Host.Outcome State Fault Refusal :=
  instr (.rel c ty a b off) s (fun e lanes =>
    let w := ty.width / 8
    let ea := e.locEA a off
    let r := sortLanes e (lanes &&& e.pres) ea (e.locCheck a .localWrite noRegion w)
    if mustHold e r || (!r.good.isEmpty && originsFull e.s e.core) then .next e.s
    else
      let s := touchTlb (settle e.s e.gid) e.core e.ctx
        (if a.toNat < 96 then r.good.map (fun x => (ea x.1).toNat) else [])
      let f : Flight := { e.flight .release c with
        flag := none
        pieces := r.good.map (fun x => pieceOf w ea x (readB e.g x.1 b ty.width % 2 ^ (8 * w)) 0) }
      let s := if r.good.isEmpty then s else noteSync (launchWrites e s [f]) e.gid
      .next (retireOr e s r.bad))

/-- The writes of a release, lane by lane (R114, R188). -/
def releasePieces (s : State) (f : Flight) : State :=
  f.pieces.foldl (fun s p => match p.pa with
    | .glob pa => homeWrite (releaseAt s f.core (lineOf pa)) pa (toBytes p.b p.w)
    | .pad t o => s.writePad t o (toBytes p.b p.w)) s

/-- FENCE: later accesses and engine commands of the group wait for every earlier one (R121, R189). -/
def execFence (s : State) : Host.Outcome State Fault Refusal :=
  instr .fence s (fun e _ =>
    let g := e.s.group e.gid
    .next (retire e (e.s.setGroup e.gid { g with fence := e.s.nextId })))

end Sys2Proof.Machine
end

