-- ==== Sys2Proof/Machine/Barriers.lean ====
section
/-!
DEFINITION. Barrier objects and rings (R190 to R199): updates and completions with what they pass (R191, R272, R283,
R341), BINIT, ARRIVE, EXPECT, WAIT, RINIT, RGIVE, and the events that perform releases and acquires.
-/
namespace Sys2Proof.Machine

/-! ## Phases -/

/-- TRYCOMPLETE (R191). -/
def BarObj.tryComplete (o : BarObj) : BarObj :=
  if o.exp ≠ 0 ∧ o.arr = o.exp ∧ o.landed = o.bexp then
    { o with phase := (o.phase + 1) % 2 ^ 32, err := false, arr := 0, bexp := 0, landed := 0 }
  else o

/-- FORCE (R191). -/
def BarObj.force (o : BarObj) : BarObj :=
  { o with phase := (o.phase + 1) % 2 ^ 32, err := true, arr := 0, bexp := 0, landed := 0 }

/-- The completion that passed phase `p` was forced and none has followed (R196, R341). -/
def BarObj.forcedPast (o : BarObj) (p : Nat) : Bool := o.err && o.phase == (p + 1) % 2 ^ 32

/-- Cancel a launch whose dependence was passed by force (R341). -/
def cancelLaunch (s : State) (key : Nat) : State :=
  let l := s.launch key
  let s := { s with launches := adel s.launches key }
  ctxEvent (statusAdd s l.ctx 12 1) l.ctx 4 (l.id.toNat)

/-- The acquire that a launch makes on an object when its dependence passes: every pending releaser is pulled; each of its
teams begins with the self-invalidation (R115, R341). -/
def launchAcquire (s : State) (pa : Place) : State :=
  match pa with
  | .pad _ _ => s
  | .glob a =>
    let line := lineOf a
    let h := s.hallmark line
    let s' := h.pend.foldl (fun t e => if e.2.current s then pullLines t e.2.core e.2.e else t) s
    if h.pend.isEmpty then s else s'.setHallmark line { h with pend := [] }

/-- DEPENDENCE_PASS: a completion of an object passes the dependences that name it, or cancels their launches (R341). -/
def passDeps (s : State) (pa : Place) (o : BarObj) : State :=
  s.launches.foldl (fun s e =>
    let mine := fun (d : Nat × Word) => physOf s e.2.ctx (.glob d.1) == some pa && phasePassed o.phase d.2.toNat
    let hit := e.2.deps.filter mine
    if hit.isEmpty then s
    else if hit.any (fun d => o.forcedPast d.2.toNat) then cancelLaunch s e.1
    else (launchAcquire s pa).setLaunch e.1 { e.2 with deps := e.2.deps.filter (fun d => !mine d) }) s

/-- Every pending releaser of a global object's line is pulled, and stays on its record: a reader that observes a completion
of it reads what happens-before that completion (R115, R123). -/
def pullPending (s : State) (pa : Place) : State :=
  match pa with
  | .pad _ _ => s
  | .glob a =>
    (s.hallmark (lineOf a)).pend.foldl (fun t e => if e.2.current s then pullLines t e.2.core e.2.e else t) s

/-- A request waits for a completion that an object now shows. -/
def triggerHit (s : State) (pa : Place) (o : BarObj) (r : Request) : Bool :=
  match r.trigger with
  | some (p, ph) => r.seen.isNone && !r.passed && physOf s r.ctx p == some pa && phasePassed o.phase ph.toNat
  | none => false

/-- The Anvils observe the completion for the MMATs it passes (R123, R272). -/
def passTriggers (s : State) (pa : Place) (o : BarObj) : State :=
  let s := if s.clusters.any (fun e => e.2.table.any (triggerHit s pa o)) then pullPending s pa else s
  { s with clusters := s.clusters.map (fun e => (e.1, { e.2 with table := e.2.table.map (fun r =>
      match r.trigger with
      | some (_, ph) => if triggerHit s pa o r then { r with seen := some (o.forcedPast ph.toNat) } else r
      | none => r) })) }

/-- A completion that no team's arrivals made: by the THDROP of a team, or a rewrite by one, at its clock, with the team's
name for the object (R283). -/
structure Forced where
  team : Nat
  clk : DWord
  name : Place

/-- A completed phase's clock becomes the last one, and the next phase begins at 0; a forced completion or a rewrite
carries the clock of the team that made it (R283). -/
def shiftClocks (s : State) (pa : Place) (forced : Option Forced) : State :=
  { s with teams := s.teams.map (fun e =>
      let ctx := (s.launch e.2.launch).ctx
      let mine := fun (c : Place × DWord × DWord) => physOf s ctx c.1 == some pa
      let last := fun (k : DWord) => match forced with
        | none => k
        | some f => if f.team = e.1 then f.clk else 0
      let pclk := e.2.pclk.map (fun c => if mine c then (c.1, 0, last c.2.1) else c)
      (e.1, { e.2 with pclk := match forced with
        | some f => if f.team = e.1 && (s.launch e.2.launch).det && !pclk.any mine then pclk ++ [(f.name, 0, f.clk)] else pclk
        | none => pclk })) }

/-- Each team notes the completion of an object, with what its groups have retired by then (R21). -/
def notePhase (s : State) (pa : Place) : State :=
  { s with teams := s.teams.map (fun e =>
      let counts : AList Nat := (s.groups.filter (fun g => g.2.team == e.1)).map (fun g => (g.1, g.2.retired))
      (e.1, { e.2 with phases := (pa, s.tick, counts) :: e.2.phases.filter (fun x => x.1 != pa) })) }

/-- What follows a phase's completion (R21, R272, R283, R341). -/
def onPhase (s : State) (pa : Place) (o : BarObj) (forced : Option Forced) : State :=
  passTriggers (passDeps (notePhase (shiftClocks s pa forced) pa) pa o) pa o

/-- The 16 bytes of an object at its home or scratchpad. -/
def readObj (s : State) (pa : Place) : BarObj × State :=
  match pa with
  | .glob a => let (bs, s) := homeRead s a 16; (parseBar bs, s)
  | .pad t off => (parseBar (readBytes (s.team t).pad off 16), s)

/-- Write an object whole. -/
def writeObj (s : State) (pa : Place) (o : BarObj) : State :=
  match pa with
  | .glob a => homeWrite s a (barBytes o)
  | .pad t off => s.writePad t off (barBytes o)

/-- An update of an object with TRYCOMPLETE, in one step (R191). -/
def updateObj (s : State) (pa : Place) (f : BarObj → BarObj) : State :=
  let (o, s) := readObj s pa
  let o1 := f o
  let o2 := o1.tryComplete
  let s := writeObj s pa o2
  if o2.phase = o1.phase then s else onPhase s pa o2 none

/-- A core's engine has updated an object: at a global object of another core's last release LV clears, so that the next
acquire of it is remote (R122). -/
def dropLv (s : State) (core : Nat) (pa : Place) : State :=
  match pa with
  | .glob a =>
    let h := s.hallmark (lineOf a)
    if h.lv && h.lcore != core then s.setHallmark (lineOf a) { h with lv := false } else s
  | .pad _ _ => s

/-- FORCE on an object by a team's THDROP at its clock, under DET; what an engine of its core has landed is acquired with it,
as with a credit (R122, R191, R242, R283). -/
def forceObj (s : State) (core : Nat) (pa : Place) (by_ : Forced) : State :=
  let (o, s) := readObj s pa
  let o := o.force
  dropLv (onPhase (writeObj s pa o) pa o (some by_)) core pa

/-- A rewrite of an object by a team's BINIT or RINIT at its clock, which completes its phase (R191, R193, R198, R283). -/
def rewriteObj (s : State) (pa : Place) (o : BarObj) (by_ : Forced) : State :=
  onPhase (writeObj s pa o) pa o (some by_)

/-- The value BINIT writes (R193). -/
def freshBar (b : Nat) : BarObj := ⟨0, if 1 ≤ b ∧ b ≤ 32767 then b else 0, false, 0, 0, 0⟩

/-! ## The object operand -/

/-- The first failing check of R85 on a span, ALIGN against its own alignment alone (R386): its cause and address. -/
def checkSpan (s : State) (core ctx : Nat) (inh : Bool) (need : Need) (ok : RegionHit → Bool) (align : Nat) (va n : Nat) :
    Option (Cause × Nat) :=
  if 2 ^ 49 < va + n then some (.addr, va)
  else if va % align ≠ 0 then some (.align, va)
  else
    let pts := if n = 0 then [] else
      va :: ((List.range (n / 64 + 1)).map (fun i => va / 64 * 64 + 64 * (i + 1))).filter (fun a => decide (a < va + n))
    let bad := pts.filterMap (fun a => match mapAddr s core ctx inh need a with
      | .bad c => some (c, a)
      | .ok pa _ => if ok (regionHit s pa) then none else some (.prot, a))
    match bad.find? (fun b => b.1 == .poison) with
    | some b => some b
    | none => match bad.find? (fun b => b.1 == .xlate) with
      | some b => some b
      | none => bad.head?

/-- The same of a team's scratchpad (R85, R220). -/
def checkPadSpan (s : State) (team align off n : Nat) : Option (Cause × Nat) :=
  let t := s.team team
  if (s.launch t.launch).padBytes < off + n then some (.addr, off)
  else if off % align ≠ 0 then some (.align, off)
  else if t.claims off n then some (.prot, off)
  else none

/-- The place a distance on. -/
def Place.plus (p : Place) (d : Nat) : Place :=
  match p with
  | .glob va => .glob (va + d)
  | .pad t off => .pad t (off + d)

/-- The object an instruction names: an S pair's global address with GL, an S register's offset without (R178). -/
def Env.object (e : Env) (gl : Bool) (a : RegCode) : Place :=
  if gl then .glob (readSet e.g 0 a 64) else .pad e.g.team (readReg e.g 0 a.toNat).toNat

/-- The checks on an object or ring of `n` bytes (R179). -/
def Env.objCheck (e : Env) (p : Place) (n : Nat) : Option (Cause × Nat) :=
  match p with
  | .glob va => checkSpan e.s e.core e.ctx e.inh .both noRegion 16 va n
  | .pad t off => checkPadSpan e.s t 16 off n

/-- The physical place of a checked object. -/
def Env.phys (e : Env) (p : Place) : Place :=
  match p with
  | .glob va => (match mapAddr e.s e.core e.ctx e.inh .both va with | .ok pa _ => .glob pa | .bad _ => p)
  | .pad _ _ => p

/-- The physical place of a span's unit at a distance from its base. -/
def Env.unitAt (e : Env) (p : Place) (d : Nat) : Place := e.phys (p.plus d)

/-- The page size of an object's translation. -/
def Env.pageBits (e : Env) (p : Place) : Nat :=
  match p with
  | .glob va => (match translate e.s e.core e.ctx va with | .ok l => l.size | .bad _ => 0)
  | .pad _ _ => 0

/-- The virtual address of a place. -/
def Place.addr : Place → Nat
  | .glob va => va
  | .pad _ off => off

/-- The issuing core's dirty bytes of an object's line are written back and its copy invalidated (R192). -/
def ownLine (s : State) (core : Nat) (pa : Place) : State :=
  match pa with
  | .glob a => flushLine s core (lineOf a)
  | .pad _ _ => s

/-- A barrier instruction: nothing without an active present lane, the trap of its object's checks in the active present
lanes, a hold while earlier accesses must come first, else its own action for the lowest active present lane (R120, R179,
R192). -/
def barrier (i : Instr) (gl : Bool) (a : RegCode) (size : Env → Nat → Nat) (s : State)
    (k : Env → LaneMask → Nat → Place → Host.Outcome State Fault Refusal) : Host.Outcome State Fault Refusal :=
  instr i s (fun e lanes =>
    match lowestLane (lanes &&& e.pres) with
    | none => .next (retire e e.s)
    | some low =>
      let p := e.object gl a
      if e.accessHeld then .next e.s
      else match e.objCheck p (size e low) with
        | some (c, addr) =>
          .next (raiseBad e e.s ((lanesOf (lanes &&& e.pres)).map (fun l => (l, c, addr % 2 ^ 49))))
        | none =>
          if lineBusy e.s e.gid (e.phys p) || ((e.phys p).apart e.s && syncOpen e.s e.gid) then .next e.s else k e lanes low p)

/-- An arrival of a DET team's group raises the object's phase clock (R283). -/
def noteArrival (s : State) (team : Nat) (p : Place) (clk : DWord) : State :=
  let t := s.team team
  if (aget? s.teams team).isNone || !(s.launch t.launch).det then s
  else
    let mine := fun (c : Place × DWord × DWord) => samePlace s (s.launch t.launch).ctx c.1 p
    if t.pclk.any mine then
      s.setTeam team { t with pclk := t.pclk.map (fun c =>
        if mine c then (c.1, if c.2.1 < clk then clk else c.2.1, c.2.2) else c) }
    else s.setTeam team { t with pclk := t.pclk ++ [(p, clk, 0)] }

/-- A barrier instruction's own write waits for the group's reads that have not taken their values (R109). -/
def Env.afterReads (e : Env) (k : Host.Outcome State Fault Refusal) : Host.Outcome State Fault Refusal :=
  if readsOpen e.s e.gid e.s.nextId then .next e.s else k

/-- BINIT (R193). -/
def execBinit (c : Ctl) (gl : Bool) (a : RegCode) (b : SrcB) (s : State) : Host.Outcome State Fault Refusal :=
  barrier (.binit c gl a b) gl a (fun _ _ => 16) s (fun e _ low p => e.afterReads <|
    let pa := e.phys p
    let s := ownLine (settle e.s e.gid) e.core pa
    let o := freshBar (readB e.g low b 32 % 2 ^ 32)
    .next (retire e (rewriteObj (noteArrival s e.g.team p 0) pa o ⟨e.g.team, e.g.lclk, p⟩)))

/-- EXPECT (R194). -/
def execExpect (c : Ctl) (gl : Bool) (a : RegCode) (b : SrcB) (s : State) : Host.Outcome State Fault Refusal :=
  barrier (.expect c gl a b) gl a (fun _ _ => 16) s (fun e _ low p => e.afterReads <|
    let pa := e.phys p
    let s := ownLine (settle e.s e.gid) e.core pa
    .next (retire e (updateObj s pa (fun o => { o with bexp := (o.bexp + readB e.g low b 32) % 2 ^ 32 }))))

/-- An armed flag is set (R81). -/
def armedSet (sticky : Word) : Bool := (sticky &&& (sticky >>> 8) &&& 0x1F#32) != 0

/-- ARRIVE: a release of the present lanes' arrivals; SATURATE with an armed flag (R81, R195). -/
def execArrive (c : Ctl) (gl : Bool) (a : RegCode) (s : State) : Host.Outcome State Fault Refusal :=
  barrier (.arrive c gl a) gl a (fun _ _ => 16) s (fun e lanes _ p =>
    if armedSet e.g.sticky then .next (raiseAll e e.s .saturate (lanes &&& e.pres))
    else
      let n := (lanesOf (lanes &&& e.pres)).length
      let f : Flight := { e.flight (.arrive n e.g.lclk) c with
        flag := none
        pieces := [{ lane := 0, pa := e.phys p, w := 16, b := 0, k := 0, got := none, bad := false, va := p.addr,
                     pbits := e.pageBits p }] }
      .next (retire e (noteSync (launchFlight (settle e.s e.gid) f) e.gid)))

/-! ## WAIT -/

/-- Block the gang at its WAIT, as a remainder that begins with it (R20, R196). -/
def blockWait (e : Env) (s : State) (p : Place) (phase : Nat) : State :=
  let s := parkRemainder e s e.is.pc e.is.rem e.is.hoff e.is.only
  let g := s.group e.gid
  let s := s.setGroup e.gid { g with quads := g.quads.map (fun x =>
    if e.is.quads.getLsbD x.1 then (x.1, { x.2 with waiting := some ⟨p, BitVec.ofNat 32 phase⟩, stamp := none }) else x) }
  regangCheck s e.gid

/-- A WAIT observes an object's last completion: where it is the team's most recent one, the team's counts start from it
(R21). -/
def observePhase (s : State) (team : Nat) (pa : Place) : State :=
  let t := s.team team
  match t.phases.find? (fun x => x.1 == pa) with
  | some (_, tick, counts) =>
    if t.phaseAt < tick then
      let s := s.setTeam team { t with phaseAt := tick }
      { s with groups := s.groups.map (fun x =>
          if x.2.team = team then (x.1, { x.2 with base := (aget? counts x.1).getD 0 }) else x) }
    else s
  | none => s

/-- A WAIT whose phase has passed: the team's counts (R21), a DET group's clock (R283). -/
def passWait (e : Env) (s : State) (p pa : Place) : State :=
  let s := observePhase s e.g.team pa
  if e.l.det && !e.inh then
    let g := s.group e.gid
    let last := (phaseClocks s (s.team e.g.team) p).2
    s.setGroup e.gid { g with lclk := if g.lclk < last then last else g.lclk }
  else s

/-- WAIT: blocks until the phase has passed, then acquires: at a scratchpad object at once, after every earlier release of
the group (R105, R196). -/
def execWait (c : Ctl) (gl : Bool) (pd : PredCode) (a : RegCode) (b : SrcB) (s : State) :
    Host.Outcome State Fault Refusal :=
  barrier (.wait c gl pd a b) gl a (fun _ _ => 16) s (fun e lanes low p =>
    let pa := e.phys p
    let s := ownLine (settle e.s e.gid) e.core pa
    let (o, s) := readObj s pa
    let ph := readB e.g low b 32 % 2 ^ 32
    if phasePassed o.phase ph then
      let s := noteSync (passWait e s p pa) e.gid
      match pa with
      | .pad _ _ =>
        if releaseOpen e.s e.gid e.s.nextId then .next e.s
        else
        let s := overtake s e.gid (writtenKeys (regsOf (.wait c gl pd a b)) lanes e.pres)
        let ok := !o.forcedPast ph
        let g := (lanesOf lanes).foldl (fun g l => writePred g l pd ok) (s.group e.gid)
        .next (retire e (s.setGroup e.gid g))
      | .glob _ =>
        let f : Flight := { e.flight .waitAcquire c with
          flag := none, pdst := some pd, lanes := lanes, args := e.acqArgs (lanesOf (lanes &&& e.pres))
          pieces := [{ lane := low, pa, w := 16, b := ph, k := 0, got := none, bad := false, va := p.addr,
                       pbits := e.pageBits p }] }
        .next (retire e (launchFlight s f))
    else .next (blockWait e s p ph))

/-- The clock a blocked group of a DET team was counted with becomes its LCLK when it wakes, so that it never falls (R282,
R283; log 97). -/
def wakeClock (s : State) (gid : Nat) : State :=
  let g := s.group gid
  if (s.launch (s.team g.team).launch).det && g.blocked && !g.frame.tstate.getLsbD 10 then
    s.setGroup gid { g with lclk := BitVec.ofNat 64 (clockOf s g) }
  else s

/-- WAIT_WAKE: the phase a gang waits for has passed; its quads may issue again (R196). -/
def execWaitWake (gid quad : Nat) (s : State) : Host.Outcome State Fault Refusal :=
  let g := s.group gid
  match (g.quad quad).waiting with
  | none => .next s
  | some w =>
    match peekBar s (s.launch (s.team g.team).launch).ctx w.obj with
    | none => .next s
    | some o =>
      if stopped s (ctxOf s g) g then .next s
      else if phasePassed o.phase w.phase.toNat then
        let stamp := freshStamp s gid
        let s := wakeClock s gid
        .next (s.setGroup gid { s.group gid with quads := g.quads.map (fun x =>
          if x.2.waiting = some w && x.2.pc == (g.quad quad).pc then
            (x.1, { x.2 with waiting := none, stamp := if x.2.trapHeld then none else some stamp })
          else x) })
      else .next s

/-- The acquire of a WAIT.GL: its pulls and self-invalidation, then PHASE and ERR as it reads them (R115, R196). -/
def finishWait (s : State) (id : Nat) (f : Flight) : State :=
  match f.pieces with
  | p :: _ =>
    match p.pa with
    | .glob pa =>
      let (lost, s) := acquireAt s f.core (lineOf pa) false
      let s := flushLine s f.core (lineOf pa)
      let (o, s) := readObj s (.glob pa)
      let ok := !o.forcedPast p.b
      let s := landAll (s.setFlight id { f with kind := .result, preds := (lanesOf f.lanes).map (fun l => (l, ok)) }) id
      let t := s.team f.team
      let pres := presentLanes (s.launch t.launch) (s.group f.gid).idx
      raiseLost s f (if lost then f.lanes &&& pres else 0)
    | .pad _ _ => complete s id
  | [] => complete s id

/-- REMOTE_ACQUIRE: an acquire completes once every earlier release of its group has been performed; a local one pulls
nothing (R105, R115). -/
def execRemoteAcquire (op : Nat) (s : State) : Host.Outcome State Fault Refusal :=
  match aget? s.flights op with
  | none => .next s
  | some f =>
    if releaseOpen s f.gid op then .next s
    else match f.kind with
      | .acquire _ => .next (finishAtomic s op f)
      | .waitAcquire => .next (finishWait s op f)
      | _ => .next s

/-! ## Releases -/

/-- The arrival's update at its object (R195). -/
def performArrive (s : State) (f : Flight) (n : Nat) (clk : DWord) : State :=
  match f.pieces with
  | [] => s
  | p :: _ =>
    let s := match p.pa with
      | .glob pa => releaseAt s f.core (lineOf pa)
      | .pad _ _ => s
    let s := noteArrival s f.team (match p.pa with | .glob _ => .glob p.va | q => q) clk
    updateObj s p.pa (fun o => { o with arr := min (o.arr + n) 32767 })

/-- RELEASE_AT_HOME: once every access before it has been performed, a release's writes and Hallmark entries are recorded
(R114, R188, R195). -/
def execReleaseAtHome (op : Nat) (s : State) : Host.Outcome State Fault Refusal :=
  match aget? s.flights op with
  | none => .next s
  | some f =>
    if f.stuck || earlierOpen s f.gid op then .next s
    else match f.kind with
      | .release =>
        if f.refused then .next ((releasePieces s { f with pieces := f.livePieces }).setFlight op f.refusedRest)
        else .next (ackOrigin ((releasePieces s f).dropFlight op) f.core f.origin)
      | .arrive n clk => .next ((performArrive s f n clk).dropFlight op)
      | _ => .next s

/-! ## Rings -/

/-- Slots a RINIT writes: B when it is 1 to 1,024 (R198). -/
def ringSlots (b : Nat) : Nat := if 1 ≤ b ∧ b ≤ 1024 then b else 0

/-- The 16 bytes of a ring header (R197). -/
def ringBytes (nslot put give : Nat) : List Byte := toBytes (nslot + put * 2 ^ 64 + give * 2 ^ 96) 16

/-- Write 16 bytes at a place, at its home or scratchpad. -/
def writeUnit (s : State) (pa : Place) (bs : List Byte) : State :=
  match pa with
  | .glob a => homeWrite s a bs
  | .pad t off => s.writePad t off bs

/-- Read 16 bytes at a place. -/
def readUnit (s : State) (pa : Place) : Nat × State :=
  match pa with
  | .glob a => let (bs, s) := homeRead s a 16; (ofBytes bs, s)
  | .pad t off => (ofBytes (readBytes (s.team t).pad off 16), s)

/-- RINIT: the header, then each slot's barrier as BINIT would (R198). -/
def execRinit (c : Ctl) (gl : Bool) (a : RegCode) (b : SrcB) (k : RegCode) (s : State) :
    Host.Outcome State Fault Refusal :=
  barrier (.rinit c gl a b k) gl a (fun e low => 16 + 16 * ringSlots (readB e.g low b 32 % 2 ^ 32)) s (fun e _ low p =>
    let n := ringSlots (readB e.g low b 32 % 2 ^ 32)
    let slot := fun (i : Nat) => p.plus (16 + 16 * i)
    -- every slot's line is free of the group's earlier writes, as the header's is (R107)
    if (List.range n).any (fun i => lineBusy e.s e.gid (e.unitAt p (16 + 16 * i))) then .next e.s
    else e.afterReads <|
      let x := (readReg e.g low k.toNat).toNat
      let s := writeUnit (ownLine (settle e.s e.gid) e.core (e.phys p)) (e.phys p) (ringBytes n 0 0)
      let s := (List.range n).foldl (fun s i =>
        let pa := e.unitAt p (16 + 16 * i)
        rewriteObj (noteArrival (ownLine s e.core pa) e.g.team (slot i) 0) pa (freshBar x) ⟨e.g.team, e.g.lclk, slot i⟩) s
      .next (retire e s))

/-- RGIVE: after step 1 of R114, one permit returns when one is out (R199). -/
def execRgive (c : Ctl) (gl : Bool) (a : RegCode) (s : State) : Host.Outcome State Fault Refusal :=
  barrier (.rgive c gl a) gl a (fun _ _ => 16) s (fun e _ _ p =>
    let s := settle e.s e.gid
    if earlierOpen s e.gid s.nextId then .next e.s
    else
      let pa := e.phys p
      let (v, s) := readUnit (ownLine s e.core pa) pa
      let put := bits v 95 64
      let give := bits v 127 96
      if put = give then .next (retire e s)
      else .next (retire e (writeUnit s pa (toBytes (bits v 95 0 + (give + 1) % 2 ^ 32 * 2 ^ 96) 16))))

end Sys2Proof.Machine
end

