-- ==== Sys2Proof/Machine/Regions.lean ====
section
/-!
DEFINITION. Aggregate regions (R200 to R219): ADECL, AFREE, ASTAT, the range queries and descents, and the apex units'
steps.
-/
namespace Sys2Proof.Machine

/-- A declared region of a context by its base (R200). -/
def regionAt (s : State) (ctx va : Nat) : Option (Nat × Region) :=
  s.regions.find? (fun e => e.2.ctx = ctx && e.2.va = va)

/-- Set STICKY flags of a group that has not gone (R30). -/
def stickyGroup (s : State) (gid : Nat) (fl : Flags) : State := s.updGroup gid (fun g => stickyOr g fl)

/-- A variable-latency instruction without effect: its operation completes with nothing to write. -/
def Env.idle (e : Env) (c : Ctl) (s : State) : State := retire e (launchFlight s (e.flight .result c))

/-! ## Declaring a region -/

/-- The attribute word is malformed (R201). -/
def attrBad (attr : Word) : Bool :=
  let v := attr.toNat
  let lty := bits v 4 0
  bits v 23 12 != 0 || bits v 7 5 != 0 || decide (3 < bits v 11 8) ||
  !(lty == 3 || lty == 7 || lty == 4 || lty == 17 || lty == 26) ||
  (bits v 31 24 != 0 && !(lty == 17 || lty == 26))

/-- Bytes of a page that lie together: an interleaved page's lie so by 4 KiB units (R366). -/
def Leaf.unit (l : Leaf) : Nat := if l.kind = 0 then 4096 else 2 ^ l.size

/-- Split the virtual bytes from `off` on into runs that lie together, with each run's leaf. -/
def spansFrom (s : State) (core ctx va : Nat) : Nat → Nat → Nat → List (Span × Leaf)
  | 0, _, _ => []
  | fuel + 1, off, n =>
    if n ≤ off then []
    else
      match translate s core ctx (va + off) with
      | .bad _ => []
      | .ok l =>
        let len := min (l.unit - (va + off) % l.unit) (n - off)
        ((⟨off, (l.place s ctx (va + off)).getD 0, len⟩ : Span), l) :: spansFrom s core ctx va fuel (off + len) n

/-- Split a span of `n` virtual bytes into runs that lie together. -/
def spansOf (s : State) (core ctx va n : Nat) : List (Span × Leaf) := spansFrom s core ctx va (n / 4096 + 2) 0 n

/-- Two lists of spans share a byte. -/
def spansMeet (xs ys : List Span) : Bool :=
  xs.any (fun x => ys.any (fun y => decide (x.pa < y.pa + y.len ∧ y.pa < x.pa + x.len)))

/-- The lowest free slot of an apex unit within the partition's quota (R200). -/
def freeSlot (s : State) (part stack : Nat) : Option Nat :=
  let held := s.regions.filter (fun e => e.1 / 256 = stack && partOf e.2.ctx = part)
  if ((s.part part).rquota.getD stack 0) ≤ held.length then none
  else ((List.range 256).find? (fun i => (aget? s.regions (stack * 256 + i)).isNone)).map (fun i => stack * 256 + i)

/-- Write a predicate in the instruction's active lanes, by an operation that completes later and holds the group's later
accesses until then (R211, R213, R234). -/
def Env.predFlight (e : Env) (c : Ctl) (pd : PredCode) (lanes : LaneMask) (v : Bool) : Flight :=
  { e.flight .holding c with pdst := some pd, lanes := lanes, preds := (lanesOf lanes).map (fun l => (l, v)) }

/-- The first of two spans' failures in the order of R85; a walk that meets poison comes with the walks. -/
def firstOf (xs : List (Option (Cause × Nat))) : Option (Cause × Nat) :=
  let bad := xs.filterMap id
  let get := fun (c : Cause) => bad.find? (fun b => b.1 == c)
  (get .addr).orElse (fun _ => (get .align).orElse (fun _ => (get .poison).orElse (fun _ =>
    (get .xlate).orElse (fun _ => get .prot))))

/-- Take a slot for a region and begin its build: no launch has written the new region (R200, R211, R281). -/
def takeSlot (s : State) (slot : Nat) (r : Region) : State :=
  { s with
    regions := aset s.regions slot r
    launches := s.launches.map (fun e => (e.1, { e.2 with written := e.2.written.filter (fun n => n != slot) })) }

/-- A line holds a byte of a region or its shadow. -/
def Region.onLine (r : Region) (line : Nat) : Bool :=
  (r.leaves ++ r.shadow).any (fun x => decide (x.pa / 256 ≤ line ∧ line ≤ (x.pa + x.len - 1) / 256))

/-- A write or atomic of the group in flight on the lines of a region: ADECL follows it, as program order asks (R107,
R211). -/
def Env.writesOn (e : Env) (r : Region) : Bool :=
  (flightsOf e.s e.gid).any (fun f => f.2.kind != .load && f.2.open && f.2.pieces.any (fun p => match p.pa with
    | .glob a => r.onLine (lineOf a)
    | .pad _ _ => false))

/-- ADECL (R206, R211, R213). Its traps concern every active present lane; AREGION of step 3 records the region's base as its
address, and of step 1 none (log 99, the model's choice). -/
def execAdecl (c : Ctl) (pd : PredCode) (a : RegCode) (b : SrcB) (k : RegCode) (lg : BitVec 5) (s : State) :
    Host.Outcome State Fault Refusal :=
  instr (.adecl c pd a b k lg) s (fun e lanes =>
    match lowestLane (lanes &&& e.pres) with
    | none => if e.flagFull c then .next e.s else .next (e.idle c e.s)
    | some low =>
      if e.accessHeld || e.flagFull c then .next e.s
      else
        let attr : Word := BitVec.ofNat 32 (readB e.g low b 32)
        let va := readSet e.g low a 64
        let sva := readSet e.g low k 64
        let r0 : Region := ⟨e.ctx, va, [], [], lg.toNat, attr, false⟩
        let all := fun (cz : Cause) (ad : Nat) => (lanesOf (lanes &&& e.pres)).map (fun l => (l, cz, ad % 2 ^ 49))
        if attrBad attr then .next (raiseBad e e.s (all .aregion 0))
        else match firstOf [checkSpan e.s e.core e.ctx e.inh .both (fun _ => true) 64 va r0.bytes,
            checkSpan e.s e.core e.ctx e.inh .both (fun _ => true) 64 sva r0.shadowBytes] with
          | some (cz, ad) => .next (raiseBad e e.s (all cz ad))
          | none =>
            let ls := spansOf e.s e.core e.ctx va r0.bytes
            let ss := spansOf e.s e.core e.ctx sva r0.shadowBytes
            let stack := ((ls.headD (⟨0, 0, 0⟩, ⟨0, 0, false, false, false, false, false, 16⟩)).1.pa) / 2 ^ 36
            if (ls ++ ss).any (fun x => x.2.kind != 1 || x.1.pa / 2 ^ 36 != stack) then
              .next (raiseBad e e.s (all .aregion va))
            else
              let r : Region := { r0 with leaves := ls.map (fun x => x.1), shadow := ss.map (fun x => x.1) }
              let s := settle e.s e.gid
              let meets := s.regions.any (fun x => x.2.ctx = e.ctx &&
                spansMeet (r.leaves ++ r.shadow) (x.2.leaves ++ x.2.shadow))
              let no := retire e (launchFlight s (e.predFlight c pd lanes false))
              if e.writesOn r then .next e.s
              else if spansMeet r.leaves r.shadow || meets then .next no
              else
                let f : Flight := { e.flight .build c with pdst := some pd, lanes := lanes }
                if (s.part (partOf e.ctx)).split.getLsbD 4 then
                  -- REGSLOT = 1: the host grants or refuses (R200, R315)
                  let cx := s.ctx e.ctx
                  let rid := nextName cx.rid (cx.heldRegions.map (fun h => h.rid))
                  let id := s.nextId
                  let s := launchFlight s f
                  let s := s.setCtx e.ctx { cx with rid, heldRegions := cx.heldRegions ++ [⟨rid, id, stack, r⟩] }
                  .next (retire e (ctxEvent s e.ctx 8 (rid.toNat + stack * 2 ^ 32 + va * 2 ^ 64)))
                else match freeSlot s (partOf e.ctx) stack with
                  | none => .next no
                  | some slot => .next (retire e (launchFlight (takeSlot s slot r) { f with args := [slot] })))

/-- The lines of a region's leaves and shadow. -/
def Region.lines (r : Region) : List Nat :=
  (r.leaves ++ r.shadow).flatMap (fun x =>
    (List.range ((x.pa + x.len - 1) / 256 + 1 - x.pa / 256)).map (fun i => x.pa / 256 + i))

/-- REGION_BUILD: the partition's cores write back and invalidate the region's lines, the home slices drop them with
their records (R113), and the tree is built; ADECL
completes with true (R211, R213). -/
def execRegionBuild (op : Nat) (s : State) : Host.Outcome State Fault Refusal :=
  match aget? s.flights op with
  | none => .next s
  | some f =>
    match f.kind, f.args with
    | .build, slot :: _ =>
      match aget? s.regions slot with
      | none => .next s
      | some r =>
        let s := r.lines.foldl (fun s ln => dropRecord (s.cores.foldl (fun s k => flushLine s k.1 ln) s) ln) s
        let (fl, s) := buildTree s r
        let s := stickyGroup s f.gid { fl with ovf := false }
        .next (landAll (s.setFlight op { f with kind := .result, preds := (lanesOf f.lanes).map (fun l => (l, true)) }) op)
    | _, _ => .next s

/-- Some operation of any group on a region has not completed. -/
def slotBusy (s : State) (slot : Nat) : Bool :=
  s.flights.any (fun f => match f.2.kind with
    | .leaf r _ _ => r == slot
    | .query _ _ => f.2.args.getD 1 0 == slot
    | .build => f.2.args.headD (2 ^ 20) == slot
    | _ => false)

/-- A region instruction's base operand: its S pair. -/
def Env.regionOf (e : Env) (a : RegCode) : Option (Nat × Region) := regionAt e.s e.ctx (readSet e.g 0 a 64)

/-- Earlier steps are to come first: the group's on the region, its build, and what an acquire or a release orders (R124,
R211). -/
def Env.slotHolds (e : Env) (slot : Nat) : Bool :=
  e.accessHeld || slotBusyFor e.s e.gid slot || syncOpen e.s e.gid

/-- AFREE: frees a region declared by the context, after every accepted step (R211, R213). -/
def execAfree (c : Ctl) (pd : PredCode) (a : RegCode) (s : State) : Host.Outcome State Fault Refusal :=
  instr (.afree c pd a) s (fun e lanes =>
    if e.flagFull c then .next e.s
    else if lanes &&& e.pres = 0 then .next (e.idle c e.s)
    else if e.accessHeld then .next e.s
    else match e.regionOf a with
      | none => .next (retire e (launchFlight e.s (e.predFlight c pd lanes false)))
      | some (slot, _) =>
        if slotBusy e.s slot then .next e.s
        else
          let s := settle e.s e.gid
          .next (retire e (launchFlight { s with regions := adel s.regions slot } (e.predFlight c pd lanes true))))

/-- The 128-bit status of a region (R213). -/
def regionStatus (s : State) (slot : Nat) (r : Region) : Nat :=
  r.attr.toNat + r.log2n * 2 ^ 32 + slot % 256 * 2 ^ 40 + slot / 256 * 2 ^ 48 + 2 ^ 63 + rootValue s r * 2 ^ 64

/-- ASTAT (R213). -/
def execAstat (c : Ctl) (d a : RegCode) (s : State) : Host.Outcome State Fault Refusal :=
  instr (.astat c d a) s (fun e lanes =>
    if e.flagFull c then .next e.s
    else match lowestLane (lanes &&& e.pres) with
      | none => .next (e.idle c e.s)
      | some low =>
        if e.accessHeld then .next e.s
        else
          let put := fun (v : Nat) => retire e (launchFlight e.s { e.flight .result c with
            dst := some d, width := 16, lanes := lanes, args := [low], vals := (lanesOf lanes).map (fun l => (l, v)) })
          match e.regionOf a with
          | none => .next (put 0)
          | some (slot, r) => if e.slotHolds slot then .next e.s else .next (put (regionStatus e.s slot r)))

/-! ## Queries -/

/-- The region's kind has a query (R214): FN of R212. -/
def kindHas (kind fn : Nat) : Bool :=
  match fn with
  | 1 => kind == 1 || kind == 3
  | 2 => kind == 2
  | _ => kind == 0 || kind == 3

/-- A leaf or an entry of the tree lies in a poisoned sector (R380). -/
def treeBad (s : State) (r : Region) (k j : Nat) : Bool :=
  s.isPoisoned (if k = 0 then spanAt r.leaves (r.leafBytes * j) else spanAt r.shadow (r.off k j))

/-- What a descent to a leaf reads, or one that ends at the root, lies in a poisoned sector: the root, and at each level
the children up to the one taken (R217). -/
def descentBad (s : State) (r : Region) (i : Nat) (ok : Bool) : Bool :=
  treeBad s r r.levels 0 || (ok && (List.range r.levels).any (fun k =>
    let j := i / 4 ^ k
    (List.range (j - 4 * (j / 4) + 1)).any (fun m => treeBad s r k (4 * (j / 4) + m))))

/-- A lane's query reads poison (R380). -/
def queryBad (s : State) (r : Region) (fn : Nat) (p : Piece) : Bool :=
  r.poisoned ||
  (match fn with
   | 3 => let (i, ok) := descend s r (sgn 64 p.b); descentBad s r i ok
   | 4 => let (i, ok) := pickLeaf s r (p.b % 2 ^ 32); descentBad s r i ok
   | _ => (rangeVals (fun k j => b2n (treeBad s r k j)) (r.levels + 1) 0 (p.b % 2 ^ 32) (p.k % 2 ^ 32)).any (fun v => v != 0))

/-- One lane's query: value, predicate, flags (R215 to R218). -/
def laneQuery (s : State) (r : Region) (fn : Nat) (fx : Bool) (p : Piece) : Nat × Bool × Flags :=
  match fn with
  | 3 => let (i, ok) := descend s r (sgn 64 p.b); (i, ok, {})
  | 4 => let (i, ok) := pickLeaf s r (p.b % 2 ^ 32); (i, ok, {})
  | _ => rangeQuery s r fn fx (p.b % 2 ^ 32) (p.k % 2 ^ 32)

/-- Perform a query's lanes in one step of the region: its results, the flags of present lanes, poison (R209, R214,
R380). -/
def performQuery (s : State) (f : Flight) (fn : Nat) (fx : Bool) (pres : LaneMask) : Flight × Flags × LaneMask :=
  match aget? s.regions (f.args.getD 1 0) with
  | none => ({ f with kind := .result }, {}, 0)
  | some r =>
    let bad := maskOf ((f.pieces.filter (queryBad s r fn)).map (fun p => p.lane))
    -- a helper lane's query that would raise POISON gives zero and false (R13)
    let outs := f.pieces.map (fun p => (p.lane,
      if bad.getLsbD p.lane && !pres.getLsbD p.lane then (0, false, ({} : Flags)) else laneQuery s r fn fx p))
    let fl := outs.foldl (fun a o => if pres.getLsbD o.1 then a.or o.2.2.2 else a) ({} : Flags)
    ({ f with kind := .result, pieces := []
              vals := f.vals ++ outs.map (fun o => (o.1, o.2.1))
              preds := f.preds ++ outs.map (fun o => (o.1, o.2.2.1)) }, fl, bad &&& pres)

/-- A query's results are put in flight after its step: flags in the group, poison for the header that waits. -/
def queryDone (s : State) (gid : Nat) (q : Flight × Flags × LaneMask) : State :=
  let s := stickyGroup s gid q.2.1
  s.updGroup gid (fun g => pendPoison g q.1 q.2.2)

/-- A query of FN: AREGION in the lanes that fail, with no address (log 99, the model's choice), a step in flight for the
others (R214); under DET a query of a region the launch wrote waits for its clock (R281). -/
def query (i : Instr) (c : Ctl) (fn : Nat) (fx : Bool) (d : RegCode) (pd : PredCode) (a : RegCode)
    (b k : Env → Nat → Nat) (s : State) : Host.Outcome State Fault Refusal :=
  instr i s (fun e lanes =>
    let width := if fn < 3 then 8 else 4
    let reg := e.regionOf a
    let ok := fun (l : Nat) => match reg with
      | none => false
      | some (_, r) => kindHas r.kindNo fn && (3 ≤ fn || decide (k e l % 2 ^ 32 ≤ r.n))
    let ls := lanesOf lanes
    let good := ls.filter ok
    let bad := (ls.filter (fun l => !ok l && e.pres.getLsbD l)).map (fun l => (l, Cause.aregion, 0))
    let dead := ls.filter (fun l => !ok l && !e.pres.getLsbD l)
    let slot := match reg with | some (n, _) => n | none => 0
    -- a trap with no present lane to perform assigns nothing to the flag (R60)
    let assigns := bad.isEmpty || good.any e.pres.getLsbD
    if (assigns && e.flagFull c) || e.accessHeld || (!good.isEmpty && e.slotHolds slot) then .next e.s
    else
      let f : Flight := { e.flight (if good.isEmpty then .result else .query fn fx) c with
        dst := some d, width, pdst := some pd
        flag := if assigns then e.is.flag c.fs else none
        lanes := maskOf (good ++ dead), args := [(supplier e good).headD 128, slot]
        vals := dead.map (fun l => (l, 0)), preds := dead.map (fun l => (l, false))
        pieces := good.map (fun l => { lane := l, pa := .pad 0 0, w := 0, b := b e l, k := k e l, got := none, bad := false }) }
      let finish := fun (s : State) => if bad.isEmpty then retire e s else raiseBad e s bad
      if good.isEmpty then .next (finish (if bad.isEmpty || !dead.isEmpty then launchFlight e.s f else e.s))
      else if e.l.det && e.l.written.contains slot then
        minClock e
          (let q := performQuery e.s f fn fx e.pres
           .next (finish (launchFlight (queryDone e.s e.gid q) q.1)))
      else .next (finish (launchFlight e.s f)))

/-- A query in flight takes its step and its results are written (R215, R217). -/
def queryStep (op : Nat) (isDescent : Bool) (s : State) : Host.Outcome State Fault Refusal :=
  match aget? s.flights op with
  | none => .next s
  | some f =>
    match f.kind with
    | .query fn fx =>
      if decide (3 ≤ fn) != isDescent then .next s
      else
        let t := s.team f.team
        let q := performQuery s f fn fx (presentLanes (s.launch t.launch) (s.group f.gid).idx)
        .next (landAll ((queryDone s f.gid q).setFlight op q.1) op)
    | _ => .next s

/-- RANGE: the apex unit walks a range query in one step (R215). -/
def execRangeStep (op : Nat) (s : State) : Host.Outcome State Fault Refusal := queryStep op false s

/-- DESCEND: the apex unit performs a descent in one step (R217). -/
def execDescendStep (op : Nat) (s : State) : Host.Outcome State Fault Refusal := queryStep op true s

/-- ARSUM (R215). -/
def execArsum (c : Ctl) (fx : Bool) (d : RegCode) (pd : PredCode) (a : RegCode) (b : SrcB) (k : RegCode) (s : State) :
    Host.Outcome State Fault Refusal :=
  query (.arsum c fx d pd a b k) c 0 fx d pd a (fun e l => readB e.g l b 32) (fun e l => readSet e.g l k 32) s

/-- ARMAX (R215). -/
def execArmax (c : Ctl) (d : RegCode) (pd : PredCode) (a : RegCode) (b : SrcB) (k : RegCode) (s : State) :
    Host.Outcome State Fault Refusal :=
  query (.armax c d pd a b k) c 1 false d pd a (fun e l => readB e.g l b 32) (fun e l => readSet e.g l k 32) s

/-- ARMIN (R215). -/
def execArmin (c : Ctl) (d : RegCode) (pd : PredCode) (a : RegCode) (b : SrcB) (k : RegCode) (s : State) :
    Host.Outcome State Fault Refusal :=
  query (.armin c d pd a b k) c 2 false d pd a (fun e l => readB e.g l b 32) (fun e l => readSet e.g l k 32) s

/-- APFX (R217). -/
def execApfx (c : Ctl) (d : RegCode) (pd : PredCode) (a : RegCode) (b : SrcB) (s : State) :
    Host.Outcome State Fault Refusal :=
  query (.apfx c d pd a b) c 3 false d pd a (fun e l => readB e.g l b 64) (fun _ _ => 0) s

/-- APICK (R218). -/
def execApick (c : Ctl) (d : RegCode) (pd : PredCode) (a : RegCode) (b : SrcB) (s : State) :
    Host.Outcome State Fault Refusal :=
  query (.apick c d pd a b) c 4 false d pd a (fun e l => readB e.g l b 32) (fun _ _ => 0) s

/-! ## Leaf steps -/

/-- LEAFWRITE: a leaf store or RED takes its steps, lane by lane, and is acknowledged (R208, R209). -/
def execLeafwrite (op : Nat) (s : State) : Host.Outcome State Fault Refusal :=
  match aget? s.flights op with
  | none => .next s
  | some f =>
    match f.kind with
    | .leaf slot red _ =>
      match aget? s.regions slot with
      | none => .next s
      | some r =>
        if f.stuck then .next s
        else
          let (fl, s) := f.livePieces.foldl (fun acc p => match p.pa with
            | .glob pa => let (fl, s) := leafStep acc.2 r red pa p.b; (acc.1.or fl, s)
            | .pad _ _ => acc) (({} : Flags), s)
          let s := if red then s else coverPlaces s f.core (f.livePieces.map (fun p => (p.pa, p.w)))
          if f.refused then .next ((stickyGroup s f.gid fl).setFlight op f.refusedRest)
          else .next (ackOrigin ((stickyGroup s f.gid fl).dropFlight op) f.core f.origin)
    | _ => .next s

end Sys2Proof.Machine
end

