-- ==== Sys2Proof/Machine/Crucible.lean ====
section
/-!
DEFINITION. Crucible hash tables (R220 to R237): claims, layout, hashing, placing and spilling, combining, the table
operations and the drain.
-/
namespace Sys2Proof.Machine

/-! ## The claim record (R221 to R223) -/

def Table.w0 (t : Table) : Nat := (t.words.getD 0 0).toNat
def Table.layout (t : Table) : Nat := bits t.w0 11 10
def Table.b (t : Table) : Nat := bits t.w0 9 6
def Table.op (t : Table) : Nat := bits t.w0 18 16
def Table.trapfull (t : Table) : Bool := bitOf t.w0 15
def Table.q (t : Table) : Int := sgn 8 (bits t.w0 31 24)
def Table.vty (t : Table) : Ty := (Ty.ofCode (BitVec.ofNat 5 (bits t.w0 23 19))).getD .i32
def Table.base (t : Table) : Nat := bits (t.words.getD 1 0).toNat 19 0
def Table.spill (t : Table) : Nat := (t.words.getD 2 0).toNat + (t.words.getD 3 0).toNat * 2 ^ 32
def Table.cap (t : Table) : Nat := (t.words.getD 4 0).toNat
def Table.kw (t : Table) : Nat := if t.layout < 2 then 32 else 64
def Table.vw (t : Table) : Nat := if t.layout % 2 = 0 then 32 else 64
/-- Bytes of a slot (R222). -/
def Table.slotBytes (t : Table) : Nat := if t.layout = 0 then 8 else 16
/-- Slots of a bucket (R222). -/
def Table.perBucket (t : Table) : Nat := 64 / t.slotBytes
/-- Bytes of a drain record (R235). -/
def Table.recBytes (t : Table) : Nat := if t.layout = 0 then 8 else 16

/-- The key of an EMPTY slot and of a TOMB (R222). -/
def Table.empty (t : Table) : Nat := 2 ^ t.kw - 1
def Table.tomb (t : Table) : Nat := 2 ^ t.kw - 2

/-- The claim record breaks R221 or R223 (R234). -/
def Table.malformed (t : Table) : Bool :=
  let v := t.w0
  let vty := bits v 23 19
  let v32 := vty == 3 || vty == 7 || vty == 17
  let v64 := vty == 4 || vty == 8 || vty == 26
  bits v 14 12 != 0 || bits v 5 0 != 0 || decide (t.b < 4 ∨ 13 < t.b) || bits (t.words.getD 1 0).toNat 31 20 != 0 ||
  t.base % 64 != 0 || decide (2 ^ 49 ≤ t.spill) || (bits v 31 24 != 0 && vty != 26) || decide (5 < t.op) ||
  !(if t.layout % 2 = 0 then v32 else v64) || (t.op == 3 && vty == 17)

/-! ## Slots -/

/-- The offset of a slot, by bucket and slot number (R222). -/
def Table.slotAt (t : Table) (bucket i : Nat) : Nat := t.base + 64 * bucket + t.slotBytes * i

/-- The key of a slot. -/
def Table.keyAt (t : Table) (pad : Store 8) (off : Nat) : Nat := ofBytes (readBytes pad off (t.kw / 8))

/-- The value of a slot (R222). -/
def Table.valAt (t : Table) (pad : Store 8) (off : Nat) : Nat :=
  ofBytes (readBytes pad (off + t.slotBytes / 2) (t.vw / 8))

/-- The bytes of a slot (R222). -/
def Table.slotOf (t : Table) (k v : Nat) : List Byte := toBytes k (t.slotBytes / 2) ++ toBytes v (t.slotBytes / 2)

/-- The bytes of a spill record (R224). -/
def spillRecord (k v : Nat) : List Byte := toBytes k 8 ++ toBytes v 8

/-- Every slot of a table in order. -/
def Table.slots (t : Table) : List Nat :=
  (List.range (2 ^ t.b)).flatMap (fun bk => (List.range t.perBucket).map (fun i => t.slotAt bk i))

/-- FOLD (R224). -/
def foldKey (kw k : Nat) : Nat :=
  if kw = 32 then k else (k % 2 ^ 32) ^^^ (k / 2 ^ 32 % 2 ^ 32 * 0x85EBCA77 % 2 ^ 32)

/-- HOME (R224). -/
def Table.home (t : Table) (k : Nat) : Nat := foldKey t.kw k * 0x9E3779B1 % 2 ^ 32 / 2 ^ (32 - t.b)

/-- WINDOW (R224). -/
def Table.window (t : Table) (k : Nat) : List Nat :=
  (List.range 4).flatMap (fun j => (List.range t.perBucket).map (fun i => t.slotAt ((t.home k + j) % 2 ^ t.b) i))

/-- LOOKUP (R224). -/
def Table.lookup (t : Table) (pad : Store 8) (k : Nat) : Option Nat :=
  (t.window k).find? (fun o => t.keyAt pad o == k)

/-- FREE (R224). -/
def Table.free (t : Table) (pad : Store 8) (k : Nat) : Option Nat :=
  (t.window k).find? (fun o => t.keyAt pad o == t.empty || t.keyAt pad o == t.tomb)

/-- A reserved key (R222). -/
def Table.reserved (t : Table) (k : Nat) : Bool := k == t.empty || k == t.tomb

/-! ## Combining (R227) -/

/-- COMB (R227). -/
def comb (t : Table) (x y : Nat) : Nat :=
  let w := t.vw
  match t.op with
  | 0 => if t.vty = .f32 then roundIEEE .f32 .rne (addV .rne (value .f32 x) (value .f32 y)) else (x + y) % 2 ^ w
  | 1 => if t.vty = .f32 then fminmax false x y
         else if t.vty = .n32 ∨ t.vty = .n64 then min x y
         else if sgn w x ≤ sgn w y then x else y
  | 2 => if t.vty = .f32 then fminmax true x y
         else if t.vty = .n32 ∨ t.vty = .n64 then max x y
         else if sgn w x ≤ sgn w y then y else x
  | 3 => x ||| y
  | 4 => x
  | _ => y

/-- A presented value: FX64 tables convert an F32 unless RAW (R226). -/
def offered (t : Table) (raw : Bool) (v : Nat) : Nat × Flags :=
  if t.vty = .fx64 ∧ !raw then fxOf t.q v else (v % 2 ^ t.vw, {})

/-! ## Spilling (R224, R225) -/

/-- The table operations' running state. -/
structure TabRun where
  s : State
  vals : List (Nat × Nat)
  preds : List (Nat × Bool)
  fl : Flags
  drops : LaneMask
  /-- a spill record could not be written -/
  fault : Option (Cause × Nat)

/-- A write of an engine at a place: at its home, the issuing core's copy of the line written back and invalidated first,
or at its scratchpad (R122); on a region declared since as a plain store there (R211). -/
def engineWrite (s : State) (core : Nat) (pa : Place) (bs : List Byte) : State :=
  match pa with
  | .glob a => racePath (homeWrite (flushLine s core (lineOf a)) a bs) a
  | .pad t off => s.writePad t off bs

/-- A write at a place behind a link that is down (R377). -/
def State.lost (s : State) (pa : Place) : Bool :=
  match pa with
  | .glob a => s.linkLost a
  | .pad _ _ => false

/-- The virtual address of a physical place among the pages an engine's translations cover: where it faults (R312). -/
def pageAddr (s : State) (ctx : Nat) (pages : List (Nat × Nat)) (pa : Place) : Nat :=
  match pa with
  | .pad _ off => off
  | .glob a =>
    ((pages.filterMap (fun p => match walk s ctx p.1 with
      | .ok l => (l.place s ctx p.1).bind (fun b => if b ≤ a ∧ a < b + 2 ^ p.2 then some (p.1 + (a - b)) else none)
      | .bad _ => none)).head?).getD ((pages.headD (0, 0)).1)

/-- Where a spill record stands under the translation the operation took at issue; the cause of its failure, by the tables
as they stand, where it took none or a shootdown has dropped it (R225, R323, R328; log 31). -/
def TabOp.spillAt (o : TabOp) (s : State) (va : Nat) : Nat ⊕ Cause :=
  match o.spill.find? (fun x => decide (x.1.off ≤ va ∧ va < x.1.off + x.1.len)) with
  | some x =>
    let pa := x.1.pa + (va - x.1.off)
    if noRegion (regionHit s pa) then .inl pa else .inr .prot
  | none => match walk s o.ctx va with
    | .bad c => .inr c
    | .ok _ => .inr .prot

/-- Write a spill record at its home (R225); the cause where it has no translation. -/
def writeSpill (s : State) (core : Nat) (o : TabOp) (va : Nat) (bs : List Byte) : Option Cause × State :=
  match o.spillAt s va with
  | .inl pa => (none, engineWrite s core (.glob pa) bs)
  | .inr c => (some c, s)

/-- Change a table of a team. -/
def updTable (s : State) (team tab : Nat) (f : Table → Table) : State :=
  let t := s.team team
  s.setTeam team (t.setTable tab (f (t.table tab)))

/-- Write bytes of a claimed range. -/
def tabWrite (s : State) (team off : Nat) (bs : List Byte) : State := s.writePad team off bs

/-- PLACE (R224): the status, and the run after. -/
def place (r : TabRun) (core : Nat) (o : TabOp) (k v : Nat) : Nat × TabRun :=
  let tm := r.s.team o.team
  let t := tm.table o.tab
  match t.free tm.pad k with
  | some off => (0, { r with s := tabWrite r.s o.team off (t.slotOf k v) })
  | none =>
    if t.spillcnt.toNat < t.cap then
      let va := t.spill + 16 * t.spillcnt.toNat
      let (bad, s) := writeSpill r.s core o va (spillRecord k v)
      let s := updTable s o.team o.tab (fun t => { t with spillcnt := t.spillcnt + 1 })
      (6, { r with s, fl := { r.fl with spill := true }
                   fault := match r.fault, bad with | none, some c => some (c, va) | f, _ => f })
    else
      (7, { r with s := updTable r.s o.team o.tab (fun t => { t with drops := if t.drops = BitVec.allOnes 32 then t.drops else t.drops + 1 })
                   fl := { r.fl with drop := true } })

/-- A lane's result: status and value in the layout of R230. -/
def tabVal (t : Table) (status v : Nat) : Nat := if t.vw = 32 then status + v * 2 ^ 32 else status + v * 2 ^ 64

/-- One key group of an operation (R228, R233). -/
def tabGroup (core : Nat) (o : TabOp) (r : TabRun) (k : Nat) : TabRun :=
  let tm := r.s.team o.team
  let t := tm.table o.tab
  let g := o.lanes.filter (fun l => l.key == k)
  let all := fun (r : TabRun) (st v : Nat) (p : Bool) =>
    { r with vals := r.vals ++ g.map (fun l => (l.lane, if o.fn = 4 then st else tabVal t st v))
             preds := r.preds ++ g.map (fun l => (l.lane, p)) }
  if t.reserved k then all r 8 0 false
  else
    let hit := t.lookup tm.pad k
    match o.fn with
    | 2 =>
      let (v, fl) := offered t o.raw ((g.headD ⟨0, 0, 0⟩).val)
      match hit with
      | some off => all { r with fl := r.fl.or fl } 1 (t.valAt tm.pad off) false
      | none =>
        let (st, r) := place { r with fl := r.fl.or fl } core o k v
        let low := (g.headD ⟨0, 0, 0⟩).lane
        { r with
          vals := r.vals ++ g.map (fun l => (l.lane, tabVal t (if l.lane = low ∨ st = 7 then st else 1) v))
          preds := r.preds ++ g.map (fun l => (l.lane, l.lane == low && st != 7))
          drops := if st = 7 then r.drops ||| maskOf (g.map (fun l => l.lane)) else r.drops }
    | 3 =>
      match hit with
      | some off => all r 2 (t.valAt tm.pad off) true
      | none => all r (if t.spillcnt = 0 then 3 else 4) 0 false
    | 4 =>
      match hit with
      | some off => all { r with s := tabWrite r.s o.team off (toBytes t.tomb (t.kw / 8)) } 5 0 false
      | none => all r (if t.spillcnt = 0 then 3 else 4) 0 false
    | _ =>
      let vs := g.map (fun l => offered t o.raw l.val)
      let fl := vs.foldl (fun f v => f.or v.2) r.fl
      let v := match vs.map (fun v => v.1) with
        | [] => 0
        | x :: xs => xs.foldl (comb t) x
      let r := { r with fl }
      match hit with
      | some off =>
        let x := comb t (t.valAt tm.pad off) v
        all { r with s := tabWrite r.s o.team off (t.slotOf k x) } 2 x false
      | none =>
        let (st, r) := place r core o k v
        let r := { r with drops := if st = 7 then r.drops ||| maskOf (g.map (fun l => l.lane)) else r.drops }
        all r st v false

/-- Apply a keyed operation: the groups in ascending order of their lowest lanes (R228). -/
def applyKeyed (s : State) (core : Nat) (o : TabOp) : TabRun :=
  (distinct (o.lanes.map (fun l => l.key))).foldl (tabGroup core o) ⟨s, [], [], {}, 0, none⟩

/-- HTSTAT's 128 bits (R236). -/
def tabStatus (tm : Team) (tab : Nat) : Nat :=
  let t := tm.table tab
  if !t.claimed then 0
  else
    let keys := t.slots.map (fun o => t.keyAt tm.pad o)
    let tombs := (keys.filter (fun k => k == t.tomb)).length
    let live := (keys.filter (fun k => k != t.tomb && k != t.empty)).length
    t.layout * 4 + t.b * 16 + 2 ^ 11 + tombs * 2 ^ 12 + live * 2 ^ 29 + t.drops.toNat * 2 ^ 64 + t.spillcnt.toNat * 2 ^ 96

/-! ## The drain (R235) -/

/-- Every slot EMPTY with a zero value, and no record spilled. -/
def emptyTable (s : State) (team tab : Nat) : State :=
  let t := (s.team team).table tab
  let s := t.slots.foldl (fun s o => tabWrite s team o (t.slotOf t.empty 0)) s
  -- the whole range is written (R380; log 81)
  let s := coverPlaces s 0 [(.pad team t.base, 64 * 2 ^ t.b)]
  updTable s team tab (fun t => { t with spillcnt := 0 })

/-- The spilled records in order: key and value, read at their homes; the first failure, of a translation or by poison
(R225, R380). -/
def readSpills (s : State) (core : Nat) (o : TabOp) (t : Table) : Option (Cause × Nat) × List (Nat × Nat) × State :=
  (List.range t.spillcnt.toNat).foldl (fun acc j =>
    let va := t.spill + 16 * j
    match o.spillAt acc.2.2 va with
    | .inr c => (some (acc.1.getD (c, va)), acc.2.1, acc.2.2)
    | .inl pa =>
      let (bs, s) := homeRead (flushLine acc.2.2 core (lineOf pa)) pa 16
      let bad := if s.isPoisoned pa then some (acc.1.getD (.poison, va)) else acc.1
      (bad, acc.2.1 ++ [(ofBytes (bs.take 8) % 2 ^ t.kw, ofBytes (bs.drop 8) % 2 ^ t.vw)], s)) (none, [], s)

/-- The records of a drain in ascending key order, each key's values merged (R235). -/
def drainRecords (t : Table) (pad : Store 8) (spilled : List (Nat × Nat)) : List (Nat × Nat) :=
  let live := (t.slots.filter (fun o => !t.reserved (t.keyAt pad o))).map (fun o => (t.keyAt pad o, t.valAt pad o))
  let all := live ++ spilled
  (sortBy id (distinct (all.map (fun x => x.1)))).map (fun k =>
    match (all.filter (fun x => x.1 == k)).map (fun x => x.2) with
    | [] => (k, 0)
    | v :: vs => (k, vs.foldl (comb t) v))

/-- The place of a distance into a drain's destination. -/
def TabOp.dstAt (o : TabOp) (d : Nat) : Place :=
  match o.dst with
  | some (.pad t off) => .pad t (off + d)
  | _ => .glob (spanAt o.spans d)

/-- The address of a drain's destination. -/
def TabOp.dstVa (o : TabOp) : Nat := (o.dst.map (fun p => match p with | .glob va => va | .pad _ off => off)).getD 0

/-- A drain is applied: its records are formed, its barrier expects its bytes, and they begin to land; the table is
emptied (R235). -/
def applyDrain (s : State) (core : Nat) (o : TabOp) : Option (Cause × Nat) × Flags × State :=
  let tm := s.team o.team
  let t := tm.table o.tab
  let (bad, spilled, s) := readSpills s core o t
  -- records formed from poisoned table bytes carry poison (R311, R380)
  let live := t.slots.filter (fun x => !t.reserved (t.keyAt tm.pad x))
  let bad := bad.orElse (fun _ => if live.any (fun x => tm.padBad x t.slotBytes) then some (.poison, o.dstVa) else none)
  let recs := drainRecords t tm.pad spilled
  let count := recs.length
  let written := min count o.capd
  let s := if written < count then
      updTable s o.team o.tab (fun t => { t with drops := BitVec.ofNat 32 (min (t.drops.toNat + (count - written)) (2 ^ 32 - 1)) })
    else s
  let bar := o.bar.getD (.pad o.team 0)
  let s := updateObj s bar (fun x => { x with bexp := (x.bexp + 16 + t.recBytes * written) % 2 ^ 32 })
  let header := (o.dstAt 0, toBytes (count + written * 2 ^ 32) 16)
  let moves := header :: ((recs.take written).zip (List.range written)).map (fun x =>
    (o.dstAt (16 + t.recBytes * x.2), if t.layout = 0 then t.slotOf x.1.1 x.1.2 else spillRecord x.1.1 x.1.2))
  let s := emptyTable s o.team o.tab
  let k := s.core core
  let d : Drain := { gid := o.gid, ctx := o.ctx, flight := o.flight, origin := o.origin, bar, moves, pages := o.pages
                     refused := o.refused, refusedAt := o.refusedAt }
  (bad, { drop := decide (written < count) }, s.setCore core { k with drains := aset k.drains o.flight d })

/-- A credit of landed bytes, with an arrival or none; at a global barrier of another core's last release it clears LV
(R122, R248, R249). -/
def creditObj (s : State) (core : Nat) (bar : Place) (n arrivals : Nat) : State :=
  dropLv (updateObj s bar (fun o => { o with
    landed := (o.landed + n) % 2 ^ 32, arr := min (o.arr + arrivals) 32767 })) core bar

/-- DRAIN_CREDIT: bytes of a drain land and are credited (R235); behind a link that is down they are an imprecise fault
(R377). -/
def execDrainCredit (op n : Nat) (s : State) : Host.Outcome State Fault Refusal :=
  match s.cores.find? (fun e => (aget? e.2.drains op).isSome) with
  | none => .next s
  | some (core, k) =>
    match aget? k.drains op with
    | none => .next s
    | some d =>
      match (if d.refused then none else d.moves[n]?) with
      | none => .next s
      | some m =>
        if s.lost m.1 then .next (impreciseFault s core d.origin d.ctx .poison (pageAddr s d.ctx d.pages m.1))
        else
        let s := creditObj (engineWrite s core m.1 m.2) core d.bar m.2.length 0
        let rest := d.moves.eraseIdx n
        let k := s.core core
        if rest.isEmpty then
          .next (ackOrigin (s.setCore core { k with drains := adel k.drains op }) core d.origin)
        else .next (s.setCore core { k with drains := aset k.drains op { d with moves := rest } })

/-! ## Applying the queue -/

/-- The effects of an applied operation on its group: flags, and HTFULL pending where TRAPFULL is set (R225). -/
def tabEffects (s : State) (o : TabOp) (fl : Flags) (drops : LaneMask) : State :=
  let t := (s.team o.team).table o.tab
  let s := stickyGroup s o.gid fl
  match aget? s.flights o.flight with
  | some f =>
    match f.flag with
    | some n => if t.trapfull && drops != 0 then
        s.updGroup o.gid (fun g => { g with pend := g.pend ++ [⟨.htfull, n, f.quads, drops⟩] }) else s
    | none => s
  | none => s

/-- Apply an operation: its results, by lane, and the state after. -/
def applyTab (s : State) (core : Nat) (o : TabOp) : List (Nat × Nat) × List (Nat × Bool) × State :=
  match o.fn with
  | 6 =>
    let (bad, fl, s) := applyDrain s core o
    let s := tabEffects s o fl 0
    ([], [], match bad with | some (c, a) => impreciseFault s core o.origin o.ctx c a | none => s)
  | 7 => (o.lanes.map (fun l => (l.lane, tabStatus (s.team o.team) o.tab)), [], s)
  | _ =>
    let r := applyKeyed s core o
    let s := tabEffects r.s o r.fl r.drops
    let s := match r.fault with
      | some (c, a) => impreciseFault s core o.origin o.ctx c a
      | none => ackOrigin s core o.origin
    (r.vals, r.preds, s)

/-- CRUCIBLE_OPERATION_APPLIED: the core's oldest queued operation is applied, its results are written and its flag falls
(R229). -/
def execCrucibleOperationApplied (core : Nat) (s : State) : Host.Outcome State Fault Refusal :=
  let k := s.core core
  match k.crucible with
  | [] => .next s
  | o :: rest =>
    let s := s.setCore core { k with crucible := rest }
    let (vals, preds, s) := applyTab s core o
    match aget? s.flights o.flight with
    | some f =>
      let none_ := f.dst.isNone
      .next (landAll (s.setFlight o.flight { f with
        kind := .result, vals := if none_ then [] else f.vals ++ vals, preds := f.preds ++ preds }) o.flight)
    | none => .next s

/-! ## The instructions -/

/-- Registers that a layout makes the operands use have pending writes of the group (R61). -/
def Env.pendingAny (e : Env) (lanes : LaneMask) (srcs dsts : List (RegCode × Nat)) : Bool :=
  (flightsOf e.s e.gid).any (fun f =>
    srcs.any (fun x => (setRegs x.1 x.2).any (fun n => f.2.pendingReg lanes n)) ||
    dsts.any (fun x => (setRegs x.1 x.2).any (fun n => f.2.pendingReg (e.writesIn lanes n) n)))

/-- An operation for the core's queue. -/
def Env.tabOp (e : Env) (id tab fn : Nat) (raw : Bool) (lanes : List TabLane) (origin : Option Nat) : TabOp :=
  { flight := id, gid := e.gid, team := e.g.team, ctx := e.ctx, tab, fn, raw, lanes, origin, dst := none, spans := [],
    capd := 0, bar := none, pages := [], refused := false }

/-- Where the spill records that an operation may write or read stand, by 4 KiB units, under the translations of its issue
(R225, R323): those the queue before it and its own lanes can reach; a drain reads them from the first on. -/
def Env.spillSpans (e : Env) (tab : Nat) (need : Need) (drain : Bool) (own : Nat) : List (Span × Nat) :=
  let t := e.t.table tab
  let before := (e.s.core e.core).crucible.filter (fun o => o.team = e.g.team && o.tab = tab)
  let lo := if drain || before.any (fun o => o.fn = 6) then 0 else t.spillcnt.toNat
  let hi := min t.cap (t.spillcnt.toNat + before.foldl (fun n o => n + o.lanes.length) 0 + own)
  let units := distinct ((List.range (hi - lo)).map (fun i => (t.spill + 16 * (lo + i)) / 4096 * 4096))
  units.filterMap (fun va => match mapAddr e.s e.core e.ctx e.inh need va with
    | .ok pa l => some (⟨va, pa, 4096⟩, l.size)
    | .bad _ => none)

/-- Some queued operation of the team is to be applied first (R229). -/
def Env.tabHolds (e : Env) : Bool := (e.s.core e.core).crucible.any (fun o => o.team = e.g.team)

/-- A keyed instruction (R232, R233): its table's checks, then its operation in the core's queue; under DET its step waits
for its clock and is applied at issue (R281). DEPMISS, or under DET the hold, for the registers that the claimed layout makes
its operands use comes after PROT and the layout's ILLREG (log 100, the model's choice). -/
def keyed (i : Instr) (c : Ctl) (tab : BitVec 2) (fn : Nat) (raw : Bool) (d : Option RegCode) (pd : Option PredCode)
    (a : RegCode) (b : Option SrcB) (s : State) : Host.Outcome State Fault Refusal :=
  instr i s (fun e lanes =>
    let t := e.t.table tab.toNat
    let pl := lanesOf (lanes &&& e.pres)
    let helpers := lanesOf (lanes &&& ~~~ e.pres)
    let bw := if t.vty = .fx64 ∧ !raw then 32 else t.vw
    let srcs := (a, t.kw) :: (match b with | some (.reg r) => [(r, bw)] | _ => [])
    let dw := if fn = 4 then 32 else if t.vw = 32 then 64 else 128
    let dsts := match d with | some r => [(r, dw)] | none => []
    if e.accessHeld || e.flagFull c then .next e.s
    else if !t.claimed && !pl.isEmpty then .next (raiseAll e e.s .prot (lanes &&& e.pres))
    else if t.claimed && (srcs ++ dsts).any (fun x => !regOk e.l.vregs x.1 x.2) then
      .next (raiseAll e e.s .illreg (lanes &&& e.pres))
    else if e.pendingAny lanes srcs dsts && e.l.check then .next (raiseAll e e.s .depmiss (lanes &&& e.pres))
    else if e.pendingAny lanes srcs dsts && e.l.det then .next e.s
    else
      let writes := (fn = 2 || fn = 5 || fn = 8) && t.cap != 0
      let s := settle e.s e.gid
      let f : Flight := { e.flight .crucible c with
        dst := d, width := dw / 8, pdst := pd, lanes := lanes, args := [pl.headD 128]
        vals := helpers.map (fun l => (l, 0)), preds := helpers.map (fun l => (l, false)) }
      let tl := pl.map (fun l =>
        (⟨l, readSet e.g l a t.kw, match b with | some b => readB e.g l b bw % 2 ^ bw | none => 0⟩ : TabLane))
      let spill := if writes then e.spillSpans tab.toNat .localWrite false tl.length else []
      let op := fun (id : Nat) (org : Option Nat) => { e.tabOp id tab.toNat fn raw tl org with spill }
      if pl.isEmpty then .next (retire e (launchFlight s { f with kind := .result }))
      else if writes && originsFull s e.core then .next e.s
      else if e.l.det && !e.inh && fn != 5 then
        minClock e
          (if e.tabHolds then .next e.s
           else
             let id := s.nextId
             let (org, s) := if writes then (let (o, s) := takeOrigin e s 1; (some o, s)) else (none, s)
             let s := launchFlight s f
             let (vals, preds, s) := applyTab s e.core (op id org)
             let s := match aget? s.flights id with
               | some f => s.setFlight id { f with kind := .result, vals := f.vals ++ vals, preds := f.preds ++ preds }
               | none => s
             .next (if (aget? s.groups e.gid).isSome then retire e s else s))
      else
        let id := s.nextId
        let (org, s) := if writes then (let (o, s) := takeOrigin e s 1; (some o, s)) else (none, s)
        let s := launchFlight s { f with origin := org }
        let k := s.core e.core
        .next (retire e (s.setCore e.core { k with crucible := k.crucible ++ [op id org] })))

/-- HTINS (R233). -/
def execHtins (c : Ctl) (tab : BitVec 2) (raw : Bool) (d : RegCode) (pd : PredCode) (a : RegCode) (b : SrcB) (s : State) :
    Host.Outcome State Fault Refusal :=
  keyed (.htins c tab raw d pd a b) c tab 2 raw (some d) (some pd) a (some b) s

/-- HTPROBE (R233). -/
def execHtprobe (c : Ctl) (tab : BitVec 2) (d : RegCode) (pd : PredCode) (a : RegCode) (s : State) :
    Host.Outcome State Fault Refusal :=
  keyed (.htprobe c tab d pd a) c tab 3 false (some d) (some pd) a none s

/-- HTDEL (R233). -/
def execHtdel (c : Ctl) (tab : BitVec 2) (d a : RegCode) (s : State) : Host.Outcome State Fault Refusal :=
  keyed (.htdel c tab d a) c tab 4 false (some d) none a none s

/-- HTACC without results (R233). -/
def execHtacc (c : Ctl) (tab : BitVec 2) (raw : Bool) (a : RegCode) (b : SrcB) (s : State) :
    Host.Outcome State Fault Refusal :=
  keyed (.htacc c tab raw a b) c tab 5 raw none none a (some b) s

/-- HTACC.RES (R233). -/
def execHtaccRes (c : Ctl) (tab : BitVec 2) (raw : Bool) (d a : RegCode) (b : SrcB) (s : State) :
    Host.Outcome State Fault Refusal :=
  keyed (.htaccRes c tab raw d a b) c tab 8 raw (some d) none a (some b) s

/-- HTSTAT: one step of the queue, in every active lane (R236). -/
def execHtstat (c : Ctl) (tab : BitVec 2) (d : RegCode) (s : State) : Host.Outcome State Fault Refusal :=
  instr (.htstat c tab d) s (fun e lanes =>
    if e.accessHeld || e.flagFull c then .next e.s
    else
      let id := e.s.nextId
      let s := launchFlight e.s { e.flight .crucible c with
        dst := some d, width := 16, lanes := lanes, args := [(lanesOf (lanes &&& e.pres)).headD 128] }
      let k := s.core e.core
      let o := e.tabOp id tab.toNat 7 false ((lanesOf lanes).map (fun l => ⟨l, 0, 0⟩)) none
      .next (retire e (s.setCore e.core { k with crucible := k.crucible ++ [o] })))

/-- Claimed bytes of a core's resident teams (R220). -/
def claimedBytes (s : State) (core : Nat) : Nat :=
  s.teams.foldl (fun n e => if e.2.core = core then
    e.2.tables.foldl (fun n t => if t.2.claimed then n + t.2.range.2 else n) n else n) 0

/-- HTCLAIM's traps for a well-formed record (R234). -/
def claimTrap (e : Env) (t : Table) : Option (Cause × Nat) :=
  if e.l.padBytes < t.range.1 + t.range.2 then some (.addr, t.range.1)
  else if t.cap = 0 then none
  else if t.spill % 16 ≠ 0 then some (.align, t.spill)
  else checkSpan e.s e.core e.ctx e.inh .localWrite noRegion 16 t.spill (16 * t.cap)

/-- HTCLAIM (R221, R234). Its traps concern every active present lane (log 99), and an access or engine write that passed its
own checks before it acts on the claimed bytes (log 101): the model's choices. -/
def execHtclaim (c : Ctl) (tab : BitVec 2) (pd : PredCode) (a : RegCode) (s : State) : Host.Outcome State Fault Refusal :=
  instr (.htclaim c tab pd a) s (fun e lanes =>
    if e.flagFull c then .next e.s
    else if lanes &&& e.pres = 0 then .next (e.idle c e.s)
    else if e.accessHeld || e.tabHolds then .next e.s
    else
      let t : Table := { claimed := true, words := (List.range 5).map (fun i => readReg e.g 0 (a.toNat + i)) }
      let answer := fun (s : State) (v : Bool) => retire e (launchFlight s (e.predFlight c pd lanes v))
      if t.malformed then .next (answer e.s false)
      else match claimTrap e t with
        | some (cz, ad) => .next (raiseBad e e.s ((lanesOf (lanes &&& e.pres)).map (fun l => (l, cz, ad % 2 ^ 49))))
        | none =>
          if (e.t.table tab.toNat).claimed || e.t.claims t.range.1 t.range.2 ||
              decide (512 * 1024 < claimedBytes e.s e.core + t.range.2) then .next (answer e.s false)
          else
            let s := settle e.s e.gid
            let s := updTable s e.g.team tab.toNat (fun _ => t)
            .next (answer (emptyTable s e.g.team tab.toNat) true))

/-- HTFREE (R234). -/
def execHtfree (c : Ctl) (tab : BitVec 2) (pd : PredCode) (a : RegCode) (s : State) : Host.Outcome State Fault Refusal :=
  instr (.htfree c tab pd a) s (fun e lanes =>
    if e.flagFull c then .next e.s
    else if lanes &&& e.pres = 0 then .next (e.idle c e.s)
    else if e.accessHeld || e.tabHolds then .next e.s
    else
      let t := e.t.table tab.toNat
      let ok := t.claimed && t.base == (readReg e.g 0 a.toNat).toNat
      let s := if ok then updTable e.s e.g.team tab.toNat (fun _ => {}) else e.s
      .next (retire e (launchFlight s (e.predFlight c pd lanes ok))))

/-- The pages of the global objects among some that an engine credits (R328). -/
def Env.barPages (e : Env) (ps : List Place) : List (Nat × Nat) :=
  ps.filterMap (fun p => if p.global then some (p.addr / 2 ^ e.pageBits p * 2 ^ e.pageBits p, e.pageBits p) else none)

/-- HTDRAIN: its checks, then its operation in the core's queue (R232, R235). Its traps concern every active present lane
(log 99, the model's choice). -/
def execHtdrain (c : Ctl) (tab : BitVec 2) (dgl bgl : Bool) (a bs k : RegCode) (s : State) :
    Host.Outcome State Fault Refusal :=
  instr (.htdrain c tab dgl bgl a bs k) s (fun e lanes =>
    if e.flagFull c then .next e.s
    else if lanes &&& e.pres = 0 then .next (e.idle c e.s)
    else if e.accessHeld then .next e.s
    else
      let t := e.t.table tab.toNat
      let capd := (readReg e.g 0 bs.toNat).toNat
      let n := 16 + t.recBytes * capd
      let dst := e.object dgl a
      let bar := e.object bgl k
      let all := fun (x : Cause × Nat) => (lanesOf (lanes &&& e.pres)).map (fun l => (l, x.1, x.2 % 2 ^ 49))
      let bad := match dst with
        | .glob va => checkSpan e.s e.core e.ctx e.inh .write noRegion 16 va n
        | .pad tm off => checkPadSpan e.s tm 16 off n
      if !t.claimed then .next (raiseAll e e.s .prot (lanes &&& e.pres))
      else match (match bad with | some x => some x | none => e.objCheck bar 16) with
        | some x => .next (raiseBad e e.s (all x))
        | none =>
          if originsFull e.s e.core then .next e.s
          else
            let s := settle e.s e.gid
            let id := s.nextId
            let (org, s) := takeOrigin e s 1
            let s := launchFlight s { e.flight .crucible c with origin := some org }
            let spans := match dst with
              | .glob va => spansOf e.s e.core e.ctx va n
              | .pad _ _ => []
            let pages := distinct (spans.map (fun x => ((dst.addr + x.1.off) / 2 ^ x.2.size * 2 ^ x.2.size, x.2.size)) ++
              e.barPages [bar])
            let o := { e.tabOp id tab.toNat 6 false [] (some org) with
              dst := some dst, spans := spans.map (fun x => x.1), capd, bar := some (e.phys bar), pages
              spill := e.spillSpans tab.toNat .read true 0 }
            let q := s.core e.core
            .next (retire e (s.setCore e.core { q with crucible := q.crucible ++ [o] })))

end Sys2Proof.Machine
end

