-- ==== Sys2Proof/Machine/Swage.lean ====
section
/-!
DEFINITION. Handle descriptors (R96 to R101) and the Swage copy engine (R238 to R252): THSET, THGET, THDROP, CPY, CPYG,
CPYS, CPYR, and the events that accept commands, take permits, land bytes and credit them.
-/
namespace Sys2Proof.Machine

/-! ## Descriptors (R96 to R99) -/

/-- Word `i` of a descriptor. -/
def descWord (bs : List Byte) (i : Nat) : Nat := ofBytes ((bs.drop (4 * i)).take 4)

/-- A pair of words, low word first. -/
def descPair (bs : List Byte) (i : Nat) : Nat := descWord bs i + 2 ^ 32 * descWord bs (i + 1)

/-- Fields of word 0 (R96): TYPE 0 DENSE, 1 SCALED, 2 CSR, 3 SP24; SPACE 1 is the scratchpad. -/
def dType (bs : List Byte) : Nat := bits (descWord bs 0) 3 0
def dEty (bs : List Byte) : Nat := bits (descWord bs 0) 14 10
def dSpace (bs : List Byte) : Nat := bits (descWord bs 0) 15 15
def dQ (bs : List Byte) : Int := sgn 8 (bits (descWord bs 0) 31 24)

/-- Rank; a CSR handle has none. -/
def dRank (bs : List Byte) : Nat := bits (descWord bs 0) 17 16 + 1

/-- The element type. -/
def dTy (bs : List Byte) : Ty := (Ty.ofCode (BitVec.ofNat 5 (dEty bs))).getD .b8

/-- Container bits of an element (R67). -/
def dBits (bs : List Byte) : Nat := (dTy bs).width

/-- Container bytes, one for the 4-bit types. -/
def dBytes (bs : List Byte) : Nat := max 1 (dBits bs / 8)

/-- BASE and the extent of a dimension: 1 at or above the rank (R97, R244). -/
def dBase (bs : List Byte) : Nat := descPair bs 2
def dDim (bs : List Byte) (k : Nat) : Nat := if k < dRank bs then descWord bs (4 + k) else 1

/-- Scale kind, block size (R97): SCTL. -/
def dScale (bs : List Byte) : Nat := bits (descWord bs 14) 1 0
def dBlock (bs : List Byte) : Nat := bits (descWord bs 14) 15 8

/-- Words that are reserved and zero, by TYPE (R97). -/
def zeroWords (ty : Nat) : List Nat :=
  match ty with
  | 0 => [1, 11, 12, 13, 14, 15]
  | 1 => [1]
  | 2 => [1, 7, 12, 13, 14, 15]
  | _ => [1, 6, 7, 9, 10, 14, 15]

/-- The bases of a descriptor (R97). -/
def dBases (bs : List Byte) : List Nat :=
  match dType bs with
  | 0 => [descPair bs 2]
  | 2 => [descPair bs 2, descPair bs 8, descPair bs 10]
  | _ => [descPair bs 2, descPair bs 11]

/-- The strides of a descriptor: STRIDE1 to STRIDE3, SSTRIDE or MSTRIDE (R97). -/
def dStrides (bs : List Byte) : List Nat :=
  if dType bs = 2 then [] else [8, 9, 10, 13].map (descWord bs)

/-- ETY and scale accepted for the TYPE (R98's table). -/
def etyOk (bs : List Byte) : Bool :=
  let t := dTy bs
  match dType bs with
  | 0 => true
  | 1 =>
    bits (descWord bs 14) 31 16 == 0 && bits (descWord bs 14) 7 3 == 0 &&
    (match dScale bs with
     | 0 => dBlock bs == 32 && (t == .e4m3 || t == .e5m2 || t == .e3m2 || t == .e2m3 || t == .e2m1 || t == .i8)
     | 1 => dBlock bs == 8 && (t == .e2m1 || t == .e4m3)
     | 2 => dBlock bs == 32 && t == .i4
     | _ => false)
  | 2 => decide (dEty bs ≤ 8 ∨ 14 ≤ dEty bs)
  | _ => t == .e4m3 || t == .e2m1 || t == .i8 || t == .bf16

/-- The rank and extents a TYPE takes (R98). -/
def dimsOk (bs : List Byte) : Bool :=
  if dType bs = 2 then dRank bs == 1
  else
    (dType bs == 0 || dRank bs == 2) &&
    (List.range 4).all (fun k =>
      let d := descWord bs (4 + k)
      if k < dRank bs then decide (1 ≤ d ∧ d < 2 ^ 31) else d == 0) &&
    (!(dBits bs == 4 && dType bs != 3) || descWord bs 4 % 2 == 0) && (dType bs != 3 || descWord bs 4 % 32 == 0)

/-- A descriptor is well formed (R98). -/
def wellDesc (bs : List Byte) : Bool :=
  let w0 := descWord bs 0
  decide (dType bs ≤ 3) && bits w0 9 4 == 0 && bits w0 23 18 == 0 &&
  decide (1 ≤ dEty bs ∧ dEty bs ≤ 26) && (dQ bs == 0 || dTy bs == .fx64) &&
  (zeroWords (dType bs)).all (fun i => descWord bs i == 0) &&
  etyOk bs && dimsOk bs &&
  (dBases bs).all (fun b => decide (b < 2 ^ (if dSpace bs = 1 then 20 else 49))) &&
  (dBases bs ++ dStrides bs).all (fun b => b % dBytes bs == 0)

/-- The address or offset of an element's byte, none outside the extents (R97, R99, R244). -/
def elemAt (bs : List Byte) (i0 i1 i2 i3 : Nat) : Option Nat :=
  if i0 < dDim bs 0 ∧ i1 < dDim bs 1 ∧ i2 < dDim bs 2 ∧ i3 < dDim bs 3 then
    some (dBase bs + i0 * dBits bs / 8 + i1 * descWord bs 8 + i2 * descWord bs 9 + i3 * descWord bs 10)
  else none

/-! ## Tokens (R100, R101) -/

/-- The slot a token names and its snapshot; none where R101 raises STALEHDL. -/
def snapshot (t : Team) (tok : Word) : Option (Nat × List Byte) :=
  let slot := bits tok.toNat 3 0
  let h := t.handle slot
  if tok.extractLsb' 16 16 == t.check && h.valid && tok.extractLsb' 4 12 == h.gen then some (slot, h.desc) else none

/-- The token of a slot. -/
def tokenOf (t : Team) (slot : Nat) : Nat := t.check.toNat * 2 ^ 16 + (t.handle slot).gen.toNat * 16 + slot

/-- One action for a gang with an active present lane; nothing without (R238). -/
def onceFor (i : Instr) (c : Ctl) (s : State) (k : Env → LaneMask → Host.Outcome State Fault Refusal) :
    Host.Outcome State Fault Refusal :=
  instr i s (fun e lanes =>
    if e.flagFull c then .next e.s
    else if lanes &&& e.pres = 0 then .next (e.idle c e.s)
    else if e.accessHeld then .next e.s
    else k e lanes)

/-- A value for a destination in every active lane. -/
def Env.answer (e : Env) (c : Ctl) (d : RegCode) (width : Nat) (lanes : LaneMask) (v : Nat) : Flight :=
  { e.flight .result c with
    dst := some d, width, lanes, args := [(lanesOf (lanes &&& e.pres)).headD 128]
    vals := (lanesOf lanes).map (fun l => (l, v)) }

/-- The trap of an instruction that acts once: every active present lane has the cause and the address. -/
def Env.onceBad (e : Env) (lanes : LaneMask) (x : Cause × Nat) : State :=
  raiseBad e e.s ((lanesOf (lanes &&& e.pres)).map (fun l => (l, x.1, x.2 % 2 ^ 49)))

/-- THSET (R240); the descriptor's bytes are read as they stand, poisoned or not (log 102, the model's choice). -/
def execThset (c : Ctl) (slot : BitVec 4) (d a : RegCode) (s : State) : Host.Outcome State Fault Refusal :=
  onceFor (.thset c slot d a) c s (fun e lanes =>
    let off := (readReg e.g 0 a.toNat).toNat
    match checkPadSpan e.s e.g.team 64 off 64 with
    | some x => .next (e.onceBad lanes x)
    | none =>
      if lineBusy e.s e.gid (.pad e.g.team 0) then .next e.s
      else
        let bs := readBytes e.t.pad off 64
        let h := e.t.handle slot.toNat
        let t := e.t.setHandle slot.toNat ⟨true, h.gen + 1, bs⟩
        if wellDesc bs then
          .next (retire e (launchFlight (e.s.setTeam e.g.team t) (e.answer c d 4 lanes (tokenOf t slot.toNat))))
        else .next (retire e (launchFlight e.s (e.answer c d 4 lanes 0))))

/-- The Swage commands of a core, issued and not finished. -/
def Core.commands (k : Core) : List SwageCmd := k.swageQueue ++ k.swage.map (fun x => x.2)

/-- A command's snapshots came from a slot of a team (R241, R242). -/
def SwageCmd.uses (x : SwageCmd) (team slot : Nat) : Bool := x.team == team && (x.slotD == slot || x.slotS == slot)

/-- THGET's 128 bits (R241): INFLIGHT counts the commands issued, accepted or not, up to 64 (log 102, the model's choice). -/
def slotStatus (s : State) (core team slot : Nat) : Nat :=
  let t := s.team team
  let h := t.handle slot
  let n := min 64 ((s.core core).commands.filter (fun x => x.uses team slot)).length
  n * 2 ^ 64 + (if h.valid then 2 ^ 72 + descWord h.desc 0 * 2 ^ 32 + tokenOf t slot else 0)

/-- THGET (R241). -/
def execThget (c : Ctl) (d a : RegCode) (s : State) : Host.Outcome State Fault Refusal :=
  onceFor (.thget c d a) c s (fun e lanes =>
    let slot := (readReg e.g 0 a.toNat).toNat % 16
    .next (retire e (launchFlight e.s (e.answer c d 16 lanes (slotStatus e.s e.core e.g.team slot)))))

/-- Invalidate a slot and advance its generation (R100, R242). -/
def dropSlot (s : State) (team slot : Nat) : State :=
  let t := s.team team
  let h := t.handle slot
  s.setTeam team (t.setHandle slot { h with valid := false, gen := h.gen + 1 })

/-- THDROP without REVOKE (R242). -/
def execThdrop (c : Ctl) (a : RegCode) (s : State) : Host.Outcome State Fault Refusal :=
  onceFor (.thdrop c a) c s (fun e lanes =>
    match snapshot e.t (readReg e.g 0 a.toNat) with
    | none => .next (raiseAll e e.s .stalehdl (lanes &&& e.pres))
    | some (slot, _) => .next (retire e (launchFlight (dropSlot e.s e.g.team slot) (e.flight .result c))))

/-! ## A command's units -/

/-- An element, or byte of two 4-bit elements, to copy: its destination, none where its row is discarded; its source; the
halves of a single 4-bit element (R244 to R248). -/
structure Planned where
  dst : Option Nat
  src : CopySrc
  half : Option (Bool × Bool) := none

/-- A source element's address as a place still to be translated. -/
def srcOf (s : List Byte) (i0 i1 i2 i3 : Nat) : CopySrc :=
  match elemAt s i0 i1 i2 i3 with
  | some va => .at (.glob va)
  | none => .zero

/-- The first index of each unit in DIM0: every element, or every pair of 4-bit elements. -/
def unitIdx (d : List Byte) (n : Nat) : List Nat :=
  if dBits d = 4 then (List.range ((n + 1) / 2)).map (fun i => 2 * i) else List.range n

/-- CPY, and CPYR with COUNT 0 into slot `t` of the top dimension (R245, R248). -/
def planCopy (d s : List Byte) (slot : Option Nat) : List Planned :=
  let top := match slot with | some _ => dRank d - 1 | none => 4
  let t := slot.getD 0
  let ext := fun (k : Nat) => if k = top then 1 else dDim d k
  let at_ := fun (k i : Nat) => if k = top then t else i
  (List.range (ext 3)).flatMap (fun i3 => (List.range (ext 2)).flatMap (fun i2 =>
    (List.range (ext 1)).flatMap (fun i1 => (unitIdx d (ext 0)).map (fun i0 =>
      { dst := elemAt d (at_ 0 i0) (at_ 1 i1) (at_ 2 i2) (at_ 3 i3), src := srcOf s i0 i1 i2 i3
        half := if top = 0 ∧ dBits d = 4 then some (false, t % 2 == 1) else none }))))

/-- CPYG, and CPYR with an index vector into slot `t` (R246, R248). -/
def planGather (d s : List Byte) (idx : List Nat) (t : Nat) : List Planned :=
  ((idx.take (dDim d 1)).zip (List.range idx.length)).flatMap (fun x =>
    (unitIdx d (dDim d 0)).map (fun i0 =>
      { dst := elemAt d i0 x.2 t 0, src := if dType s = 2 then .csr x.1 i0 else srcOf s i0 x.1 0 0 }))

/-- CPYS, in ascending j (R247). -/
def planScatter (d s : List Byte) (idx : List Nat) : List Planned :=
  (idx.zip (List.range idx.length)).flatMap (fun x =>
    (unitIdx d (dDim d 0)).map (fun i0 =>
      { dst := if x.1 < dDim d 1 then elemAt d i0 x.1 0 0 else none
        src := if x.1 < dDim d 1 then srcOf s i0 x.2 0 0 else .zero }))

/-- The plan of a command of FN for a ring slot. -/
def planFor (fn : Nat) (d s : List Byte) (idx : List Nat) (gathers : Bool) (t : Nat) : List Planned :=
  match fn with
  | 3 => planCopy d s none
  | 4 => planGather d s idx 0
  | 5 => planScatter d s idx
  | _ => if gathers then planGather d s idx t else planCopy d s (some t)

/-! ## Checks at issue (R238, R244) -/

/-- RADD's element types (R247). -/
def raddType (d : List Byte) : Bool :=
  match dTy d with
  | .i32 | .n32 | .i64 | .n64 | .f32 => true
  | _ => false

/-- The shapes a command does not take (R244, R246 to R248). -/
def shapeBad (fn : Nat) (radd gathers : Bool) (d s : List Byte) (nslot total : Nat) : Bool :=
  let csr := dType s == 2
  dType d == 3 || dType s == 3 || dType d == 2 || (csr && fn != 4) ||
  (if csr then dTy d != .b64 || dType d != 0 || decide (32 < dBits s) else dBits s != dBits d) ||
  (gathers && ((!csr && dRank s != 2) || dRank d != (if fn = 6 then 3 else 2))) ||
  ((fn == 4 || fn == 6) && dSpace d == 0) || (fn == 5 && dSpace s == 0) ||
  (radd && !raddType d) || (fn == 6 && decide (dDim d (dRank d - 1) < nslot)) || decide (2 ^ 32 - 1 < total)

/-- What the checks find at one unit: its place, a claimed range or declared region (R244), or a failing check of R85. -/
inductive Spot where
  | ok (p : Place) (agg : Bool)
  | shape (a : Nat)
  | bad (c : Cause) (a : Nat)
  deriving DecidableEq, Repr

/-- Check and translate `n` bytes of a handle of a space. -/
def spot (s : State) (core ctx team : Nat) (inh : Bool) (need : Need) (space va n : Nat) : Spot :=
  if space = 1 then
    let t := s.team team
    if (s.launch t.launch).padBytes < va + n then .bad .addr va
    else if t.claims va n then .shape va
    else .ok (.pad team va) false
  else if 2 ^ 49 < va + n then .bad .addr (va % 2 ^ 49)
  else match mapAddr s core ctx inh need va with
    | .bad c => .bad c va
    | .ok pa l => if noRegion (regionHit s pa) then .ok (.glob pa) l.agg else .shape va

/-- A unit's destination, source, halves and its destination page's AGG bit. -/
abbrev LaidUnit := Option Place × CopySrc × Option (Bool × Bool) × Bool

/-- Units with their places; failures are collected. -/
structure Laid where
  units : List LaidUnit
  fails : List Spot

/-- Lay a plan out. -/
def layPlan (dst src : Nat → Spot) (plan : List Planned) : Laid :=
  plan.foldr (fun u r =>
    let a := u.dst.map dst
    let b := match u.src with | .at p => some (src p.addr) | _ => none
    let fails := (match a with | some (.ok _ _) | none => [] | some x => [x]) ++
      (match b with | some (.ok _ _) | none => [] | some x => [x])
    let (place, agg) := match a with | some (.ok p agg) => (some p, agg) | _ => (none, false)
    let from_ := match b with | some (.ok p _) => CopySrc.at p | _ => u.src
    ⟨(place, from_, u.half, agg) :: r.units, fails ++ r.fails⟩) ⟨[], []⟩

/-- The aligned 64-byte block of a place, as a key. -/
def blockKey (p : Option Place) : Option (Nat × Nat) :=
  match p with
  | none => none
  | some (.glob pa) => some (0, pa / 64)
  | some (.pad t o) => some (t + 1, o / 64)

/-- The moves of a laid plan: units of one destination block land together, in order; discarded ones are credited
(R247, R249). -/
def movesOf (n : Nat) (us : List LaidUnit) : List Move :=
  (distinct (us.map (fun u => blockKey u.1))).map (fun k =>
    let mine := us.filter (fun u => blockKey u.1 == k)
    { units := mine.filterMap (fun u => u.1.map (fun p => ⟨p, u.2.1, n, u.2.2.1, u.2.2.2⟩)), credit := n * mine.length })

/-- The moves of additions at a scratchpad, row by row of `w` units: they land in this order, ascending in j (R247). -/
def rowMoves (n w : Nat) (us : List LaidUnit) : List Move :=
  (List.range (us.length / max 1 w)).flatMap (fun j => movesOf n ((us.drop (j * w)).take w))

/-- The trap of laid plans: the shape first, then the page checks in the order of R85. -/
def spotTrap (shape : Bool) (fails : List Spot) : Option (Cause × Nat) :=
  match (fails.filterMap (fun f => match f with | .shape a => some a | _ => none)).head? with
  | some a => some (.prot, a)
  | none => if shape then some (.prot, 0)
    else firstOf (fails.map (fun f => match f with | .bad c a => some (c, a) | _ => none))

/-- A CSR source's arrays: base and bytes of RPTR, CIDX and VAL. -/
def csrArrays (s : List Byte) : List (Nat × Nat) :=
  let nnz := descWord s 6
  [(descPair s 2, 4 * (descWord s 4 + 1)), (descPair s 8, 4 * nnz), (descPair s 10, (nnz * dBits s + 7) / 8)]

/-- Spans of an array's bytes: where it lies in the scratchpad or through its pages. -/
def arraySpans (s : State) (core ctx : Nat) (space : Nat) (x : Nat × Nat) : List Span :=
  if space = 1 then [⟨0, x.1, x.2⟩] else (spansOf s core ctx x.1 x.2).map (fun p => p.1)

/-- What a command will do, laid out under the translations of the moment. -/
structure CopyPlan where
  trap : Option (Cause × Nat)
  total : Nat
  /-- moves by ring slot; one list for the other commands -/
  alts : List (List Move)
  spans : List (List Span)
  pages : List (Nat × Nat)

/-- The page an address lies in. -/
def pageOf (s : State) (core ctx va : Nat) : Option (Nat × Nat) :=
  match translate s core ctx va with
  | .ok l => some (va / 2 ^ l.size * 2 ^ l.size, l.size)
  | .bad _ => none

/-- Lay a command out and make the checks of R238 on its handles and elements. -/
def copyPlan (s : State) (core ctx team : Nat) (inh : Bool) (fn : Nat) (radd : Bool) (d src : List Byte)
    (idx : List Nat) (gathers : Bool) (nslot : Nat) : CopyPlan :=
  let n := dBytes d
  let plan0 := planFor fn d src idx gathers 0
  let total := plan0.length * n
  let need := if radd then Need.localWrite else .write
  let lay := fun (t : Nat) => layPlan (fun va => spot s core ctx team inh need (dSpace d) va n)
    (fun va => spot s core ctx team inh .read (dSpace src) va n) (planFor fn d src idx gathers t)
  let arrays := if dType src = 2 then csrArrays src else []
  let arrayFails := arrays.filterMap (fun x =>
    if dSpace src = 1 then
      (match spot s core ctx team inh .read 1 x.1 x.2 with | .ok _ _ => none | f => if x.2 = 0 then none else some f)
    else match checkSpan s core ctx inh .read (fun _ => true) 1 x.1 x.2 with
      | some (c, a) => some (.bad c a)
      | none => if (spansOf s core ctx x.1 x.2).any (fun p => s.regions.any (fun r =>
          spansMeet [p.1] (r.2.leaves ++ r.2.shadow))) then some (.shape x.1) else none)
  let bad := shapeBad fn radd gathers d src nslot total
  -- a shape that no element follows needs no elements laid out
  let laid := if bad then [] else (List.range (if fn = 6 then nslot else 1)).map lay
  let vas := fun (t : Nat) => (planFor fn d src idx gathers t).flatMap (fun u =>
    (if dSpace d = 0 then u.dst.toList else []) ++
    (if dSpace src = 0 then (match u.src with | .at p => [p.addr] | _ => []) else []))
  let arrayPages := if dSpace src = 1 then [] else
    arrays.flatMap (fun x => (spansOf s core ctx x.1 x.2).map (fun p => x.1 + p.1.off))
  { trap := spotTrap bad (laid.flatMap (fun l => l.fails) ++ arrayFails)
    total
    alts := laid.map (fun l =>
      if radd && dSpace d = 1 then rowMoves n (unitIdx d (dDim d 0)).length l.units else movesOf n l.units)
    spans := arrays.map (arraySpans s core ctx (dSpace src))
    pages := if bad then [] else
      distinct (((List.range (if fn = 6 then nslot else 1)).flatMap vas ++ arrayPages).filterMap (pageOf s core ctx)) }

/-- The words of an index vector in a team's scratchpad (R243). -/
def indexVector (t : Team) (iw : Nat) : List Word :=
  (List.range (bits iw 31 20)).map (fun j => BitVec.ofNat 32 (ofBytes (readBytes t.pad (bits iw 19 0 + 4 * j) 4)))

/-- The checks on an index vector (R243). -/
def indexCheck (s : State) (team iw : Nat) : Option (Cause × Nat) :=
  let off := bits iw 19 0
  if bits iw 31 20 = 0 then (if off % 4 ≠ 0 then some (.align, off) else none)
  else checkPadSpan s team 4 off (4 * bits iw 31 20)

/-- A copy command of FN (R238 to R249). -/
def copyCmd (i : Instr) (c : Ctl) (fn : Nat) (radd bgl : Bool) (a bs k : RegCode) (s : State) :
    Host.Outcome State Fault Refusal :=
  onceFor i c s (fun e lanes =>
    let tokD := readReg e.g 0 a.toNat
    let tokS := readReg e.g 0 bs.toNat
    let iw := if fn = 3 then 0 else (readReg e.g 0 ((if fn = 5 then a else bs).toNat + 1)).toNat
    match snapshot e.t tokD, snapshot e.t tokS with
    | some (slotD, d), some (slotS, src) =>
      let p := e.object bgl k
      let ring := fn == 6
      if lineBusy e.s e.gid (.pad e.g.team 0) || originsFull e.s e.core then .next e.s
      else match e.objCheck p 16 with
        | some x => .next (e.onceBad lanes x)
        | none =>
          let pbar := e.phys p
          let s := ownLine e.s e.core pbar
          let nslot := if ring then bits (readUnit s pbar).1 10 0 else 0
          let gathers := fn == 4 || fn == 5 || (ring && bits iw 31 20 != 0)
          match (match e.objCheck p (if ring then 16 + 16 * nslot else 16) with
            | some x => some x
            | none => if gathers then indexCheck e.s e.g.team iw else none) with
          | some x => .next (e.onceBad lanes x)
          | none =>
            let index := if gathers then indexVector e.t iw else []
            let cp := copyPlan e.s e.core e.ctx e.g.team e.inh fn radd d src (index.map (fun w => w.toNat)) gathers nslot
            match cp.trap with
            | some x => .next (e.onceBad lanes x)
            | none =>
              let s := touchTlb (settle s e.gid) e.core e.ctx (cp.pages.map (fun x => x.1))
              let id := s.nextId
              let (org, s) := takeOrigin e s 1
              let s := launchFlight s { e.flight .swage c with origin := some org }
              let cmd : SwageCmd := {
                flight := id, gid := e.gid, team := e.g.team, ctx := e.ctx, core := e.core, fn
                w0 := e.is.words.headD 0, w2 := (e.is.words.drop 2).headD 0, pc := e.is.pc, flag := e.is.flag c.fs
                origin := some org, snapD := d, snapS := src, slotD, slotS, index := BitVec.ofNat 32 iw :: index
                bar := p, pbar
                slotBars := (List.range nslot).map (fun i => e.unitAt p (16 + 16 * i))
                permit := none, waiting := ring, accepted := false, total := cp.total
                alts := if ring then cp.alts else []
                moves := if ring then [] else cp.alts.headD []
                rptr := cp.spans.headD [], cidx := cp.spans.getD 1 [], val := cp.spans.getD 2 []
                pages := distinct (cp.pages ++ e.barPages (p :: (List.range nslot).map (fun i => p.plus (16 + 16 * i))))
                refused := false }
              let q := s.core e.core
              .next (retire e (s.setCore e.core { q with swageQueue := q.swageQueue ++ [cmd] }))
    | _, _ => .next (raiseAll e e.s .stalehdl (lanes &&& e.pres)))

/-- CPY (R245). -/
def execCpy (c : Ctl) (bgl : Bool) (a bs k : RegCode) (s : State) : Host.Outcome State Fault Refusal :=
  copyCmd (.cpy c bgl a bs k) c 3 false bgl a bs k s

/-- CPYG (R246). -/
def execCpyg (c : Ctl) (bgl : Bool) (a bs k : RegCode) (s : State) : Host.Outcome State Fault Refusal :=
  copyCmd (.cpyg c bgl a bs k) c 4 false bgl a bs k s

/-- CPYS (R247). -/
def execCpys (c : Ctl) (bgl : Bool) (a bs k : RegCode) (s : State) : Host.Outcome State Fault Refusal :=
  copyCmd (.cpys c bgl a bs k) c 5 false bgl a bs k s

/-- CPYS.RADD (R247). -/
def execCpysRadd (c : Ctl) (bgl : Bool) (a bs k : RegCode) (s : State) : Host.Outcome State Fault Refusal :=
  copyCmd (.cpysRadd c bgl a bs k) c 5 true bgl a bs k s

/-- CPYR (R248). -/
def execCpyr (c : Ctl) (bgl : Bool) (a bs k : RegCode) (s : State) : Host.Outcome State Fault Refusal :=
  copyCmd (.cpyr c bgl a bs k) c 6 false bgl a bs k s

/-! ## Landing -/

/-- Bytes an engine of a core reads at a place, and whether they are poisoned (R122, R380). -/
def engineRead (s : State) (core : Nat) (p : Place) (n : Nat) : List Byte × Bool × State :=
  match p with
  | .glob pa => readThrough s core pa n
  | .pad t off => (readBytes (s.team t).pad off n, (s.team t).padBad off n, s)

/-- The place of a distance into a CSR array of a command. -/
def SwageCmd.arrayAt (x : SwageCmd) (xs : List Span) (d : Nat) : Place :=
  if dSpace x.snapS = 1 then .pad x.team (spanAt xs d) else .glob (spanAt xs d)

/-- Bytes of a CSR array, one by one: an entry may lie across pages (R98 asks no more than the element's alignment). -/
def arrayRead (s : State) (x : SwageCmd) (xs : List Span) (d n : Nat) : List Byte × Bool × State :=
  (List.range n).foldl (fun acc i =>
    let (bs, bad, s) := engineRead acc.2.2 x.core (x.arrayAt xs (d + i)) 1
    (acc.1 ++ bs, acc.2.1 || bad, s)) ([], false, s)

/-- The padding record of a CSR gather (R246). -/
def paddingRecord : Nat := 0xFFFFFFFF

/-- Entry `i0` of row `r` of a CSR source as an 8-byte record (R99, R246). -/
def csrRecord (s : State) (x : SwageCmd) (r i0 : Nat) : Nat × Bool × State :=
  let h := x.snapS
  if descWord h 4 ≤ r then (paddingRecord, false, s)
  else
    let (lo, b1, s) := arrayRead s x x.rptr (4 * r) 4
    let (hi, b2, s) := arrayRead s x x.rptr (4 * r + 4) 4
    let p := ofBytes lo + i0
    if ofBytes hi ≤ p ∨ descWord h 6 ≤ p then (paddingRecord, b1 || b2, s)
    else
      let (col, b3, s) := arrayRead s x x.cidx (4 * p) 4
      if descWord h 5 ≤ ofBytes col then (paddingRecord, b1 || b2 || b3, s)
      else
        let w := dBits h
        let (v, b4, s) := arrayRead s x x.val (p * w / 8) (dBytes h)
        let v := if w = 4 then ofBytes v / 16 ^ (p % 2) % 16 else ofBytes v
        (ofBytes col + v * 2 ^ 32, b1 || b2 || b3 || b4, s)

/-- The value a unit copies. -/
def unitValue (s : State) (x : SwageCmd) (u : CopyUnit) : Nat × Bool × State :=
  match u.src with
  | .zero => (0, false, s)
  | .at p => let (bs, bad, s) := engineRead s x.core p u.n; (ofBytes bs, bad, s)
  | .csr r i0 => csrRecord s x r i0

/-- A command adds (CPYS.RADD): bit 1 of word 2 with FN 5 (R239). -/
def SwageCmd.adds (x : SwageCmd) : Bool := x.fn == 5 && x.w2.getLsbD 1

/-- A move of additions at a scratchpad lands after every earlier one, so that they are applied in ascending j (R247). -/
def SwageCmd.waitsRow (x : SwageCmd) (move : Nat) : Bool :=
  x.adds && dSpace x.snapD == 1 && (x.moves.take move).any (fun m => !m.landed)

/-- Land one unit; answers whether it failed: its data was poisoned, or its link is down; nothing is written then (R247, R251,
R377). -/
def landUnit (s : State) (x : SwageCmd) (u : CopyUnit) : Bool × State :=
  let (v, bad, s) := unitValue s x u
  if bad || s.lost u.dst then (true, s)
  else if x.adds then
    let ty := dTy x.snapD
    match u.dst with
    | .glob pa =>
      -- a region declared since is held in no L1 (R206), nor is an AGG page (R325)
      if u.agg then (false, racePath (redHome s x.core pa ⟨0, ty⟩ v) pa)
      else if noRegion (regionHit s pa) then (false, redGather s x.core pa ⟨0, ty⟩ v)
      else (false, engineWrite s x.core u.dst (toBytes (combine 0 ty (ofBytes (homeBytes s pa u.n)) v) u.n))
    | .pad t off =>
      let old := ofBytes (readBytes (s.team t).pad off u.n)
      (false, s.writePad t off (toBytes (combine 0 ty old v) u.n))
  else
    match u.half with
    | none => (false, engineWrite s x.core u.dst (toBytes v u.n))
    | some (hs, hd) =>
      let (old, _, s) := engineRead s x.core u.dst 1
      let nib := v / 16 ^ b2n hs % 16
      let old := ofBytes old
      (false, engineWrite s x.core u.dst (toBytes (if hd then old % 16 + 16 * nib else old / 16 * 16 + nib) 1))

/-- Land the units of a move, in order, up to the first that fails: where it fails, and the state after; the sectors they
cover whole are poisoned no more (R380). -/
def landMove (s : State) (x : SwageCmd) (m : Move) : Option Place × State :=
  let (bad, s) := m.units.foldl (fun acc u =>
    match acc.1 with
    | some p => (some p, acc.2)
    | none => let (b, s) := landUnit acc.2 x u; (if b then some u.dst else none, s)) (none, s)
  (bad, if x.adds || bad.isSome then s
    else coverPlaces s x.core ((m.units.filter (fun u => u.half.isNone)).map (fun u => (u.dst, u.n))))

/-- A write of the group before an identifier is still to be performed: a command reads after it (R122). -/
def writesOpen (s : State) (gid upTo : Nat) : Bool :=
  (flightsOf s gid).any (fun f => f.1 < upTo && f.2.open && f.2.kind != .load)

/-- Take a command out of the Swage: its store-origin entry is freed, and its flag if it was not accepted. -/
def endCommand (s : State) (x : SwageCmd) : State :=
  let k := s.core x.core
  let s := s.setCore x.core { k with
    swageQueue := k.swageQueue.filter (fun y => y.flight != x.flight)
    swage := k.swage.filter (fun y => y.2.flight != x.flight) }
  complete (ackOrigin s x.core x.origin) x.flight

/-- A command or request without a store-origin entry takes a free one; none where the table is full (R310). -/
def newOrigin (s : State) (core gid : Nat) (pc : VAddr) : Option (Nat × State) :=
  let k := s.core core
  let g := s.group gid
  let t := s.team g.team
  let l := s.launch t.launch
  ((List.range 256).find? (fun i => (aget? k.origins i).isNone)).map (fun id =>
    (id, s.setCore core { k with origins := aset k.origins id ⟨pc, g.idx, t.teamid, l.id, l.ctx, true, 1⟩ }))

/-- SWAGE_ACCEPT: the oldest issued command takes a free slot and its flag clears; one without bytes is complete
(R238); a command accepted again at resumption first takes a store-origin entry, where it could not before (R310). -/
def execSwageAccept (core : Nat) (s : State) : Host.Outcome State Fault Refusal :=
  let k := s.core core
  match k.swageQueue with
  | [] => .next s
  | x :: rest =>
    match (List.range 64).find? (fun i => (aget? k.swage i).isNone) with
    | none => .next s
    | some slot =>
      if x.moves.isEmpty && !x.waiting then .next (endCommand s x)
      else
        match (if x.origin.isSome then some (x.origin.getD 0, s) else newOrigin s core x.gid x.pc) with
        | none => .next s
        | some (org, s) =>
          let k := s.core core
          .next (complete (s.setCore core { k with
            swageQueue := rest, swage := aset k.swage slot { x with accepted := true, origin := some org } }) x.flight)

/-- CPYR_PERMIT: a waiting CPYR takes permit PUT once one is free, and expects its bytes on the slot's barrier (R248); one a
shootdown has refused takes none (R251, R328). -/
def execCpyrPermit (core cmd : Nat) (s : State) : Host.Outcome State Fault Refusal :=
  let k := s.core core
  match aget? k.swage cmd with
  | none => .next s
  | some x =>
    let first := !k.swage.any (fun y => y.2.waiting && y.2.pbar == x.pbar && decide (y.2.flight < x.flight))
    let (v, s') := readUnit s x.pbar
    let put := bits v 95 64
    let out := (put + 2 ^ 32 - bits v 127 96) % 2 ^ 32
    if x.waiting && !x.refused && first && x.alts.length != 0 && decide (out < bits v 10 0) then
      let slot := put % x.alts.length
      let s := writeUnit s' x.pbar (toBytes (bits v 63 0 + (put + 1) % 2 ^ 32 * 2 ^ 64 + bits v 127 96 * 2 ^ 96) 16)
      let s := updateObj s (x.slotBars.getD slot x.pbar) (fun o => { o with bexp := (o.bexp + x.total) % 2 ^ 32 })
      let k := s.core core
      .next (s.setCore core { k with swage := aset k.swage cmd { x with
        waiting := false, permit := some (BitVec.ofNat 32 put), alts := [], moves := x.alts.getD slot [] } })
    else .next s

/-- The barrier a command credits (R248, R249). -/
def SwageCmd.credits (x : SwageCmd) : Place :=
  match x.permit with
  | some t => x.slotBars.getD (t.toNat % max 1 x.slotBars.length) x.pbar
  | none => x.pbar

/-- The name by which the command's team knows the barrier it credits. -/
def SwageCmd.creditName (x : SwageCmd) : Place :=
  match x.permit with
  | some t => x.bar.plus (16 + 16 * (t.toNat % max 1 x.slotBars.length))
  | none => x.bar

/-- SWAGE_CREDIT: units of a command land; once they have landed, their bytes are credited. With its last credit a command
leaves its slot, a CPYR adding one arrival (R238, R248, R249). Data that is poisoned, or that a dead link carries, is an
imprecise fault (R251, R377). -/
def execSwageCredit (core cmd move : Nat) (s : State) : Host.Outcome State Fault Refusal :=
  match aget? (s.core core).swage cmd with
  | none => .next s
  | some x =>
    match x.moves[move]? with
    | none => .next s
    | some m =>
      if x.waiting || x.refused || writesOpen s x.gid x.flight || (!m.landed && x.waitsRow move) then .next s
      else if !m.landed then
        match landMove s x m with
        | (some p, s) => .next (impreciseFault s core x.origin x.ctx .poison (pageAddr s x.ctx x.pages p))
        | (none, s) =>
          let k := s.core core
          .next (s.setCore core { k with swage := aset k.swage cmd { x with
            moves := x.moves.set move { m with landed := true } } })
      else
        let rest := x.moves.eraseIdx move
        let s := creditObj s core x.credits m.credit (if x.fn = 6 ∧ rest.isEmpty then 1 else 0)
        if rest.isEmpty then .next (endCommand s x)
        else
          let k := s.core core
          .next (s.setCore core { k with swage := aset k.swage cmd { x with moves := rest } })

/-- The barriers that the Swage commands of a team that use a slot would still credit, each with the team's name for it
(R242); a queued command of no bytes names its barrier as well (log 102, the model's choice). -/
def revokedBars (s : State) (core team slot : Nat) : List (Place × Place) :=
  ((s.core core).commands.filter (fun x => x.uses team slot && !x.waiting)).foldl (fun bs x =>
    if bs.any (fun b => b.1 == x.credits) then bs else bs ++ [(x.credits, x.creditName)]) []

/-- Abort the Swage commands of a team that use a slot, and force each barrier one of them would credit, at the clock of the
group that drops it (R242, R283). -/
def revokeCopies (s : State) (core team slot : Nat) (clk : DWord) : State :=
  let bars := revokedBars s core team slot
  let s := ((s.core core).commands.filter (fun x => x.uses team slot)).foldl endCommand s
  bars.foldl (fun s b => forceObj s core b.1 ⟨team, clk, b.2⟩) s

end Sys2Proof.Machine
end

