-- ==== Sys2Proof/Machine/Anvil.lean ====
section
/-!
DEFINITION. The Anvil matrix engine (R254 to R277): MRSV, MREL, MPRI, MZERO, MMA, MMAT, MLD, MST, THDROP.REVOKE (R242),
and the events that grant, commit, suspend and trigger its requests.
-/
namespace Sys2Proof.Machine

/-! ## Status words (R255) -/

/-- Put a field into a status word. -/
def putField (v : BitVec 128) (hi lo x : Nat) : BitVec 128 :=
  (v &&& ~~~ BitVec.ofNat 128 ((2 ^ (hi + 1 - lo) - 1) * 2 ^ lo)) ||| BitVec.ofNat 128 (x % 2 ^ (hi + 1 - lo) * 2 ^ lo)

/-- Change a tile of a team. -/
def updTile (s : State) (team tile : Nat) (f : Tile → Tile) : State :=
  match aget? s.teams team with
  | some t => s.setTeam team (t.setTile tile (f (t.tile tile)))
  | none => s

/-- Set K, and PC of the request in progress (R255). -/
def Tile.noteK (t : Tile) (k : Nat) : Tile := { t with status := putField t.status 127 96 k }
def Tile.notePc (t : Tile) (pc : VAddr) : Tile := { t with status := putField t.status 95 49 (pc.toNat / 4) }

/-- Clear K, CAUSE, FLT and ABT (R270, R273). -/
def Tile.cleared (t : Tile) : Tile := { t with status := putField (putField t.status 127 96 0) 48 39 0 }

/-- ABT := 1 (R276); of a suspended request FLT and CAUSE clear, as none is suspended any more (R255). -/
def Tile.aborted (t : Tile) (r : Request) : Tile :=
  let t := if r.suspended then { t with status := putField t.status 48 40 0 } else t
  { t with status := putField t.status 39 39 1 }

/-- The aborted request is the one of which the tile tells: its PC and, when a pass of it has run, its next step (R255,
R276). -/
def Tile.lastAborted (t : Tile) (r : Request) : Tile :=
  let t := (t.aborted r).notePc r.pc
  if r.ran then t.noteK r.k else t

/-- Another request on the tile is in progress or suspended: K, PC, CAUSE and FLT are that one's (R255). -/
def otherBegun (s : State) (cl : Nat) (r : Request) : Bool :=
  (s.cluster cl).table.any (fun x => x.id != r.id && x.team == r.team && x.tile == r.tile &&
    (x.ran || x.suspended || (s.cluster cl).runs x))

/-- A request leaves the table aborted or discarded: its tile's status takes it (R276). -/
def noteAbort (s : State) (cl : Nat) (r : Request) : State :=
  updTile s r.team r.tile (fun t => if otherBegun s cl r then t.aborted r else t.lastAborted r)

/-- The status word as software meets it: PEND counts the requests that name the tile (R255). -/
def tileStatus (s : State) (team tile : Nat) : BitVec 128 :=
  let t := s.team team
  let n := ((s.cluster (t.core / 4)).table.filter (fun r => r.team = team && r.tile = tile)).length
  putField (t.tile tile).status 6 0 n

/-! ## Formats (R259 to R263) -/

/-- The family of an operand: 0 plain, 1 MX, 2 fine-block, 3 2:4 sparse; none for a CSR handle. -/
def family (h : List Byte) : Option Nat :=
  match dType h with
  | 0 => some 0
  | 1 => some (if dScale h = 0 then 1 else 2)
  | 3 => some 3
  | _ => none

/-- Plain formats that the Anvil takes, by class of R262's table. -/
def isFp8 (t : Ty) : Bool := t == .e4m3 || t == .e5m2 || t == .e3m2 || t == .e2m3 || t == .e2m1

/-- The accumulator of a pair of formats, none where the pair is not legal (R262). -/
def pairAcc (fa : Nat) (a : Ty) (fb : Nat) (b : Ty) : Option Ty :=
  let plainA := fa == 0 || fa == 3
  if plainA && fb == 0 then
    match a, b with
    | .f64, .f64 => some .f64
    | .f32, .f32 | .tf32, .tf32 | .bf16, .bf16 | .f16, .f16 => some .f32
    | .i16, .i16 => some .i32
    | _, _ =>
      if isFp8 a && isFp8 b then some .f32
      else if (a == .i8 || a == .n8) && (b == .i8 || b == .n8) then some .i32
      else if (a == .i4 || a == .n4) && (b == .i4 || b == .n4) then some .i32
      else none
  else if fa == 1 && fb == 1 then
    (if (isFp8 a && isFp8 b) || (a == .i8 && b == .i8) then some .f32 else none)
  else if fa == 2 && fb == 2 then
    (if (a == .i4) == (b == .i4) then some .f32 else none)
  else none

/-- Step length and clocks of a pass (R259). -/
def passRate (a b : List Byte) : Nat × Nat :=
  let sparse := dType a == 3
  let half := fun (n : Nat) => if sparse then n / 2 else n
  if dTy a == .tf32 then (8, 4)
  else match max (dBits a) (dBits b) with
    | 4 => (32, half 2)
    | 8 => (32, half 4)
    | 16 => (32, half 8)
    | 32 => (8, 16)
    | _ => (8, 64)

/-- The accumulator of two handles that meet R260 to R262 on a tile. -/
def mmaAcc (a b : List Byte) (wide : Bool) : Option Ty :=
  let axis := fun (h : List Byte) => dType h == 1 && bitOf (descWord h 14) 2
  match family a, family b with
  | some fa, some fb =>
    match pairAcc fa (dTy a) fb (dTy b) with
    | some acc =>
      if dRank a = 2 ∧ dRank b = 2 ∧ dSpace a = 1 ∧ !axis a ∧ !axis b ∧ (acc == .f64) = wide then some acc else none
    | none => none
  | _, _ => none

/-! ## Operand bytes -/

/-- The byte runs of a line of an operand for K indices from `lo` below `hi`, each with its alignment: elements, scales,
metadata words (R97, R266). -/
def lineRuns (h : List Byte) (line lo hi : Nat) : List (Nat × Nat × Nat) :=
  if hi ≤ lo then []
  else
    let w := dBits h
    if dType h = 3 then
      let p0 := lo / 4 * 2
      let p1 := (hi - 1) / 4 * 2 + 2
      let a := dBase h + line * descWord h 8
      [(a + p0 * w / 8, (p1 * w + 7) / 8 - p0 * w / 8, dBytes h),
       (descPair h 11 + line * descWord h 13 + lo / 32 * 4, ((hi - 1) / 32 - lo / 32 + 1) * 4, 4)]
    else
      let a := dBase h + line * descWord h 8
      let elems := (a + lo * w / 8, (hi * w + 7) / 8 - lo * w / 8, dBytes h)
      if dType h = 1 then
        let sb := if dScale h = 2 then 2 else 1
        let b0 := lo / dBlock h
        let b1 := min ((hi - 1) / dBlock h + 1) (descWord h 15)
        elems :: (if b0 < b1 then [(descPair h 11 + line * descWord h 13 + b0 * sb, (b1 - b0) * sb, sb)] else [])
      else [elems]

/-- The lines of a tile edge within a handle's DIM1. -/
def tileLines (h : List Byte) (m0 : Nat) : List Nat :=
  (List.range 128).filterMap (fun i => if m0 + i < dDim h 1 then some (m0 + i) else none)

/-- A byte source: the bytes of a run and whether one is poisoned. -/
abbrev Reader := Nat → Nat → List Byte × Bool

/-- The code of an element of a line. -/
def elemCode (rd : Reader) (h : List Byte) (line q : Nat) : Nat × Bool :=
  let w := dBits h
  let (bs, bad) := rd (dBase h + line * descWord h 8 + q * w / 8) (dBytes h)
  (if w = 4 then ofBytes bs / 16 ^ (q % 2) % 16 else ofBytes bs, bad)

/-- The scale of a block of a line: 1.0 at or beyond SEXT (R69, R72, R97). -/
def blockScale (rd : Reader) (h : List Byte) (line b : Nat) : FVal × Bool :=
  if descWord h 15 ≤ b then (.fin false 1 0, false)
  else
    let kind := match dScale h with | 0 => ScaleKind.e8m0 | 1 => .e5m3u | _ => .f16
    let sb := if dScale h = 2 then 2 else 1
    let (bs, bad) := rd (descPair h 11 + line * descWord h 13 + b * sb) sb
    (scaleVal kind (ofBytes bs), bad)

/-- The unmasked elements of a line of a step: K offset in the step and exact value (R71, R72, R264). -/
def stepLine (rd : Reader) (h : List Byte) (line k n k1 : Nat) : List (Nat × FVal) × Bool :=
  let hi := min (k + n) (min k1 (dDim h 0))
  if dDim h 1 ≤ line ∨ hi ≤ k then ([], false)
  else if dType h = 3 then
    let (m, bad0) := rd (descPair h 11 + line * descWord h 13 + k / 32 * 4) 4
    let meta_ := ofBytes m
    (List.range (n / 2)).foldl (fun acc i =>
      let p := i / 2 * 4 + meta_ / 4 ^ i % 4
      if k + p < hi then
        let (c, bad) := elemCode rd h line (k / 2 + i)
        (acc.1 ++ [(p, elemVal (dTy h) false c)], acc.2 || bad)
      else acc) ([], bad0)
  else
    (List.range (hi - k)).foldl (fun acc i =>
      let (c, bad) := elemCode rd h line (k + i)
      let v := elemVal (dTy h) (dType h == 1 && dScale h == 0) c
      if dType h = 1 then
        let (sc, bad') := blockScale rd h line ((k + i) / dBlock h)
        (acc.1 ++ [(i, mulV v sc)], acc.2 || bad || bad')
      else (acc.1 ++ [(i, v)], acc.2 || bad)) ([], false)

/-- The products of a row and a column (R82). -/
def products (row col : List (Nat × FVal)) : List FVal :=
  row.filterMap (fun x => (aget? col x.1).map (fun y => mulV x.2 y))

/-- A pass over a tile: KSTEP of every element (R82, R264); true where an integer step saturated. -/
def passTile (acc : Ty) (t : Tile) (rows cols : List (List (Nat × FVal))) : Tile × Bool :=
  let (es, ovf) := (rows.zip (List.range 128)).foldl (fun st r =>
    (cols.zip (List.range 128)).foldl (fun st c =>
      let key := 128 * r.2 + c.2
      let (v, fl) := kstep acc (Store.get t.elems key).toNat (products r.1 c.1)
      (Store.set st.1 key (BitVec.ofNat 64 v), st.2 || fl.ovf)) st) (t.elems, false)
  ({ t with elems := es }, ovf)

/-! ## Engine reads (R123) -/

/-- The bytes a request reads through a translation: `place` gives where an address lies. -/
def readerAt (s : State) (core team space : Nat) (place : Nat → Nat) : Reader := fun va n =>
  if space = 1 then (readBytes (s.team team).pad va n, (s.team team).padBad va n)
  else
    let one := fun (a : Nat) =>
      let pa := place a
      let x := (s.core core).line (lineOf pa)
      ((overlay x s.mem (lineOf pa) (pa % 256) 1).headD 0, x.poisons s pa 1)
    let xs := (List.range n).map (fun i => one (va + i))
    (xs.map (fun x => x.1), xs.any (fun x => x.2))

/-- The addresses of an operand's runs at which a page, a declared region or a sector may begin: pages and regions begin at
multiples of 64 (R200, R321). -/
def runPoints (runs : List (Nat × Nat × Nat)) : List Nat :=
  distinct (runs.flatMap (fun r => r.1 ::
    ((List.range (r.2.1 / 64 + 1)).map (fun i => r.1 / 64 * 64 + 64 * (i + 1))).filter (fun a => decide (a < r.1 + r.2.1))))

/-- The first failing check of a streamed read, in the order of R85. -/
def streamFault (s : State) (r : Request) (points : List Nat) : Option (Cause × Nat) :=
  firstOf (points.map (fun a =>
    if 2 ^ 49 ≤ a then some (.addr, a % 2 ^ 49)
    else match mapAddr s r.core r.ctx r.inh .read a with
      | .bad c => some (c, a)
      | .ok pa _ => if noRegion (regionHit s pa) then none else some (.prot, a)))

/-- The physical place of a streamed read. -/
def streamPlace (s : State) (r : Request) (va : Nat) : Nat :=
  match mapAddr s r.core r.ctx r.inh .read va with
  | .ok pa _ => pa
  | .bad _ => 0

/-- Runs of B that a step of a request reads. -/
def stepRuns (r : Request) : List (Nat × Nat × Nat) :=
  let n := (passRate r.snapA r.snapB).1
  (tileLines r.snapB ((r.record.getD 1 0).toNat)).flatMap (fun ln =>
    lineRuns r.snapB ln r.k (min (r.k + n) (min (r.record.getD 3 0).toNat (dDim r.snapB 0))))

/-- The fault that a streamed B read of a request's next step meets (R275). -/
def stepFault (s : State) (r : Request) : Option (Cause × Nat) :=
  if dSpace r.snapB = 1 then none else streamFault s r (runPoints (stepRuns r))

/-! ## The reservation table -/

/-- A kind that runs in passes. -/
def ReqKind.passes : ReqKind → Bool
  | .mma | .mmat => true
  | _ => false

/-- An error of a request that is fatal to the context (R251, R275): recorded from its store-origin entry where it has
one. -/
def requestFatal (s : State) (r : Request) (c : Cause) (addr : Nat) : State :=
  match r.origin with
  | some _ => impreciseFault s r.core r.origin r.ctx c addr
  | none =>
    let t := s.team r.team
    let g := s.group r.gid
    contextFatal s r.ctx
      { cause := c.code, imprecise := true, exited := (aget? s.groups r.gid).isNone || g.allEnded
        launchid := (s.launch t.launch).id.toNat, teamid := t.teamid, groupid := g.idx, addr, core := r.core
        inc := (s.core r.core).incarnation, pc := r.pc }

/-- A request leaves the table: its flags are set in its group, its flag completes for it, and a THDROP that waited for it
completes (R80, R256, R276). -/
def leaveTable (s : State) (cl : Nat) (r : Request) : State :=
  let c := s.cluster cl
  let s := s.setCluster cl { c with
    table := c.table.filter (fun x => x.id != r.id), running := c.running.filter (fun u => u.req != r.id) }
  let s := stickyGroup s r.gid { ovf := r.ovf, inv := r.inv }
  let s := ackOrigin s r.core r.origin
  -- the flag of a suspended request has already counted as completed (R275)
  let s := if r.suspended then s.dropFlight r.flight else complete s r.flight
  let s := r.revokers.foldl complete s
  s.markEligible cl

/-- A request leaves the table aborted or discarded: ABT := 1 (R276). -/
def discardRequest (s : State) (cl : Nat) (r : Request) : State :=
  let s := if (s.cluster cl).detached r then s else noteAbort s cl r
  leaveTable s cl r

/-- Abort a request: at once, or once its running unit has committed (R276). -/
def abortRequest (s : State) (cl : Nat) (r : Request) (by_ : Option Nat) : State :=
  let c := s.cluster cl
  if c.runs r then
    s.setCluster cl { c with table := c.table.map (fun x =>
      if x.id = r.id then { x with aborted := true, revokers := x.revokers ++ by_.toList } else x) }
  else discardRequest s cl r

/-- Entries of a core in the table (R256). -/
def usedEntries (s : State) (core : Nat) : Nat :=
  ((s.cluster (core / 4)).table.filter (fun r => r.core = core)).length

/-- Enter a request with a flight that marks its flag (R256, R266). -/
def enterRequest (e : Env) (s : State) (c : Ctl) (r : Request) : State :=
  let id := s.nextId
  let s := launchFlight s { e.flight .anvil c with origin := r.origin }
  let cl := s.cluster (e.core / 4)
  (s.setCluster (e.core / 4) { cl with table := cl.table ++ [{ r with id, flight := id }] }).markEligible (e.core / 4)

/-- A request with what every one carries. -/
def Env.request (e : Env) (c : Ctl) (kind : ReqKind) (tile : Nat) : Request :=
  { id := 0, flight := 0, gid := e.gid, team := e.g.team, ctx := e.ctx, core := e.core, kind, tile
    w0 := e.is.words.headD 0, w2 := (e.is.words.drop 2).headD 0, pc := e.is.pc, flag := e.is.flag c.fs, inh := e.inh }

/-- One action of a gang with an active present lane; without one nothing, and no flag is marked (R266). -/
def anvilOnce (i : Instr) (s : State) (k : Env → LaneMask → Host.Outcome State Fault Refusal) :
    Host.Outcome State Fault Refusal :=
  instr i s (fun e lanes => if lanes &&& e.pres = 0 then .next (retire e e.s) else k e lanes)

/-! ## Tiles -/

/-- Physical tiles of a mapped logical tile. -/
def Tile.phys (t : Tile) : Nat := if t.mapped then (if t.wide then 2 else 1) else 0

/-- Free physical tiles of a cluster (R254). -/
def freeTiles (s : State) (cl : Nat) : Nat :=
  let held := s.teams.foldl (fun n e => if e.2.core / 4 = cl then
    e.2.tiles.foldl (fun n t => n + t.2.phys) n else n) 0
  let gone := match (s.cluster cl).running with
    | some u => (match u.gone with | some t => t.phys | none => 0)
    | none => 0
  32 - (held + gone)

/-- Free physical tiles of a cluster that no waiting unit has reserved (R344). -/
def openTiles (s : State) (cl : Nat) : Nat :=
  s.parts.foldl (fun n p => match p.2.wait with
    | some w => w.target.foldl (fun n t => if t.1 / 4 = cl then min n t.2.tiles else n) n
    | none => n) (freeTiles s cl)

/-- Physical tiles of a cluster that no waiting unit has reserved are taken. -/
def takeTiles (s : State) (cl n : Nat) : State :=
  { s with parts := s.parts.map (fun p => (p.1, { p.2 with wait := p.2.wait.map (fun w =>
      { w with target := w.target.map (fun t =>
          if t.1 / 4 = cl then (t.1, { t.2 with tiles := t.2.tiles - n }) else t) }) })) }

/-- The logical tiles of a mask. -/
def tilesOf (m : Word) : List Nat := (List.range 8).filter m.getLsbD

/-- A tile as MRSV hands it out: zeroed, with its status (R254, R267). -/
def freshTile (wide : Bool) (prio : Nat) : Tile :=
  { mapped := true, wide, prio, elems := [], poisoned := false
    status := BitVec.ofNat 128 (b2n wide * 2 ^ 38 + prio * 2 ^ 35 + 2 ^ 34) }

/-- MRSV (R267), from the tiles that no waiting unit has reserved (R344). -/
def execMrsv (c : Ctl) (wide : Bool) (pd : PredCode) (a bs : RegCode) (s : State) : Host.Outcome State Fault Refusal :=
  anvilOnce (.mrsv c wide pd a bs) s (fun e lanes =>
    let ts := tilesOf (readReg e.g 0 a.toNat)
    let prio := bits (readReg e.g 0 bs.toNat).toNat 2 0
    let n := ts.length * (if wide then 2 else 1)
    let ok := !ts.isEmpty && ts.all (fun i => !(e.t.tile i).mapped) && decide (n ≤ openTiles e.s (e.core / 4))
    let s := if ok then
        ts.foldl (fun s i => updTile s e.g.team i (fun _ => freshTile wide prio)) (takeTiles e.s (e.core / 4) n)
      else e.s
    let s := overtake s e.gid (writtenKeys (regsOf (.mrsv c wide pd a bs)) lanes e.pres)
    let g := (lanesOf lanes).foldl (fun g l => writePred g l pd ok) (s.group e.gid)
    .next (retire e (s.setGroup e.gid g)))

/-- Requests of a team's tile that count for PEND. -/
def requestsOn (s : State) (cl team tile : Nat) : List Request :=
  let c := s.cluster cl
  c.table.filter (fun r => r.team = team && r.tile = tile && !c.detached r)

/-- Release a mapped tile: its requests are discarded, a running unit keeps the tile until it commits (R268). -/
def releaseTile (s : State) (cl team tile : Nat) : State :=
  let s := (requestsOn s cl team tile).foldl (fun s r => abortRequest s cl r none) s
  let t := (s.team team).tile tile
  let c := s.cluster cl
  let onIt := (requestsOn s cl team tile).any c.runs
  let s := if onIt then s.setCluster cl { c with running := c.running.map (fun u => { u with gone := some t }) } else s
  (updTile s team tile (fun _ => {})).markEligible cl

/-- MREL (R268). -/
def execMrel (c : Ctl) (a bs : RegCode) (s : State) : Host.Outcome State Fault Refusal :=
  anvilOnce (.mrel c a bs) s (fun e lanes =>
    let ts := (tilesOf (readReg e.g 0 a.toNat)).filter (fun i => (e.t.tile i).mapped)
    let aborts := readReg e.g 0 bs.toNat
    let cl := e.core / 4
    if ts.any (fun i => !aborts.getLsbD i && !(requestsOn e.s cl e.g.team i).isEmpty) then
      .next (raiseAll e e.s .prot (lanes &&& e.pres))
    else .next (retire e (ts.foldl (fun s i => releaseTile s cl e.g.team i) e.s)))

/-- MPRI (R269). -/
def execMpri (c : Ctl) (a bs : RegCode) (s : State) : Host.Outcome State Fault Refusal :=
  anvilOnce (.mpri c a bs) s (fun e _ =>
    let ts := (tilesOf (readReg e.g 0 a.toNat)).filter (fun i => (e.t.tile i).mapped)
    let prio := bits (readReg e.g 0 bs.toNat).toNat 2 0
    .next (retire e (ts.foldl (fun s i =>
      updTile s e.g.team i (fun t => { t with prio, status := putField t.status 37 35 prio })) e.s)))

/-! ## The requests -/

/-- Requests that may enter the table at once: the core's free entries, and what the instruction's flag can still count
(R60, R256). -/
def Env.anvilRoom (e : Env) (c : Ctl) : Nat :=
  min (16 - usedEntries e.s e.core)
    (match e.is.flag c.fs with | some f => 63 - (Store.get e.g.flags f).toNat | none => 16)

/-- A request instruction holds its port: an earlier access must come first, a flag or the core's share is full
(R60, R115, R256). -/
def Env.anvilHeld (e : Env) (c : Ctl) : Bool := e.accessHeld || e.anvilRoom c == 0

/-- Some requests of the MZERO in issue have entered the table. -/
def noteEntered (e : Env) (s : State) (xs : List Nat) : State :=
  let k := s.core e.core
  let p := k.port e.port
  s.setCore e.core (k.setPort e.port { p with issue := some { e.is with entered := e.is.entered ++ xs } })

/-- MZERO: one request for each mapped tile of its mask, ascending (R270); while its core's entries or its flag have no room
for the next one, it holds the port (R60, R256). -/
def execMzero (c : Ctl) (a : RegCode) (s : State) : Host.Outcome State Fault Refusal :=
  anvilOnce (.mzero c a) s (fun e _ =>
    let ts := (tilesOf (readReg e.g 0 a.toNat)).filter (fun i => (e.t.tile i).mapped && !e.is.entered.contains i)
    let n := e.anvilRoom c
    if e.accessHeld || (n == 0 && !ts.isEmpty) then .next e.s
    else
      let s := (ts.take n).foldl (fun s i => enterRequest e s c (e.request c .mzero i)) (settle e.s e.gid)
      if ts.length ≤ n then .next (retire e s) else .next (noteEntered e s (ts.take n)))

/-- The scratchpad bytes of an operand's in-bound elements, scales and metadata words under R85 (R266). -/
def operandCheck (s : State) (team : Nat) (h : List Byte) (m0 k0 k1 : Nat) : Option (Cause × Nat) :=
  firstOf ((tileLines h m0).flatMap (fun ln =>
    (lineRuns h ln k0 (min k1 (dDim h 0))).map (fun r => checkPadSpan s team r.2.2 r.1 r.2.1)))

/-- The words of a request record (R263). -/
def recordOf (g : Group) (k : RegCode) (n : Nat) : List Word := (List.range n).map (fun i => readReg g 0 (k.toNat + i))

/-- The trigger object of an MMAT (R263). -/
def Env.trigger (e : Env) (bgl : Bool) (rec_ : List Word) : Place :=
  let lo := (rec_.getD 4 0).toNat
  if bgl then .glob (lo + (rec_.getD 5 0).toNat * 2 ^ 32) else .pad e.g.team lo

/-- MMA and MMAT: the checks of R266, then a request (R271, R272). -/
def multiply (i : Instr) (c : Ctl) (tile : BitVec 3) (mmat : Option Bool) (a bs k : RegCode) (s : State) :
    Host.Outcome State Fault Refusal :=
  anvilOnce i s (fun e lanes =>
    let lanesP := lanes &&& e.pres
    let t := e.t.tile tile.toNat
    let rec_ := recordOf e.g k (if mmat.isSome then 8 else 4)
    let k0 := (rec_.getD 2 0).toNat
    let k1 := (rec_.getD 3 0).toNat
    if !t.mapped then .next (raiseAll e e.s .prot lanesP)
    else match snapshot e.t (readReg e.g 0 a.toNat), snapshot e.t (readReg e.g 0 bs.toNat) with
      | some (slotA, ha), some (slotB, hb) =>
        match mmaAcc ha hb t.wide with
        | none => .next (raiseAll e e.s .prot lanesP)
        | some _ =>
          if k0 % (passRate ha hb).1 ≠ 0 then .next (raiseAll e e.s .prot lanesP)
          else
            let trig := e.trigger (mmat.getD false) rec_
            match (match mmat with | some _ => e.objCheck trig 16 | none => none) with
            | some x => .next (e.onceBad lanes x)
            | none =>
              match firstOf [operandCheck e.s e.g.team ha (rec_.getD 0 0).toNat k0 k1,
                  if dSpace hb = 1 then operandCheck e.s e.g.team hb (rec_.getD 1 0).toNat k0 k1 else none] with
              | some x => .next (e.onceBad lanes x)
              | none =>
                if e.anvilHeld c then .next e.s
                else
                  let s := settle e.s e.gid
                  let r : Request := { e.request c (if mmat.isSome then .mmat else .mma) tile.toNat with
                    snapA := ha, snapB := hb, slotA, slotB, record := rec_, k := k0 }
                  match mmat with
                  | none => .next (retire e (enterRequest e s c r))
                  | some _ =>
                    let pa := e.phys trig
                    let (o, s) := readObj (ownLine s e.core pa) pa
                    let tph := (rec_.getD 6 0).toNat
                    let r := { r with trigger := some (trig, rec_.getD 6 0) }
                    if phasePassed o.phase tph then
                      if o.forcedPast tph then
                        -- discarded at issue (R272): its flag has nothing left to count
                        .next (retire e (noteAbort s (e.core / 4) { r with id := s.nextId }))
                      else
                        -- what happens-before the completion is read (R123)
                        .next (retire e (enterRequest e (pullPending s pa) c { r with passed := true }))
                    else .next (retire e (enterRequest e s c { r with passed := false }))
      | _, _ => .next (raiseAll e e.s .stalehdl lanesP))

/-- MMA (R271). -/
def execMma (c : Ctl) (tile : BitVec 3) (a bs k : RegCode) (s : State) : Host.Outcome State Fault Refusal :=
  multiply (.mma c tile a bs k) c tile none a bs k s

/-- MMAT (R272). -/
def execMmat (c : Ctl) (tile : BitVec 3) (bgl : Bool) (a bs k : RegCode) (s : State) : Host.Outcome State Fault Refusal :=
  multiply (.mmat c tile bgl a bs k) c tile (some bgl) a bs k s

/-- The accumulator type of an ACCT code (R265). -/
def acctTy (acct : Nat) : Ty :=
  match acct with
  | 0 => .f32
  | 1 => .i32
  | _ => .f64

/-- The byte runs of a tile move's in-bound elements: line, first column, run. -/
def moveRuns (h : List Byte) (m0 n0 : Nat) : List (Nat × Nat × Nat) :=
  (tileLines h m0).flatMap (fun ln => lineRuns h ln n0 (min (n0 + 128) (dDim h 0)))

/-- MLD and MST: the checks of R266 and R273, then a request that keeps its translations (R328). -/
def moveTile (i : Instr) (c : Ctl) (kind : ReqKind) (tile : BitVec 3) (acct : BitVec 2) (a bs k : RegCode) (s : State) :
    Host.Outcome State Fault Refusal :=
  anvilOnce i s (fun e lanes =>
    let lanesP := lanes &&& e.pres
    let t := e.t.tile tile.toNat
    let m0 := readReg e.g 0 bs.toNat
    let n0 := readReg e.g 0 (bs.toNat + 1)
    let need := if kind == .mst then Need.write else .read
    if !t.mapped then .next (raiseAll e e.s .prot lanesP)
    else match snapshot e.t (readReg e.g 0 a.toNat) with
      | none => .next (raiseAll e e.s .stalehdl lanesP)
      | some (slotA, h) =>
        if (acct == 2) != t.wide || dType h != 0 || dRank h != 2 || decide (9 ≤ dEty h ∧ dEty h ≤ 13) then
          .next (raiseAll e e.s .prot lanesP)
        else
          let runs := moveRuns h m0.toNat n0.toNat
          let check := fun (r : Nat × Nat × Nat) =>
            if dSpace h = 1 then checkPadSpan e.s e.g.team r.2.2 r.1 r.2.1
            else checkSpan e.s e.core e.ctx e.inh need noRegion r.2.2 r.1 r.2.1
          match firstOf (runs.map check) with
          | some x => .next (e.onceBad lanes x)
          | none =>
            if e.anvilHeld c || originsFull e.s e.core then .next e.s
            else
              let vas := if dSpace h = 1 then [] else runPoints runs
              let spans := distinct (vas.filterMap (fun va => match translate e.s e.core e.ctx va with
                | .ok l => (l.place e.s e.ctx (va / l.unit * l.unit)).map (fun pa =>
                    ({ off := va / l.unit * l.unit, pa, len := l.unit } : Span))
                | .bad _ => none))
              let pages := distinct (vas.filterMap (pageOf e.s e.core e.ctx))
              let s := touchTlb (settle e.s e.gid) e.core e.ctx vas
              let (org, s) := takeOrigin e s 1
              .next (retire e (enterRequest e s c { e.request c kind tile.toNat with
                snapA := h, slotA, record := [m0, n0, readReg e.g 0 k.toNat], spans, pages, origin := some org })))

/-- MLD (R273). -/
def execMld (c : Ctl) (tile : BitVec 3) (acct : BitVec 2) (a bs k : RegCode) (s : State) : Host.Outcome State Fault Refusal :=
  moveTile (.mld c tile acct a bs k) c .mld tile acct a bs k s

/-- MST (R273). -/
def execMst (c : Ctl) (tile : BitVec 3) (acct : BitVec 2) (a bs k : RegCode) (s : State) : Host.Outcome State Fault Refusal :=
  moveTile (.mst c tile acct a bs k) c .mst tile acct a bs k s

/-- THDROP.REVOKE: the team's copies and Anvil requests that use the slot are aborted; its flag clears when every abort has
finished (R242, R276). -/
def execThdropRevoke (c : Ctl) (a : RegCode) (s : State) : Host.Outcome State Fault Refusal :=
  onceFor (.thdropRevoke c a) c s (fun e lanes =>
    match snapshot e.t (readReg e.g 0 a.toNat) with
    | none => .next (raiseAll e e.s .stalehdl (lanes &&& e.pres))
    | some (slot, _) =>
      let cl := e.core / 4
      -- the group's earlier accesses to a barrier that is forced are performed first (R107, R119)
      if (revokedBars e.s e.core e.g.team slot).any (fun b => lineBusy e.s e.gid b.1) then .next e.s
      else
      let s := dropSlot e.s e.g.team slot
      let s := revokeCopies s e.core e.g.team slot e.g.lclk
      let hit := (s.cluster cl).table.filter (fun r => r.team = e.g.team && (r.slotA = slot || r.slotB = slot))
      let waits := hit.any (s.cluster cl).runs
      let id := s.nextId
      let s := launchFlight s (e.flight (if waits then .anvil else .result) c)
      .next (retire e (hit.foldl (fun s r => abortRequest s cl r (some id)) s)))

/-! ## Grants (R258) -/

/-- Every group of a context with a requested pre-emption has stopped (R277, R354). -/
def suspending (s : State) (ctx : Nat) : Bool :=
  (s.ctx ctx).stopping.isSome && s.groups.all (fun e => ctxOf s e.2 != ctx || stopped s ctx e.2)

/-- An MLD or MST entered again at resumption without a store-origin entry (R310). -/
def Request.lacksOrigin (r : Request) : Bool := (r.kind == .mld || r.kind == .mst) && r.origin.isNone

/-- A request may be granted: eligible, its context not being suspended, every earlier write of its group has been
performed, and a store-origin entry is its own or free (R122, R123, R277, R310). -/
def grantable (s : State) (cl : Nat) (r : Request) : Bool :=
  (s.cluster cl).eligible r && !r.refused && !writesOpen s r.gid r.flight && !suspending s r.ctx &&
  !(r.lacksOrigin && originsFull s r.core)

/-- EFF of R258. -/
def effPriority (s : State) (r : Request) : Nat :=
  ((s.team r.team).tile r.tile).prio + min 7 ((s.clock - r.since.getD s.clock) / 256)

/-- Clocks of a request's next unit (R259). -/
def unitClocks (r : Request) : Nat :=
  match r.kind with
  | .mzero => 1
  | .mld | .mst => 16
  | _ => (passRate r.snapA r.snapB).2

/-- A multiply request that has no further pass. -/
def Request.spent (r : Request) : Bool := r.kind.passes && decide ((r.record.getD 3 0).toNat ≤ r.k)

/-- ANVIL_GRANT: with no unit running, the eligible request of highest effective priority is granted its next unit; a
request without a pass completes at the head of its tile (R258, R263). -/
def execAnvilGrant (cluster : Nat) (s : State) : Host.Outcome State Fault Refusal :=
  let c := s.cluster cluster
  match c.table.find? (fun r => c.eligible r && r.spent) with
  | some r => .next (leaveTable s cluster r)
  | none =>
    if c.running.isSome || s.iluic.stopped then .next s
    else match leastBy (fun r => 64 - effPriority s r) (c.table.filter (grantable s cluster)) with
      | none => .next s
      | some r =>
        let s := updTile s r.team r.tile (fun t => if r.kind.passes then (t.notePc r.pc).noteK r.k else t.notePc r.pc)
        let (org, s) := if r.lacksOrigin then
            (match newOrigin s r.core r.gid r.pc with
             | some (o, s) => (some o, s)
             | none => (none, s))
          else (r.origin, s)
        let c := s.cluster cluster
        .next (s.setCluster cluster { c with
          running := some ⟨r.id, s.clock + unitClocks r, none⟩
          table := c.table.map (fun x => if x.id = r.id then { x with origin := org } else x) })

/-- The unit that runs, its request and its tile, once its clocks have passed (R259). -/
def dueUnit (s : State) (cluster : Nat) : Option (Running × Request × Tile) :=
  let c := s.cluster cluster
  match c.running with
  | none => none
  | some u =>
    if s.clock < u.ends then none
    else (c.table.find? (fun r => r.id = u.req)).map (fun r =>
      (u, r, u.gone.getD ((s.team r.team).tile r.tile)))

/-- A unit has committed a tile: the request goes on with its next unit, or leaves (R258, R271, R276). -/
def commitUnit (s : State) (cluster : Nat) (u : Running) (r : Request) (t : Tile) (finished : Bool) : State :=
  let s := if u.gone.isSome then s else updTile s r.team r.tile (fun _ => t)
  if r.aborted then discardRequest s cluster r
  else if finished then leaveTable s cluster r
  else
    let c := s.cluster cluster
    s.setCluster cluster { c with
      running := none
      table := c.table.map (fun x => if x.id = r.id then { r with since := some s.clock } else x) }

/-- PASS: a pass over the whole tile commits (R264). -/
def execPassStep (cluster : Nat) (s : State) : Host.Outcome State Fault Refusal :=
  match dueUnit s cluster with
  | none => .next s
  | some (u, r, t) =>
    if !r.kind.passes || (stepFault s r).isSome then .next s
    else match mmaAcc r.snapA r.snapB t.wide with
      | none => .next s
      | some acc =>
        let n := (passRate r.snapA r.snapB).1
        let k1 := (r.record.getD 3 0).toNat
        let s := if dSpace r.snapB = 1 then s
          else (distinct ((runPoints (stepRuns r)).map (fun a => lineOf (streamPlace s r a)))).foldl recallCopies s
        let ra := readerAt s r.core r.team 1 id
        let rb := readerAt s r.core r.team (dSpace r.snapB) (streamPlace s r)
        let line := fun (rd : Reader) (h : List Byte) (o : Nat) =>
          (List.range 128).map (fun i => stepLine rd h (o + i) r.k n k1)
        let rows := line ra r.snapA (r.record.getD 0 0).toNat
        let cols := line rb r.snapB (r.record.getD 1 0).toNat
        if (rows ++ cols).any (fun x => x.2) then .next (requestFatal s r .poison 0)
        else
          let (t, ovf) := passTile acc t (rows.map (fun x => x.1)) (cols.map (fun x => x.1))
          let r := { r with k := r.k + n, ran := true, ovf := r.ovf || ovf }
          .next (commitUnit s cluster u r (t.noteK r.k) (decide (k1 ≤ r.k)))

/-- ANVIL_FAULT_SUSPEND: a streamed B read of the next step faults; the request is suspended at that step, or, aborted
already, leaves; MMAFAULT is pending for the header that waits on its flag (R275). -/
def execAnvilFaultSuspend (cluster : Nat) (s : State) : Host.Outcome State Fault Refusal :=
  match dueUnit s cluster with
  | none => .next s
  | some (_, r, _) =>
    match (if r.kind.passes then stepFault s r else none) with
    | none => .next s
    | some (cause, addr) =>
      if r.aborted then .next (discardRequest s cluster r)
      else if cause == .poison then .next (requestFatal s r cause addr)
      else
        let s := updTile s r.team r.tile (fun t =>
          { (((t.notePc r.pc).noteK r.k)) with
            status := putField (putField ((t.notePc r.pc).noteK r.k).status 48 41 cause.code) 40 40 1 })
        let g := s.group r.gid
        if (aget? s.groups r.gid).isNone || g.allEnded then .next (requestFatal s r cause addr)
        else
          let c := s.cluster cluster
          let s := s.setCluster cluster { c with
            running := none
            table := c.table.map (fun x => if x.id = r.id then { x with suspended := true, faultAddr := addr, since := none } else x) }
          let s := clearFlag s r.gid r.flag
          .next (s.updGroup r.gid (fun g => match r.flag with
            | some n => { g with pend := g.pend ++ [⟨.mmafault, n, 0, 0⟩] }
            | none => g))

/-- The value of MLD's element and MST's accumulator scaled by 2^s (R273). -/
def scaleBy (v : FVal) (s : Int) : FVal :=
  match v with
  | .fin neg m e => .fin neg m (e + s)
  | y => y

/-- MLD's tile: every element converted, the zero code out of bounds (R99, R273). -/
def loadTile (rd : Reader) (h : List Byte) (acct : Ty) (m0 n0 : Nat) (sx : Int) : Store 64 × Flags × Bool :=
  (tileLines h m0).foldl (fun st ln =>
    ((List.range 128).filter (fun j => decide (n0 + j < dDim h 0))).foldl (fun st j =>
      let (c, bad) := elemCode rd h ln (n0 + j)
      let (v, fl) := conv acct .rne true 0 (scaleBy (valueQ (dTy h) (dQ h) c) sx)
      (Store.set st.1 (128 * (ln - m0) + j) (BitVec.ofNat 64 v), st.2.1.or fl, st.2.2 || bad)) st) ([], {}, false)

/-- MST's writes: each in-bound element's code, its column and line (R273). -/
def storeCodes (t : Tile) (h : List Byte) (acct : Ty) (m0 n0 : Nat) (sx : Int) : List (Nat × Nat × Nat) × Flags :=
  (tileLines h m0).foldl (fun st ln =>
    ((List.range 128).filter (fun j => decide (n0 + j < dDim h 0))).foldl (fun st j =>
      let x := (Store.get t.elems (128 * (ln - m0) + j)).toNat
      let (c, fl) := convQ (dTy h) (dQ h) .rne true 0 (scaleBy (value acct x) sx)
      (st.1 ++ [(ln, n0 + j, c)], st.2.or fl)) st) ([], {})

/-- Where an element of an MST goes. -/
def Request.elemPlace (r : Request) (x : Nat × Nat × Nat) : Place :=
  let va := dBase r.snapA + x.1 * descWord r.snapA 8 + x.2.1 * dBits r.snapA / 8
  if dSpace r.snapA = 1 then .pad r.team va else .glob (spanAt r.spans va)

/-- Write an element of an MST; a 4-bit element keeps its byte's other half (R122). -/
def storeElem (s : State) (r : Request) (x : Nat × Nat × Nat) : State :=
  let h := r.snapA
  let p := r.elemPlace x
  if dBits h = 4 then
    let (old, _, s) := engineRead s r.core p 1
    let old := ofBytes old
    engineWrite s r.core p (toBytes (if x.2.1 % 2 = 1 then old % 16 + 16 * x.2.2 else old / 16 * 16 + x.2.2) 1)
  else engineWrite s r.core p (toBytes x.2.2 (dBytes h))

/-- UNIT_END: an MZERO, MLD or MST unit ends and commits (R259, R270, R273). -/
def execUnitEnd (cluster : Nat) (s : State) : Host.Outcome State Fault Refusal :=
  match dueUnit s cluster with
  | none => .next s
  | some (u, r, t) =>
    let m0 := (r.record.getD 0 0).toNat
    let n0 := (r.record.getD 1 0).toNat
    let sx := (r.record.getD 2 0).toInt
    let acct := acctTy (bits r.w2.toNat 4 3)
    if r.refused then .next s
    else match r.kind with
      | .mzero => .next (commitUnit s cluster u r { t.cleared with elems := [], poisoned := false } true)
      | .mld =>
        let s := if dSpace r.snapA = 1 then s
          else (distinct ((runPoints (moveRuns r.snapA m0 n0)).map (fun a => lineOf (spanAt r.spans a)))).foldl recallCopies s
        let (es, fl, bad) := loadTile (readerAt s r.core r.team (dSpace r.snapA) (spanAt r.spans)) r.snapA acct m0 n0 sx
        if bad then .next (requestFatal s r .poison 0)
        else .next (commitUnit s cluster u { r with ovf := fl.ovf, inv := fl.inv } { t.cleared with elems := es, poisoned := false } true)
      | .mst =>
        if t.poisoned then .next (requestFatal s r .poison 0)
        else
        let (cs, fl) := storeCodes t r.snapA acct m0 n0 sx
        match (cs.map r.elemPlace).find? s.lost with
        | some p => .next (requestFatal s r .poison (pageAddr s r.ctx r.pages p))
        | none =>
        let s := cs.foldl (fun s x => storeElem s r x) s
        let s := if dBits r.snapA = 4 then s else coverPlaces s r.core (cs.map (fun x => (r.elemPlace x, dBytes r.snapA)))
        .next (commitUnit s cluster u { r with ovf := fl.ovf, inv := fl.inv } t true)
      | _ => .next s

/-- MMAT_TRIGGER: an observed completion passes a request's trigger, or discards it when it was forced (R272). -/
def execMmatTrigger (cluster req : Nat) (s : State) : Host.Outcome State Fault Refusal :=
  let c := s.cluster cluster
  match c.table.find? (fun r => r.id = req) with
  | none => .next s
  | some r =>
    if r.passed then .next s
    else match r.seen with
      | none => .next s
      | some true => .next (discardRequest s cluster r)
      | some false =>
        .next ((s.setCluster cluster { c with table := c.table.map (fun x =>
          if x.id = req then { x with passed := true } else x) }).markEligible cluster)

end Sys2Proof.Machine
end

