-- ==== Sys2Proof/Machine/System.lean ====
section
/-!
DEFINITION. Shootdowns and imprecise store faults (R310, R311, R328), and the system instructions: CSRR, CSRW, TLBI,
L1WB, HALT (R301, R316 to R319).
-/
namespace Sys2Proof.Machine

/-! ## Control and status registers (R301) -/

/-- The value of a CSR in a lane; none for a reserved number. -/
def csrValue (e : Env) (lane n : Nat) : Option Word :=
  let cx := e.s.ctx e.ctx
  let f := e.g.frame
  if n = 0x000 then some (BitVec.ofNat 32 cx.tvec.toNat)
  else if n = 0x001 then some (BitVec.ofNat 32 (cx.tvec.toNat / 2 ^ 32))
  else if n = 0x010 then some f.tstate
  else if n = 0x011 then some f.tpcl
  else if n = 0x012 then some f.tpch
  else if 0x013 ≤ n ∧ n ≤ 0x016 then some (f.tfault.extractLsb' (32 * (n - 0x013)) 32)
  else if 0x017 ≤ n ∧ n ≤ 0x01A then some (f.tact.extractLsb' (32 * (n - 0x017)) 32)
  else if n = 0x020 then some ((Store.get f.tlcause lane).setWidth 32)
  else if n = 0x021 then some (BitVec.ofNat 32 (Store.get f.tladdr lane).toNat)
  else if n = 0x022 then some (BitVec.ofNat 32 ((Store.get f.tladdr lane).toNat / 2 ^ 32))
  else if 0x030 ≤ n ∧ n ≤ 0x033 then some (Store.get f.scr (n - 0x030))
  else if n = 0x040 then some ((e.s.part (partOf e.ctx)).split.setWidth 32)
  else if n = 0x041 then some (BitVec.ofNat 32 cx.asid)
  else if n = 0x042 then some (BitVec.ofNat 32 (e.ctx % 1024))
  else if n = 0x043 then some (BitVec.ofNat 32 cx.err)
  else if n = 0x044 then some (BitVec.ofNat 32 (cx.err / 2 ^ 32))
  else none

/-- CSRR (R317). -/
def execCsrr (c : Ctl) (d : RegCode) (csr : BitVec 12) (s : State) : Host.Outcome State Fault Refusal :=
  instr (.csrr c d csr) s (fun e lanes =>
    .next (afterLanes (.csrr c d csr) e ((lanesOf lanes).map (fun l =>
      (l, outD ((csrValue e l csr.toNat).getD 0).toNat)))))

/-- Write a CSR of a group (R301). -/
def writeCsr (e : Env) (s : State) (n : Nat) (v : Word) : State :=
  let cx := s.ctx e.ctx
  if n = 0x000 then
    s.setCtx e.ctx { cx with tvec := BitVec.ofNat 49 (cx.tvec.toNat / 2 ^ 32 * 2 ^ 32 + v.toNat / 4 * 4) }
  else if n = 0x001 then
    s.setCtx e.ctx { cx with tvec := BitVec.ofNat 49 (v.toNat % 2 ^ 17 * 2 ^ 32 + cx.tvec.toNat % 2 ^ 32) }
  else
    s.updGroup e.gid (fun g => { g with frame := { g.frame with scr := Store.set g.frame.scr (n - 0x030) v } })

/-- CSRW: once, with the lowest active present lane's value (R317). -/
def execCsrw (c : Ctl) (a : RegCode) (csr : BitVec 12) (s : State) : Host.Outcome State Fault Refusal :=
  instr (.csrw c a csr) s (fun e lanes =>
    match lowestLane (lanes &&& e.pres) with
      | none => .next (retire e e.s)
      | some l => .next (retire e (writeCsr e e.s csr.toNat (readReg e.g l a.toNat))))

/-! ## Shootdowns (R311, R328) -/

/-- A page, by address and size in bits, covers an address. -/
def covers (page bits_ va : Nat) : Bool := page / 2 ^ bits_ == va / 2 ^ bits_

/-- A shootdown's scope takes in a page: every page, or those that cover an address (R318). -/
def inScope (scope : Option Nat) (page bits_ : Nat) : Bool :=
  match scope with
  | none => true
  | some va => covers page bits_ va

/-- The cores of a partition that the state holds. -/
def partCores (s : State) (part : Nat) : List Nat :=
  (s.cores.map (fun e => e.1)).filter (fun c => (s.part part).clusters.getLsbD (c / 4))

/-- Translations without those of an ASID in a scope. -/
def dropEntries (tlb : List TlbEntry) (asid : Nat) (scope : Option Nat) : List TlbEntry :=
  tlb.filter (fun e => !(e.asid == asid && inScope scope (e.page * 2 ^ e.leaf.size) e.leaf.size))

/-- A core's TLB drops the translations of an ASID in a scope. -/
def dropTlb (s : State) (core asid : Nat) (scope : Option Nat) : State :=
  let k := s.core core
  s.setCore core { k with tlb := dropEntries k.tlb asid scope }

/-- The size of the page around an address by the translations the partition holds, for the instruction caches. -/
def widestPage (s : State) (ctx : Nat) (va : Nat) : Nat :=
  let asid := (s.ctx ctx).asid
  let now := match walk s ctx va with | .ok l => l.size | .bad _ => 16
  s.cores.foldl (fun n k => k.2.tlb.foldl (fun n e => if e.hits asid va then max n e.leaf.size else n) n) now

/-- The instruction caches drop the translations of an ASID in a scope, and the words that they served (R326). -/
def dropCode (s : State) (ctx : Nat) (scope : Option Nat) : State :=
  let asid := (s.ctx ctx).asid
  let size := match scope with | some va => widestPage s ctx va | none => 0
  let gone := fun (key : Nat) => key / 2 ^ 49 == asid &&
    (match scope with | none => true | some va => covers (key % 2 ^ 49) size va)
  { s with clusters := s.clusters.map (fun e => (e.1, { e.2 with
      itlb := dropEntries e.2.itlb asid scope
      icache := e.2.icache.filter (fun x => !gone x.1), cached := e.2.cached.filter (fun k => !gone k) })) }

/-- A dropped translation served a piece. -/
def Piece.inScope (p : Piece) (scope : Option Nat) : Bool := p.pa.global && Sys2Proof.Machine.inScope scope p.va p.pbits

/-- The address of the first lane of a write in flight that a dropped translation served. -/
def Flight.coveredAt (f : Flight) (ctx : Nat) (scope : Option Nat) : Option Nat :=
  let writes := match f.kind with
    | .through | .release | .atomic _ _ _ | .leaf _ _ _ | .arrive _ _ => true
    | _ => false
  if f.ctx == ctx && writes then
    (f.pieces.find? (fun p => p.inScope scope)).map (fun p => p.va)
  else none

/-- A shootdown refuses the pieces that it covers; those of other pages are performed in their course (R328). -/
def Flight.refuse (f : Flight) (scope : Option Nat) (va : Nat) : Flight :=
  { f with
    pieces := f.pieces.map (fun p => if p.inScope scope then { p with covered := true } else p)
    refused := true, refusedAt := if f.refused then f.refusedAt else va }

/-- Perform a covered write at once, if what it waits for has been performed. -/
def landNow (s : State) (id : Nat) (f : Flight) : State :=
  let done := fun (o : Host.Outcome State Fault Refusal) => match o with | .next s => s | _ => s
  match f.kind with
  | .through => done (execStoreAcknowledgement id s)
  | .leaf _ _ _ => done (execLeafwrite id s)
  | .release | .arrive _ _ => done (execReleaseAtHome id s)
  | .atomic _ _ _ => done (execAtomicStepAtHome id s)
  | _ => s

/-- Stage 3 for the writes of instructions: each covered one lands first or is refused, a free value (log 9). -/
def refuseFlights (s : State) (ctx : Nat) (scope : Option Nat) : State :=
  let tick := s.tick
  s.flights.foldl (fun s e =>
    match aget? s.flights e.1 with
    | none => s
    | some f =>
      match f.coveredAt ctx scope with
      | none => s
      | some va =>
        let s := if Config.refusedInFlight tick e.1 then s else landNow s e.1 f
        match aget? s.flights e.1 with
        | some f =>
          if (f.coveredAt ctx scope).isSome then s.setFlight e.1 (f.refuse scope va) else s
        | none => s) s

/-- The first of an engine's pages that is covered. -/
def coveredPage (pages : List (Nat × Nat)) (scope : Option Nat) : Option Nat :=
  (pages.find? (fun p => inScope scope p.1 p.2)).map (fun p => p.1)

/-- A command's pages are covered. -/
def pagesCovered (pages : List (Nat × Nat)) (scope : Option Nat) : Bool := (coveredPage pages scope).isSome

/-- A command, an operation, a drain or a request that a shootdown covers is refused, at the covered page. -/
def SwageCmd.refuse (x : SwageCmd) (scope : Option Nat) : SwageCmd :=
  match coveredPage x.pages scope with
  | some va => { x with refused := true, refusedAt := va }
  | none => x

/-- Of a table operation the spill buffer's covered translations go too (R328). -/
def TabOp.refuse (o : TabOp) (scope : Option Nat) : TabOp :=
  let o := { o with spill := o.spill.filter (fun x => !inScope scope x.1.off x.2) }
  match coveredPage o.pages scope with
  | some va => { o with refused := true, refusedAt := va }
  | none => o

def Drain.refuse (d : Drain) (scope : Option Nat) : Drain :=
  match coveredPage d.pages scope with
  | some va => { d with refused := true, refusedAt := va }
  | none => d

def Request.refuse (r : Request) (scope : Option Nat) : Request :=
  match coveredPage r.pages scope with
  | some va => { r with refused := true, refusedAt := va }
  | none => r

/-- Land every move of the command in a slot that is ready to land (R251). -/
def landCommand (s : State) (core slot : Nat) : Nat → State
  | 0 => s
  | n + 1 => match execSwageCredit core slot 0 s with
    | .next s' => landCommand s' core slot n
    | _ => s

/-- Stage 3 for the Swage, drains, MLD and MST of a core's cluster: what has been performed first is a free value (R251,
R273; log 9). -/
def refuseEngines (s : State) (ctx core : Nat) (scope : Option Nat) : State :=
  let first := fun (id : Nat) => !Config.refusedInFlight s.tick id
  let hit := fun (x : SwageCmd) => x.ctx == ctx && pagesCovered x.pages scope
  let s := (s.core core).swage.foldl (fun s x =>
    if hit x.2 && first x.2.flight then landCommand s core x.1 (2 * x.2.moves.length) else s) s
  let mark := fun (x : SwageCmd) => if x.ctx == ctx then x.refuse scope else x
  let k := s.core core
  let s := s.setCore core { k with
    swageQueue := k.swageQueue.map mark
    swage := k.swage.map (fun x => (x.1, mark x.2))
    crucible := k.crucible.map (fun o => if o.ctx == ctx then o.refuse scope else o)
    drains := k.drains.map (fun d => if d.2.ctx == ctx then (d.1, d.2.refuse scope) else d) }
  let c := s.cluster (core / 4)
  let reqHit := fun (r : Request) => r.core == core && r.ctx == ctx && pagesCovered r.pages scope
  let s := match c.running with
    | some u =>
      if c.table.any (fun r => r.id == u.req && reqHit r && first r.flight) then
        match execUnitEnd (core / 4) (s.setCluster (core / 4) { c with running := some { u with ends := s.clock } }) with
        | .next s => s
        | _ => s
      else s
    | none => s
  let c := s.cluster (core / 4)
  s.setCluster (core / 4) { c with table := c.table.map (fun r => if r.core == core && r.ctx == ctx then r.refuse scope else r) }

/-- Commands and requests of suspended teams that a shootdown covers are refused too (R328). -/
def refuseSaved (s : State) (ctx : Nat) (scope : Option Nat) : State :=
  let c := s.ctx ctx
  s.setCtx ctx { c with saved := c.saved.map (fun x => { x with
    reqs := x.reqs.map (fun r => r.refuse scope), cmds := x.cmds.map (fun x => x.refuse scope) }) }

/-- A shootdown of a context's translations across its partition (R318, R328): translations are dropped, dirty lines are
written back and update-only copies combined, and the writes in flight it covers land or are refused. -/
def shootdown (s : State) (ctx : Nat) (scope : Option Nat) : State :=
  let asid := (s.ctx ctx).asid
  let cores := partCores s (partOf ctx)
  let s := dropCode s ctx scope
  let s := cores.foldl (fun s c => dropTlb s c asid scope) s
  let s := cores.foldl writebackAll s
  let s := refuseSaved (refuseFlights s ctx scope) ctx scope
  cores.foldl (fun s c => refuseEngines s ctx c scope) s

/-- XLATE when the entry that covers an address is TYPE 0 or malformed now, PROT otherwise (R328). -/
def refusalCause (s : State) (ctx va : Nat) : Cause :=
  match walk s ctx va with
  | .bad .xlate => .xlate
  | _ => .prot

/-- What a shootdown has refused under a store-origin entry, or, as entry 256, under none (an ARRIVE's update; log 9): its
context and the covered address. -/
def refusedUnder (s : State) (core entry : Nat) : Option (Nat × Nat) :=
  let k := s.core core
  let mine := fun (o : Option Nat) => o.getD 256 == entry
  let hits := (s.flights.filter (fun f => f.2.refused && f.2.core = core && mine f.2.origin)).map (fun f => (f.2.ctx, f.2.refusedAt)) ++
    (k.commands.filter (fun x => x.refused && mine x.origin)).map (fun x => (x.ctx, x.refusedAt)) ++
    (k.crucible.filter (fun x => x.refused && mine x.origin)).map (fun x => (x.ctx, x.refusedAt)) ++
    (k.drains.filter (fun x => x.2.refused && mine x.2.origin)).map (fun x => (x.2.ctx, x.2.refusedAt)) ++
    ((s.cluster (core / 4)).table.filter (fun r => r.refused && r.core = core && mine r.origin)).map (fun r => (r.ctx, r.refusedAt))
  hits.head?

/-- IMPRECISE_STORE_FAULT: a write that a shootdown refused kills its context (R311). -/
def execImpreciseStoreFault (core entry : Nat) (s : State) : Host.Outcome State Fault Refusal :=
  match refusedUnder s core entry with
  | none => .next s
  | some (ctx, va) => .next (impreciseFault s core (some entry) ctx (refusalCause s ctx va) va)

/-! ## TLBI, L1WB, HALT -/

/-- Retire, unless the context was killed meanwhile. -/
def retireLive (e : Env) (s : State) : State := if (aget? s.groups e.gid).isSome then retire e s else s

/-- TLBI: on the issuing core's TLB, or across the partition, where the writes before a FENCE of the group have then been
performed (R318, R329). -/
def tlbi (i : Instr) (loc : Bool) (scope : Env → Option Nat) (s : State) : Host.Outcome State Fault Refusal :=
  instr i s (fun e lanes =>
    if lanes &&& e.pres = 0 then .next (retire e e.s)
    else if !loc && decide (0 < e.g.fence) && earlierOpen e.s e.gid e.g.fence then .next e.s
    else
      let s := if loc then dropTlb e.s e.core (e.s.ctx e.ctx).asid (scope e) else shootdown e.s e.ctx (scope e)
      .next (retireLive e s))

/-- TLBI.PAGE: the pages of every size that cover the address (R318). -/
def execTlbiPage (c : Ctl) (loc : Bool) (a : RegCode) (s : State) : Host.Outcome State Fault Refusal :=
  tlbi (.tlbiPage c loc a) loc (fun e => some (readSet e.g 0 a 64)) s

/-- TLBI.ALL: the whole ASID (R318). -/
def execTlbiAll (c : Ctl) (loc : Bool) (a : RegCode) (s : State) : Host.Outcome State Fault Refusal :=
  tlbi (.tlbiAll c loc a) loc (fun _ => none) s

/-- L1WB: every dirty line of the core is written back and its update-only copies are combined (R318). -/
def execL1wb (c : Ctl) (s : State) : Host.Outcome State Fault Refusal :=
  instr (.l1wb c) s (fun e lanes =>
    if lanes &&& e.pres = 0 then .next (retire e e.s) else .next (retire e (writebackAll e.s e.core)))

/-- HALT: the group is parked after HALT retires, and the host is told; the handler's gang stands behind HALT (R319). -/
def execHalt (c : Ctl) (s : State) : Host.Outcome State Fault Refusal :=
  instr (.halt c) s (fun e lanes =>
    if lanes &&& e.pres = 0 then .next (retire e e.s)
    else
      let s := countRetired e e.s
      let s := if e.is.isLast then endIssue e (gotoNext e s)
        else parkRemainder e s e.is.after (e.is.rem - 1) (e.is.hoff + e.is.len) none
      .next (postParked (parkGroup s e.gid) e.gid))

end Sys2Proof.Machine
end

