-- ==== Sys2Proof/Machine/Launch.lean ====
section
/-!
DEFINITION. Launches: the admission of records (R335 to R341), LNCH (R144), the launch port (R339), reuse hints and their
report (R94, R95, R333, R334), and the ends of teams and launches (R139, R345).
-/
namespace Sys2Proof.Machine

/-- The number under which the device's own accesses for a context translate: no core's, so that each walks afresh. -/
def noCore : Nat := 128

/-- Read 16-byte pieces of a context's memory at their homes; none when a piece has no readable translation. -/
def readCtx (s : State) (ctx va : Nat) : Nat → Option (List Byte × State)
  | 0 => some ([], s)
  | n + 1 =>
    match ctxRead s ctx va 16 with
    | none => none
    | some (bs, s) => (readCtx s ctx (va + 16) n).map (fun r => (bs ++ r.1, r.2))

/-- Write `n` 16-byte pieces of a context's memory at their homes. -/
def writeCtx (s : State) (ctx va : Nat) (bs : List Byte) : Nat → State
  | 0 => s
  | n + 1 => writeCtx (ctxWrite s ctx va (bs.take 16)) ctx (va + 16) (bs.drop 16) n

/-! ## Records (R335 to R337) -/

/-- The record's own malformations (R337). -/
def recordBad (r : List Byte) : Bool :=
  recField r 511 497 != 0 || recField r 453 448 != 0 || recField r 355 352 != 0 || recField r 308 305 != 0 ||
  recField r 257 256 != 0 || decide (12 ≤ recField r 372 369) || decide (4096 < recField r 368 356) ||
  (recField r 314 314 == 1 && decide (2 ^ 30 - 1 < recField r 351 320))

/-- The address fields of an extension block: DEP0A, DEP1A, DONEA, HINTA, each with the bytes that stand there. -/
def extAddrs (x : List Byte) : List (Nat × Nat) :=
  [(recField x 63 0, 16), (recField x 191 128, 16), (recField x 255 192, 16), (recField x 319 256, 256)]

/-- A span fails the checks of R85 as a read by the context. -/
def readBad (s : State) (ctx align va n : Nat) : Bool :=
  (checkSpan s noCore ctx false .read noRegion align va n).isSome

/-- The extension block's malformations (R337). -/
def extBad (s : State) (ctx : Nat) (x : List Byte) : Bool :=
  recField x 511 320 != 0 ||
  (extAddrs x).any (fun a => a.1 != 0 && (decide (2 ^ 49 ≤ a.1) || a.1 % 16 != 0 || readBad s ctx 16 a.1 a.2))

/-- Check a record and snapshot its extension block; none for a malformed one (R337). -/
def checkRecord (s : State) (ctx : Nat) (r : List Byte) : Option (List Byte × State) :=
  let va := 64 * recField r 496 454
  if recordBad r then none
  else if va = 0 then some ([], s)
  else if readBad s ctx 64 va 64 then none
  else match readCtx s ctx va 4 with
    | none => none
    | some (x, s) => if extBad s ctx x then none else some (x, s)

/-! ## Hints (R94) -/

/-- Entry `i` of a hint table's bytes. -/
def hintEntry (bs : List Byte) (i : Nat) : Nat := ofBytes ((bs.drop (16 * i)).take 16)

/-- The hints of a table: an entry with a nonzero reserved field, or one that overlaps an earlier entry, is dropped (R94).
DESIGN CHOICE (log 53): an entry with a class whose PAGES is 0, to which the spec gives no fate, names an empty range: it is kept,
counts nothing, and is dropped, or makes a later entry be dropped, only where its BASE lies strictly inside the other's range. -/
def parseHints (bs : List Byte) : List HintUse :=
  (List.range 16).map (fun i =>
    let v := hintEntry bs i
    let lo := fun (x : Nat) => bits x 48 12 * 4096
    let hi := fun (x : Nat) => lo x + bits x 95 64 * 4096
    let meets := fun (j : Nat) =>
      let u := hintEntry bs j
      bits u 97 96 != 0 && bits v 97 96 != 0 && decide (lo u < hi v ∧ lo v < hi u)
    { cls := bits v 97 96, pages := bits v 95 64, base := lo v
      dropped := bits v 127 98 != 0 || bits v 63 49 != 0 || bits v 11 0 != 0 || (List.range i).any meets })

/-- The hints a launch takes: none when its report area fails the check of R333. -/
def takeHints (s : State) (ctx va : Nat) : List HintUse × State :=
  if va = 0 then ([], s)
  else if (checkSpan s noCore ctx false .write noRegion 16 (va + 256) 272).isSome then ([], s)
  else match readCtx s ctx va 16 with
    | some (bs, s) => (parseHints bs, s)
    | none => ([], s)

/-! ## Admission -/

/-- Live launches of a partition in the queue of a PRIO (R340). -/
def queued (s : State) (part prio : Nat) : Nat :=
  (s.launches.filter (fun e => partOf e.2.ctx == part && e.2.prio == prio)).length

/-- The next LAUNCHID of a context: nonzero and of no live launch (R339). -/
def nextLaunchId (s : State) (ctx : Nat) : Word :=
  let last := (s.ctx ctx).lastid
  ((List.range 520).map (fun i => last + BitVec.ofNat 32 (i + 1))).find? (fun w =>
    w != 0 && !s.launches.any (fun e => e.2.ctx == ctx && e.2.id == w)) |>.getD 1

/-- A record is refused: LREFUSED and the event LREFUSE with its reason (R339, R372). -/
def refuseRecord (s : State) (ctx reason : Nat) (byLnch : Bool) : State :=
  ctxEvent (statusAdd s ctx 8 1) ctx 3 (reason * 2 ^ 32 + b2n byLnch * 2 ^ 40)

/-- Test a dependence at admission (R341): none while it has not passed, else whether it passed by force. -/
def testDep (s : State) (ctx : Nat) (d : Nat × Word) : Option Bool × State :=
  match ctxRead s ctx d.1 16 with
  | none => (none, s)
  | some (bs, s) =>
    let o := parseBar bs
    if phasePassed o.phase d.2.toNat then
      let s := match physOf s ctx (.glob d.1) with | some p => launchAcquire s p | none => s
      (some (o.forcedPast d.2.toNat), s)
    else (none, s)

/-- A well-formed record enters its queue as a launch with a LAUNCHID, or is refused when the queue is full (R339 to R341);
code of its context is fetched afresh (R57). Answers the LAUNCHID, 0 for a refusal. -/
def enqueue (s : State) (ctx : Nat) (r x : List Byte) (byLnch : Bool) : Word × State :=
  let prio := recField r 319 317
  if 64 ≤ queued s (partOf ctx) prio then (0, refuseRecord s ctx 2 byLnch)
  else
    let id := nextLaunchId s ctx
    let s := s.setCtx ctx { s.ctx ctx with lastid := id }
    let s := statusSet s ctx 0 id.toNat
    let (hints, s) := takeHints s ctx (recField x 319 256)
    let named := [(recField x 63 0, BitVec.ofNat 32 (recField x 95 64)),
      (recField x 191 128, BitVec.ofNat 32 (recField x 127 96))].filter (fun d => d.1 != 0)
    let (deps, forced, s) := named.foldl (fun st d =>
      let (b, s) := testDep st.2.2 ctx d
      match b with
      | some f => (st.1, st.2.1 || f, s)
      | none => (st.1 ++ [d], st.2.1, s)) (([] : List (Nat × Word)), false, s)
    let (key, s) := s.fresh
    let s := dropCode s ctx none
    let s := s.setLaunch key { ctx, id, record := r, ext := x, age := key, deps, hints }
    (id, if forced then cancelLaunch s key else s)

/-- A checked record goes to the host for approval under ADMIT = 1 (R315, R372). -/
def holdRecord (s : State) (ctx : Nat) (r x : List Byte) (flight : Option Nat) : State :=
  let cx := s.ctx ctx
  let hid := nextName cx.hid (cx.held.map (fun h => h.hid))
  let s := s.setCtx ctx { cx with hid, held := cx.held ++ [⟨hid, r, x, flight⟩] }
  ctxEvent s ctx 7 (hid.toNat + recField r 319 317 * 2 ^ 32 + b2n flight.isSome * 2 ^ 35)

/-- The partition's ADMIT bit (R314). -/
def admitHost (s : State) (ctx : Nat) : Bool := (s.part (partOf ctx)).split.getLsbD 1

/-- LNCH's record: the copy from the scratchpad with KADDR replaced (R144). -/
def lnchRecord (bs : List Byte) (k : VAddr) : List Byte :=
  let v := ofBytes bs
  toBytes (v - bits v 304 256 * 2 ^ 256 + k.toNat * 2 ^ 256) 64

/-- LNCH (R144). -/
def execLnch (c : Ctl) (d a : RegCode) (disp : BitVec 32) (s : State) : Host.Outcome State Fault Refusal :=
  instr (.lnch c d a disp) s (fun e lanes =>
    if e.flagFull c then .next e.s
    else if lanes &&& e.pres = 0 then .next (retire e (launchFlight e.s (e.answer c d 4 lanes 0)))
    else if e.accessHeld then .next e.s
    else
      let off := (readReg e.g 0 a.toNat).toNat
      match checkPadSpan e.s e.g.team 64 off 64 with
      | some x => .next (e.onceBad lanes x)
      | none =>
        if lineBusy e.s e.gid (.pad e.g.team 0) then .next e.s
        else
          let r := lnchRecord (readBytes e.t.pad off 64) (e.target disp)
          match checkRecord e.s e.ctx r with
          | none => .next (retire e (launchFlight (refuseRecord e.s e.ctx 1 true) (e.answer c d 4 lanes 0)))
          | some (x, s) =>
            if admitHost s e.ctx then
              let id := s.nextId
              let s := launchFlight s { e.answer c d 4 lanes 0 with kind := .lnch }
              .next (retire e (holdRecord s e.ctx r x (some id)))
            else
              let (lid, s) := enqueue s e.ctx r x true
              .next (retire e (launchFlight s (e.answer c d 4 lanes lid.toNat))))

/-- LNCH's answer from the host: D is written and the operation completes (R144, R315). -/
def answerLnch (s : State) (flight : Option Nat) (lid : Nat) : State :=
  match flight with
  | none => s
  | some id =>
    match aget? s.flights id with
    | none => s
    | some f => landAll (s.setFlight id { f with kind := .result, vals := f.vals.map (fun x => (x.1, lid)) }) id

/-- The enabled partition of a function (R366). -/
def partOfFunc (s : State) (func : Nat) : Option Nat :=
  ((s.parts.filter (fun e => e.2.enabled && e.2.func == func)).head?).map (fun e => e.1)

/-- LAUNCH_PORT_WRITE: one posted write of 64 bytes at the port of a live context submits a record; any other is dropped
(R339, R370). -/
def execLaunchPortWrite (func off : Nat) (data : List Byte) (s : State) : Host.Outcome State Fault Refusal :=
  match partOfFunc s func with
  | none => .next s
  | some p =>
    let n := (off - 0x10000) / 64
    let ctx := p * 1024 + n
    if off < 0x10000 || off % 64 != 0 || 1024 ≤ n || data.length != 64 || (s.ctx ctx).state != .live then .next s
    else match checkRecord s ctx data with
      | none => .next (refuseRecord s ctx 1 false)
      | some (x, s) =>
        if admitHost s ctx then .next (holdRecord s ctx data x none) else .next (enqueue s ctx data x false).2

/-- HINT_CHECK: a range's count stands at a multiple of 4,096 and its ratio is checked (R95). -/
def execHintCheck (launch idx : Nat) (s : State) : Host.Outcome State Fault Refusal :=
  match aget? s.launches launch with
  | none => .next s
  | some l =>
    match l.hints[idx]? with
    | none => .next s
    | some h =>
      if h.accesses = 0 || h.accesses % 4096 != 0 then .next s
      else .next (s.setLaunch launch { l with
        hints := l.hints.set idx { h with contradicted := h.contradicted || h.outside } })

/-! ## The ends of teams and launches -/

/-- Work of a team that its end waits for (R139): Swage commands and Anvil requests; and its queued table operations and
drains, as they use the tables and the scratchpad that the end releases (log 88). -/
def teamBusy (s : State) (key : Nat) (t : Team) : Bool :=
  (s.core t.core).commands.any (fun x => x.team == key) ||
  (s.cluster (t.core / 4)).table.any (fun r => r.team == key) ||
  (s.core t.core).crucible.any (fun o => o.team == key) ||
  (s.core t.core).drains.any (fun d => (s.group d.2.gid).team == key && (aget? s.groups d.2.gid).isSome)

/-- Resident teams of a context. -/
def residents (s : State) (ctx : Nat) : List (Nat × Team) :=
  s.teams.filter (fun e => (s.launch e.2.launch).ctx == ctx)

/-- Take a team and its groups out of residency; a context without a resident team ends its residency period, and a
pre-emption of it has nothing left to stop. -/
def dropTeam (s : State) (key : Nat) : State :=
  let ctx := (s.launch (s.team key).launch).ctx
  let s := { s with teams := adel s.teams key, groups := s.groups.filter (fun e => e.2.team != key) }
  if (residents s ctx).isEmpty then s.setCtx ctx { s.ctx ctx with since := none, stopping := none, deferred := none } else s

/-- Slots that an ending team's groups still hold: those with operations assigned to a flag (R139). -/
def keepSlots (s : State) (key : Nat) (t : Team) : State :=
  let flagged := fun (gid : Nat) => s.flights.any (fun f => f.2.gid == gid && f.2.flag.isSome)
  let mine := (s.groups.filter (fun e => e.2.team == key && flagged e.1)).map (fun e =>
    (e.1, e.2.slot, 512 * (s.launch t.launch).vregs))
  let k := s.core t.core
  s.setCore t.core { k with ended := k.ended.filter (fun x => flagged x.1) ++ mine }

/-- TEAM_END (R139). -/
def execTeamEnd (team : Nat) (s : State) : Host.Outcome State Fault Refusal :=
  match aget? s.teams team with
  | none => .next s
  | some t =>
    if t.live != 0 || teamBusy s team t then .next s
    else
      let s := dropTeam (keepSlots s team t) team
      match aget? s.launches t.launch with
      | none => .next s
      | some l => .next (s.setLaunch t.launch { l with ended := l.ended + 1 })

/-- The report's entry of a hint, none for one neither contradicted nor dropped (R334). -/
def reportEntry (h : HintUse) (i : Nat) : Option (List Byte) :=
  let top := 2 ^ 32 - 1
  if h.dropped then some (toBytes (i + h.cls * 16 + 2 * 2 ^ 6) 16)
  else if h.cls != 0 && h.contradicted then
    some (toBytes (i + h.cls * 16 + 2 ^ 6 + min h.accesses top * 2 ^ 64 + min h.misses top * 2 ^ 96) 16)
  else none

/-- The hint report of a launch, after its last check (R95, R334). -/
def hintReport (l : Launch) : List Byte :=
  let hs := l.hints.map (fun h => { h with contradicted := h.contradicted || h.outside })
  let es := (hs.zip (List.range 16)).filterMap (fun x => reportEntry x.1 x.2)
  toBytes (es.length + l.id.toNat * 2 ^ 32) 16 ++ es.flatten

/-- Writes of a launch are not yet acknowledged (R310). -/
def launchWriting (s : State) (l : Launch) : Bool :=
  s.cores.any (fun k => k.2.origins.any (fun o => o.2.ctx == l.ctx && o.2.launchid == l.id))

/-- LAUNCH_END: writebacks, the report, the arrival on DONEA, which no core's last release on its line then covers, the queue
entry and the event (R345); the launch unit waits while an event of an earlier launch's end is still to be posted (R371;
log 92). -/
def execLaunchEnd (launch : Nat) (s : State) : Host.Outcome State Fault Refusal :=
  match aget? s.launches launch with
  | none => .next s
  | some l =>
    if l.ended < l.teams || launchWriting s l ||
        (s.func (s.part (partOf l.ctx)).func).waiting.any (fun e => e.type == 2) then .next s
    else
      let s := l.cores.foldl writebackAll s
      let r := hintReport l
      let s := if l.hints.isEmpty then s else writeCtx s l.ctx (recField l.ext 319 256 + 256) r (r.length / 16)
      let done := recField l.ext 255 192
      let s := match (if done = 0 then none else physOf s l.ctx (.glob done)) with
        | some p => creditObj s noCore p 0 1
        | none => s
      .next (ctxEvent { s with launches := adel s.launches launch } l.ctx 2 l.id.toNat)

end Sys2Proof.Machine
end

