-- ==== Sys2Proof/Machine/Save.lean ====
section
/-!
DEFINITION. The save area: the frames of suspended teams (R353, R355 to R357) and their restoration (R359, R360).
-/
namespace Sys2Proof.Machine

/-! ## Bytes -/

/-- Pad bytes with zeros to a length. -/
def padTo (n : Nat) (bs : List Byte) : List Byte := bs ++ List.replicate (n - bs.length) 0

/-- Pad bytes to a multiple of 64. -/
def pad64 (bs : List Byte) : List Byte := padTo ((bs.length + 63) / 64 * 64) bs

/-- A section of `n` bytes with fields at rising offsets. -/
def layOut (n : Nat) (fs : List (Nat × List Byte)) : List Byte :=
  padTo n (fs.foldl (fun acc f => padTo f.1 acc ++ f.2) [])

/-- The `n` bytes at an offset. -/
def cut (bs : List Byte) (off n : Nat) : List Byte := (bs.drop off).take n

/-- The number that `n` bytes at an offset hold. -/
def numAt (bs : List Byte) (off n : Nat) : Nat := ofBytes (cut bs off n)

/-- Read `n` 64-byte units of interleaved device memory from a 64-byte-aligned offset on, at their homes (R366, R369). -/
def readDev (s : State) (d : Nat) : Nat → List Byte
  | 0 => []
  | n + 1 => (homeRead s (devPlace d) 64).1 ++ readDev s (d + 64) n

/-- Write 64-byte units of interleaved device memory. -/
def writeDev (s : State) (d : Nat) (bs : List Byte) : Nat → State
  | 0 => s
  | n + 1 => writeDev (homeWrite s (devPlace d) (bs.take 64)) (d + 64) (bs.drop 64) n

/-! ## Liveness (R353) -/

/-- What a team's frame keeps: each group's registers, and the team's tiles, tables and scratchpad ranges. -/
structure Keep where
  regs : List (BitVec 96 × Word × BitVec 12)
  tiles : Byte
  tables : Nibble
  ranges : List (Nat × Nat)

/-- Full liveness (R353). -/
def fullLive (l : Launch) : Liveness :=
  ⟨BitVec.ofNat 96 (2 ^ l.vregs - 1), BitVec.allOnes 32, BitVec.allOnes 12, BitVec.allOnes 8, BitVec.allOnes 4,
    if l.padBytes = 0 then [] else [(0, l.padBytes)]⟩

/-- A stopped group's liveness; an ended group has none. -/
def liveOf (l : Launch) (g : Group) : Liveness :=
  if g.allEnded then ⟨0, 0, 0, 0, 0, []⟩
  else match g.stop with
    | some (.record r) => r
    | _ => fullLive l

/-- Unite ranges: ascending and disjoint (R356). -/
def unite (rs : List (Nat × Nat)) : List (Nat × Nat) :=
  (sortBy (fun r => r.1) rs).foldl (fun acc r =>
    match acc.getLast? with
    | some x => if r.1 ≤ x.1 + x.2 then acc.dropLast ++ [(x.1, max x.2 (r.1 + r.2 - x.1))] else acc ++ [r]
    | none => [r]) []

/-- The groups of a team, by GROUPID. -/
def groupsOf (s : State) (team : Nat) : List (Nat × Group) :=
  sortBy (fun e => e.2.idx) (s.groups.filter (fun e => e.2.team == team))

/-- What a stopped team keeps (R353). -/
def keepOf (s : State) (team : Nat) : Keep :=
  let t := s.team team
  let l := s.launch t.launch
  let lives := (groupsOf s team).map (fun e => liveOf l e.2)
  { regs := lives.map (fun x => (x.vmask, x.smask, x.pmask))
    tiles := lives.foldl (fun m x => m ||| x.tiles) 0
    tables := lives.foldl (fun m x => m ||| x.tables) 0
    ranges := unite (lives.flatMap (fun x => x.ranges)) }

/-! ## Group frames (R357) -/

/-- A quad's stack holds poisoned entries, spilled or resident (R380). -/
def stackBad (s : State) (g : Group) (q : Nat) (x : Quad) : Bool :=
  x.badStack || (List.range x.spilled).any (fun i => s.isPoisoned (spillPlace s g q i))

/-- Entries of a quad's stack, the oldest first. -/
def stackOf (s : State) (g : Group) (q : Nat) (x : Quad) : List DWord :=
  (List.range x.spilled).map (fun i => BitVec.ofNat 64 (ofBytes (readBytes s.mem (spillPlace s g q i) 8))) ++
  x.resident.reverse

/-- The kind's code. -/
def QKind.code : QKind → Nat
  | .header => 0 | .remainder => 1 | .ended => 2 | .absent => 3

/-- A quad record (R357). -/
def quadRecord (det : Bool) (x : Quad) : List Byte :=
  let rem := x.kind == .remainder
  let word := x.kind.code + (if rem then x.rem * 4 + x.seta * 2 ^ 7 + x.setb * 2 ^ 11 else 0)
    + b2n (x.trapHeld || x.handled) * 2 ^ 15 + b2n x.regang.isSome * 2 ^ 16 + b2n x.waiting.isSome * 2 ^ 17
  let arrived := match x.regang with
    | some r => if det then r.2.2.toNat % 2 ^ 32 else 0
    | none => 0
  layOut 32 [(0, toBytes (if x.lives then x.pc.toNat + (if rem then x.hoff * 2 ^ 56 else 0) else 0) 8),
    (8, toBytes word 4), (12, toBytes (x.mask.toNat + x.exited.toNat * 16) 4), (16, toBytes x.dix.toNat 8),
    (24, toBytes x.depth 4), (28, toBytes arrived 4)]

/-- The 15 group words of the trap frame, TSTATE to SCRD (R357). -/
def frameWords (f : Frame) : List Byte :=
  toBytes f.tstate.toNat 4 ++ toBytes f.tpcl.toNat 4 ++ toBytes f.tpch.toNat 4 ++ toBytes f.tfault.toNat 16 ++
  toBytes f.tact.toNat 16 ++ (List.range 4).flatMap (fun i => toBytes (Store.get f.scr i).toNat 4)

/-- TLCAUSE, TLADDRL and TLADDRH of lanes 0 to 127. -/
def laneWords (f : Frame) : List Byte :=
  (List.range 128).flatMap (fun l =>
    toBytes (Store.get f.tlcause l).toNat 4 ++ toBytes (Store.get f.tladdr l).toNat 8)

/-- The F0 to F11 counts, 6 bits each. -/
def flagBytes (g : Group) : List Byte :=
  toBytes ((List.range 12).foldl (fun v f => v + (Store.get g.flags f).toNat * 2 ^ (6 * f)) 0) 9

/-- The V registers of a mask, ascending. -/
def liveRegs (m : BitVec 96) : List Nat := (List.range 96).filter m.getLsbD

/-- A group frame (R357). -/
def groupFrame (s : State) (g : Group) (keep : BitVec 96 × Word × BitVec 12) : List Byte :=
  let det := (s.launch (s.team g.team).launch).det
  let inh := g.frame.tstate.getLsbD 10
  let quads := (List.range 32).map (fun q => (q, g.quad q))
  let vs := liveRegs keep.1
  pad64 (
    layOut 2048 [(0, toBytes g.idx 4), (4, toBytes g.sticky.toNat 4), (8, toBytes g.lclk.toNat 8),
      (16, toBytes g.seed.toNat 8), (24, flagBytes g),
      (33, [BitVec.ofNat 8 (b2n inh + b2n g.park * 2 + b2n (quads.any (fun x => x.2.trapHeld)) * 4)]),
      (34, toBytes vs.length 2), (36, toBytes keep.1.toNat 12), (48, frameWords g.frame),
      (128, quads.flatMap (fun x => quadRecord det x.2))] ++
    quads.flatMap (fun x => (stackOf s g x.1 x.2).flatMap (fun e => toBytes e.toNat 8)) ++
    (if inh then laneWords g.frame else []) ++
    (List.range 32).flatMap (fun i => toBytes (if keep.2.1.getLsbD i then (Store.get g.sr i).toNat else 0) 4) ++
    (List.range 128).flatMap (fun l => toBytes ((List.range 12).foldl (fun v p =>
      v + (if keep.2.2.getLsbD p then (Store.get g.p (16 * l + p)).toNat * 2 ^ p else 0)) 0) 2) ++
    vs.flatMap (fun r => (List.range 128).flatMap (fun l => toBytes (Store.get g.v (128 * l + r)).toNat 4)))

/-! ## Team frames (R356) -/

/-- The address field of a phase clock: bit 63 marks a scratchpad offset. -/
def placeCode : Place → Nat
  | .glob va => va
  | .pad _ off => 2 ^ 63 + off

/-- A saved Anvil request. -/
def requestBytes (r : Request) : List Byte :=
  layOut 256 [(0, toBytes r.w0.toNat 4), (4, toBytes r.w2.toNat 4), (8, toBytes r.pc.toNat 8), (64, r.snapA),
    (128, r.snapB), (192, r.record.flatMap (fun w => toBytes w.toNat 4))]

/-- A saved Swage command. -/
def commandBytes (x : SwageCmd) : List Byte :=
  pad64 (layOut 256 [(0, toBytes x.w0.toNat 4), (4, toBytes x.w2.toNat 4), (8, toBytes x.pc.toNat 8),
      (16, toBytes (x.flag.getD 15) 1), (64, x.snapD), (128, x.snapS), (192, toBytes (x.index.headD 0).toNat 4)] ++
    (x.index.drop 1).flatMap (fun w => toBytes w.toNat 4))

/-- Requests of a team, in table order. -/
def teamRequests (s : State) (key : Nat) : List Request :=
  (s.cluster ((s.team key).core / 4)).table.filter (fun r => r.team == key)

/-- Commands of a team that R252 saves: CPYRs that wait for a permit, then those not accepted, in their order. -/
def teamCommands (s : State) (key : Nat) : List SwageCmd :=
  let k := s.core (s.team key).core
  sortBy (fun x => x.flight) ((k.swage.map (fun x => x.2)).filter (fun x => x.team == key)) ++
  k.swageQueue.filter (fun x => x.team == key)

/-- The claimed tables of a mask that are live. -/
def liveTables (t : Team) (m : Nibble) : List Nat :=
  (List.range 4).filter (fun i => m.getLsbD i && (t.table i).claimed)

/-- The mapped tiles of a mask. -/
def liveTiles (t : Team) (m : Byte) : List Nat := (List.range 8).filter (fun i => m.getLsbD i && (t.tile i).mapped)

/-- The rotation position of a team (R279, R356). -/
def rotationCode (t : Team) : Nat :=
  match aget? t.rotation 2 with
  | some k => k / 32 + k % 32 * 16
  | none => 0

/-- The sections of a team frame after its header. -/
def frameBody (s : State) (key : Nat) (keep : Keep) (reqs : List Request) (cmds : List SwageCmd) : List Byte :=
  let t := s.team key
  let tabs := liveTables t keep.tables
  (List.range 16).flatMap (fun i =>
    let h := t.handle i
    layOut 80 [(0, h.desc), (64, toBytes (h.gen.toNat + b2n h.valid * 2 ^ 12) 2)]) ++
  (List.range 4).flatMap (fun i =>
    let x := t.table i
    layOut 32 [(0, x.words.flatMap (fun w => toBytes w.toNat 4)), (20, toBytes x.spillcnt.toNat 4),
      (24, toBytes x.drops.toNat 4), (28, [BitVec.ofNat 8 (b2n x.claimed + b2n (tabs.contains i) * 2)])]) ++
  (List.range 8).flatMap (fun i =>
    -- PEND counts the requests saved with it (R255)
    toBytes (putField (t.tile i).status 6 0 (reqs.filter (fun r => r.tile == i)).length).toNat 16) ++
  pad64 (t.pclk.flatMap (fun c =>
    toBytes (placeCode c.1) 8 ++ toBytes c.2.1.toNat 8 ++ toBytes c.2.2.toNat 8 ++ toBytes 0 8)) ++
  ((groupsOf s key).zip keep.regs).flatMap (fun e => groupFrame s e.1.2 e.2) ++
  (liveTiles t keep.tiles).flatMap (fun i =>
    let x := t.tile i
    (List.range 16384).flatMap (fun j => toBytes (Store.get x.elems j).toNat (if x.wide then 8 else 4))) ++
  reqs.flatMap requestBytes ++ cmds.flatMap commandBytes ++
  pad64 (keep.ranges.flatMap (fun r => readBytes t.pad r.1 r.2) ++
    tabs.flatMap (fun i => readBytes t.pad (t.table i).range.1 (t.table i).range.2))

/-- A team frame (R356). -/
def teamFrame (s : State) (key : Nat) (keep : Keep) (reqs : List Request) (cmds : List SwageCmd) : List Byte :=
  let t := s.team key
  let l := s.launch t.launch
  let body := frameBody s key keep reqs cmds
  layOut 2048 [(0, toBytes (2048 + body.length) 8), (8, toBytes l.id.toNat 4), (12, toBytes t.teamid 4), (16, l.record),
    (80, toBytes t.check.toNat 2), (82, toBytes t.ngroups 1),
    (83, toBytes (b2n l.det + b2n l.isCluster * 2 + t.cslot * 4) 1),
    (84, (List.range 8).flatMap (fun i =>
      let x := t.tile i
      if x.mapped then toBytes (1 + b2n x.wide * 2 + x.prio * 4) 1 else [0])),
    (92, toBytes reqs.length 2), (94, toBytes cmds.length 2), (96, toBytes t.pclk.length 4),
    (100, toBytes (rotationCode t) 4), (104, toBytes keep.ranges.length 4),
    (128, keep.ranges.flatMap (fun r => toBytes (r.1 + r.2 * 2 ^ 32) 8))] ++ body

/-! ## Restoration (R353, R359) -/

/-- A stack entry that R17 refuses: a reserved KIND, a nonzero reserved field, a REM outside its kind's range; and one of
KIND 0 (log 89). -/
def badEntry (e : DWord) : Bool :=
  let k := entryKind e
  k == 0 || decide (4 < k) || bits e.toNat 50 47 != 0 ||
  (if k = 4 then decide (entryRem e < 1 ∨ 24 < entryRem e) else entryRem e != 0)

/-- A value's low 32 bits with the high ones of the largest such number not above a clock. -/
def widen (low : Nat) (now : DWord) : DWord :=
  let hi := now.toNat / 2 ^ 32
  BitVec.ofNat 64 (if low ≤ now.toNat % 2 ^ 32 then hi * 2 ^ 32 + low else (hi + 2 ^ 32 - 1) % 2 ^ 32 * 2 ^ 32 + low)

/-- A quad of a quad record; its stack is restored apart. -/
def parseQuad (b : List Byte) (lclk : DWord) (handler : Bool) : Quad :=
  let a := numAt b 0 8
  let w := numAt b 8 4
  let m := numAt b 12 4
  let kind := match w % 4 with | 0 => QKind.header | 1 => .remainder | 2 => .ended | _ => .absent
  { kind, pc := BitVec.ofNat 49 a, mask := BitVec.ofNat 4 m, exited := BitVec.ofNat 4 (m / 16)
    dix := BitVec.ofNat 64 (numAt b 16 8)
    rem := bits w 6 2, seta := bits w 10 7, setb := bits w 14 11, hoff := bits a 62 56
    trapHeld := bitOf w 15 && !handler, handled := bitOf w 15 && handler, handler
    regang := if bitOf w 16 then some (BitVec.ofNat 49 a - 4, 0, widen (numAt b 28 4) lclk) else none
    waiting := if bitOf w 17 then some ⟨.glob 0, 0⟩ else none }

/-- The trap frame of its group words. -/
def parseFrame (b : List Byte) (lanes : List Byte) : Frame :=
  let w := fun (i : Nat) => BitVec.ofNat 32 (numAt b (4 * i) 4)
  let tact : LaneMask := BitVec.ofNat 128 (numAt b 28 16)
  { tstate := w 0, tpcl := w 1, tpch := w 2 &&& 0x00FFFFFF#32, tfault := BitVec.ofNat 128 (numAt b 12 16), tact
    scr := (List.range 4).foldl (fun m i => Store.set m i (w (11 + i))) []
    tlcause := (List.range 128).foldl (fun m l => Store.set m l (BitVec.ofNat 8 (numAt lanes (12 * l) 4))) []
    tladdr := (List.range 128).foldl (fun m l => Store.set m l (BitVec.ofNat 49 (numAt lanes (12 * l + 4) 8))) []
    gang := (List.range 32).foldl (fun m q =>
      if laneNibble tact q ≠ 0 then m ||| BitVec.ofNat 32 (2 ^ q) else m) 0 }

/-- STICKY's flags and ARM bits; its reserved bits read as zero (R7, R30). -/
def stickyBits : Word := 0x1F1F#32

/-- A group as its frame gives it, the mask of the V registers saved, and its quads' stacks, oldest entry first. -/
structure GroupImage where
  g : Group
  vmask : BitVec 96
  stackWords : List (List DWord)
  len : Nat

/-- Parse a group frame at the head of some bytes; none where a count leaves them. Its count of retired instructions
restarts at 0, as the frame has no field for it (R21; log 90). -/
def parseGroup (b : List Byte) : Option GroupImage :=
  let rec_ := fun (q : Nat) => cut b (128 + 32 * q) 32
  let depths := (List.range 32).map (fun q => numAt (rec_ q) 24 4)
  if depths.any (fun d => decide (256 < d)) then none
  else
    let total := depths.foldl (· + ·) 0
    let inh := bitOf (numAt b 48 4) 10
    let lanesAt := 2048 + 8 * total
    let sAt := lanesAt + (if inh then 1536 else 0)
    let vmask := BitVec.ofNat 96 (numAt b 36 12)
    let vs := liveRegs vmask
    let len := (sAt + 384 + 512 * vs.length + 63) / 64 * 64
    if b.length < len then none
    else
      let f := parseFrame (cut b 48 60) (if inh then cut b lanesAt 1536 else [])
      let lclk := BitVec.ofNat 64 (numAt b 8 8)
      let quads := (List.range 32).map (fun q =>
        (q, parseQuad (rec_ q) lclk (inh && f.gang.getLsbD q && decide (laneNibble f.tfault q ≠ 0))))
      let stackWords := ((depths.foldl (fun acc d =>
        (acc.1 ++ [(List.range d).map (fun i => BitVec.ofNat 64 (numAt b (2048 + 8 * (acc.2 + i)) 8))], acc.2 + d))
          (([] : List (List DWord)), 0))).1
      let flags := numAt b 24 9
      let p := (List.range 128).foldl (fun m l => (List.range 12).foldl (fun m i =>
        Store.set m (16 * l + i) (BitVec.ofNat 1 (numAt b (sAt + 128 + 2 * l) 2 / 2 ^ i))) m) []
      let v := (vs.zip (List.range vs.length)).foldl (fun m x => (List.range 128).foldl (fun m l =>
        Store.set m (128 * l + x.1) (BitVec.ofNat 32 (numAt b (sAt + 384 + 512 * x.2 + 4 * l) 4))) m) []
      some {
        g := { idx := numAt b 0 4, sticky := BitVec.ofNat 32 (numAt b 4 4) &&& stickyBits, lclk, seed := BitVec.ofNat 64 (numAt b 16 8)
               flags := (List.range 12).foldl (fun m i => Store.set m i (BitVec.ofNat 6 (flags / 2 ^ (6 * i)))) []
               park := bitOf (numAt b 33 1) 1, frame := f, quads
               sr := (List.range 32).foldl (fun m i => Store.set m i (BitVec.ofNat 32 (numAt b (sAt + 4 * i) 4))) []
               p, v }
        vmask, stackWords, len }

/-- Restore a quad's stack: the 16 newest entries or fewer are resident, the rest, a multiple of 8, are spilled (R19). -/
def restoreStack (s : State) (gid q : Nat) (es : List DWord) : State :=
  let n := if es.length ≤ 16 then 0 else (es.length - 16 + 7) / 8 * 8
  let g := s.group gid
  let mem := ((es.take n).zip (List.range n)).foldl
    (fun m x => writeBytes m (spillPlace s g q x.2) (toBytes x.1.toNat 8)) s.mem
  let s' : State := (List.range (n / 8)).foldl (fun t i => t.clearPoison (spillPlace s g q (8 * i)) 64) { s with mem := mem }
  updQuad s' gid q (fun x => { x with spilled := n, resident := (es.drop n).reverse })

/-- Parse the group frames of a team; the bytes that follow them. -/
def parseGroups (b : List Byte) : Nat → Option (List GroupImage × List Byte)
  | 0 => some ([], b)
  | n + 1 =>
    match parseGroup b with
    | none => none
    | some x => (parseGroups (b.drop x.len) n).map (fun r => (x :: r.1, r.2))

/-- Slots of a core that groups of ended teams hold, with their register-file bytes: until their flagged operations
complete (R139). -/
def endedSlots (s : State) (core : Nat) : List (Nat × Nat) :=
  ((s.core core).ended.filter (fun x => s.flights.any (fun f => f.2.gid == x.1 && f.2.flag.isSome))).map (fun x => x.2)

/-- A group holds its residency slot: until it has ended and its flagged operations have completed (R139). -/
def holdsSlot (s : State) (gid : Nat) (g : Group) : Bool :=
  !g.allEnded || s.flights.any (fun f => f.2.gid == gid && f.2.flag.isSome)

/-- Slots of a core that no group holds. -/
def freeSlots (s : State) (core : Nat) : List Nat :=
  let held := (s.groups.filter (fun e => e.2.core == core && holdsSlot s e.1 e.2)).map (fun e => e.2.slot) ++
    (endedSlots s core).map (fun x => x.1)
  (List.range 96).filter (fun i => !held.contains i)

/-- A team's tiles as a frame gives them, the live ones with their elements; the bytes that follow. -/
def parseTiles (hd status b : List Byte) (live : Byte) : AList Tile × List Byte :=
  (List.range 8).foldl (fun acc i =>
    let h := numAt hd i 1
    if !bitOf h 0 then acc
    else
      let wide := bitOf h 1
      let w := if wide then 8 else 4
      -- bits 33:7 are reserved, and PEND is the table's (R255)
      let t : Tile := { mapped := true, wide, prio := bits h 4 2
                        status := BitVec.ofNat 128 (numAt status (16 * i) 16 / 2 ^ 34 * 2 ^ 34) }
      if live.getLsbD i then
        (aset acc.1 i { t with elems := (List.range 16384).foldl (fun m j =>
            Store.set m j (BitVec.ofNat 64 (numAt acc.2 (w * j) w))) [] }, acc.2.drop (16384 * w))
      else (aset acc.1 i t, acc.2)) ([], b)

/-- A saved request with what its frame holds. -/
def parseRequest (r : Request) (b : List Byte) : Request :=
  { r with
    w0 := BitVec.ofNat 32 (numAt b 0 4), w2 := BitVec.ofNat 32 (numAt b 4 4), pc := BitVec.ofNat 49 (numAt b 8 8)
    snapA := if r.snapA.isEmpty then [] else cut b 64 64
    snapB := if r.snapB.isEmpty then [] else cut b 128 64
    record := (List.range r.record.length).map (fun i => BitVec.ofNat 32 (numAt b (192 + 4 * i) 4)) }

/-- A saved command with what its frame holds. -/
def parseCommand (x : SwageCmd) (b : List Byte) : SwageCmd :=
  { x with
    w0 := BitVec.ofNat 32 (numAt b 0 4), w2 := BitVec.ofNat 32 (numAt b 4 4), pc := BitVec.ofNat 49 (numAt b 8 8)
    flag := if numAt b 16 1 < 12 then some (numAt b 16 1) else none
    snapD := cut b 64 64, snapS := cut b 128 64
    index := BitVec.ofNat 32 (numAt b 192 4) ::
      (List.range (x.index.length - 1)).map (fun i => BitVec.ofNat 32 (numAt b (256 + 4 * i) 4)) }

/-- Put a range's or table's bytes into a scratchpad; the bytes that follow. -/
def putPad (acc : Store 8 × List Byte) (off n : Nat) : Store 8 × List Byte :=
  (writeBytes acc.1 off (acc.2.take n), acc.2.drop n)

/-- A team read from its frame, with its groups, requests and commands. -/
structure TeamImage where
  t : Team
  groups : List GroupImage
  keep : Keep
  reqs : List Request
  cmds : List SwageCmd

/-- Parse a team frame; none where a count or size disagrees with the frame's length. -/
def parseTeam (l : Launch) (x : Saved) (core : Nat) (b : List Byte) : Option TeamImage :=
  let npclk := numAt b 96 4
  let nrng := numAt b 104 4
  if numAt b 0 8 ≠ b.length ∨ b.length < 32 * npclk + 3584 ∨ 128 < nrng ∨ numAt b 92 2 ≠ x.reqs.length ∨
      numAt b 94 2 ≠ x.cmds.length ∨ numAt b 82 1 ≠ l.ngroups then none
  else
    let clocks := cut b 3584 (32 * npclk)
    match parseGroups (b.drop (3584 + (32 * npclk + 63) / 64 * 64)) l.ngroups with
    | none => none
    | some (gs, rest) =>
      let status := cut b 3456 128
      let (tiles, rest) := parseTiles (cut b 84 8) status rest x.live
      let reqs := (x.reqs.zip (List.range x.reqs.length)).map (fun r => parseRequest r.1 (cut rest (256 * r.2) 256))
      let rest := rest.drop (256 * x.reqs.length)
      let (cmds, rest) := x.cmds.foldl (fun acc c =>
        (acc.1 ++ [parseCommand c acc.2], acc.2.drop (commandBytes c).length)) (([] : List SwageCmd), rest)
      let ranges := (List.range nrng).map (fun i =>
        (numAt b (128 + 8 * i) 8 % 2 ^ 32, numAt b (128 + 8 * i) 8 / 2 ^ 32))
      let tabs := (List.range 4).map (fun i =>
        let tb := cut b (3328 + 32 * i) 32
        let on := bitOf (numAt tb 28 1) 0
        (i, ({ claimed := on
               words := if on then (List.range 5).map (fun j => BitVec.ofNat 32 (numAt tb (4 * j) 4)) else []
               spillcnt := BitVec.ofNat 32 (numAt tb 20 4), drops := BitVec.ofNat 32 (numAt tb 24 4) } : Table),
          bitOf (numAt tb 28 1) 1))
      let liveTabs := tabs.filter (fun y => y.2.1.claimed && y.2.2)
      let fits := fun (r : Nat × Nat) => decide (r.1 + r.2 ≤ l.padBytes)
      if !ranges.all fits || !liveTabs.all (fun y => fits y.2.1.range) then none
      else
        let acc := ranges.foldl (fun acc r => putPad acc r.1 r.2) (([] : Store 8), rest)
        let acc := liveTabs.foldl (fun acc y => putPad acc y.2.1.range.1 y.2.1.range.2) acc
        let rot := numAt b 100 4
        let key := rot % 16 * 32 + bits rot 8 4
        some {
          t := { launch := x.launch, teamid := numAt b 12 4, cslot := bits (numAt b 83 1) 3 2, core, ngroups := l.ngroups
                 live := (gs.filter (fun g => !g.g.allEnded)).length, check := BitVec.ofNat 16 (numAt b 80 2)
                 pad := acc.1, padPoison := x.padPoison
                 handles := (List.range 16).map (fun i =>
                   let h := cut b (2048 + 80 * i) 80
                   let w := numAt h 64 2
                   (i, ⟨bitOf w 12, BitVec.ofNat 12 w, cut h 0 64⟩))
                 tables := tabs.map (fun y => (y.1, y.2.1))
                 tiles := tiles.map (fun y => (y.1, { y.2 with poisoned := x.badTiles.contains y.1 }))
                 rotation := [(0, key), (1, key), (2, key)]
                 pclk := (List.range npclk).map (fun i =>
                   let c := cut clocks (32 * i) 32
                   let a := numAt c 0 8
                   (if bitOf a 63 then Place.pad x.team (a % 2 ^ 63) else .glob a, BitVec.ofNat 64 (numAt c 8 8),
                     BitVec.ofNat 64 (numAt c 16 8))) }
          groups := gs, reqs, cmds
          keep := { regs := gs.map (fun g => (g.vmask, BitVec.allOnes 32, BitVec.allOnes 12)), tiles := x.live
                    tables := liveTabs.foldl (fun m y => m ||| BitVec.ofNat 4 (2 ^ y.1)) 0, ranges } }

/-- Put a team and its groups on a core: the groups take the lowest free slots (R359). -/
def seatTeam (s : State) (x : Saved) (im : TeamImage) : State :=
  let slots := freeSlots s im.t.core
  let s := s.setTeam x.team im.t
  (x.groups.zip (im.groups.zip (List.range im.groups.length))).foldl (fun s y =>
    let (gid, gi, i) := y
    let key := fun (q : Nat) => gi.g.idx * 32 + q
    let g : Group := { gi.g with
      team := x.team, core := im.t.core, slot := slots.getD i 0
      pend := x.pend.getD i []
      quads := gi.g.quads.map (fun q => (q.1, { q.2 with
        det := (aget? x.det (key q.1)).getD q.1, only := aget? x.only (key q.1), freed := x.freed.contains (key q.1) })) }
    let s := s.setGroup gid g
    (gi.stackWords.zip (List.range 32)).foldl (fun s st => restoreStack s gid st.2 st.1) s) s

/-- The restored groups may go on from their resume points: a blocked WAIT is issued again (R349). -/
def readyTeam (s : State) (team : Nat) : State :=
  { s with groups := s.groups.map (fun e =>
      if e.2.team = team then
        (e.1, { e.2 with quads := e.2.quads.map (fun q => (q.1, { q.2 with waiting := none })) })
      else e) }

/-- A descriptor's reserved fields are zero (R96, R98). -/
def descReserved (bs : List Byte) : Bool :=
  bits (descWord bs 0) 9 4 == 0 && bits (descWord bs 0) 23 18 == 0 &&
  (zeroWords (dType bs)).all (fun i => descWord bs i == 0)

/-- The restored image is what its frame says, its fields lie in their ranges, and no reserved field of its entries, claim
words and descriptors is nonzero (R17, R359). -/
def imageOk (s : State) (x : Saved) (im : TeamImage) (b : List Byte) : Bool :=
  im.groups.all (fun g =>
    g.stackWords.all (fun es => es.all (fun e => !badEntry e)) &&
    g.g.quads.all (fun q => q.2.kind != .remainder || decide (1 ≤ q.2.rem ∧ q.2.rem ≤ 24))) &&
  im.t.tables.all (fun y => !y.2.claimed || !y.2.malformed) &&
  im.t.handles.all (fun y => !y.2.valid || descReserved y.2.desc) &&
  im.t.check == x.check && im.t.teamid == x.teamid &&
  decide (teamFrame s x.team im.keep im.reqs im.cmds = b)

/-- Enter a flight without marking its flag: the saved count holds it (R359). -/
def reflight (s : State) (core gid team ctx : Nat) (kind : FlightKind) (pc : VAddr) (flag origin : Option Nat) :
    Nat × State :=
  let (id, s) := s.fresh
  (id, s.setFlight id { gid, team, ctx, core, kind, pc, flag, origin })

/-- Does an MMAT's trigger stand passed at resumption: whether it was forced. -/
def retest (s : State) (r : Request) : Option Bool :=
  match r.trigger with
  | some (p, ph) =>
    if r.passed then none
    else match r.seen with
      | some b => some b
      | none => match peekBar s r.ctx p with
        | some o => if phasePassed o.phase ph.toNat then some (o.forcedPast ph.toNat) else none
        | none => none
  | none => none

/-- A saved request is entered again with its trigger tested; a completion it observes is one that its reads follow (R123,
R272). -/
def retestPull (s : State) (r : Request) : Option Bool × State :=
  let seen := retest s r
  let s := match r.trigger with
    | some (p, _) => if r.seen.isNone && seen.isSome then
        match physOf s r.ctx p with | some pa => pullPending s pa | none => s
      else s
    | none => s
  (seen, s)

/-- Enter the saved requests again in their order (R277), with a store-origin entry each that needs one, or without one until
its grant where the table is full (R310); those on a tile that was not live are discarded. -/
def reenterRequests (s : State) (core team : Nat) (live : Byte) (reqs : List Request) : State :=
  let cl := core / 4
  let s := reqs.foldl (fun s r =>
    let (org, s) := match r.origin with
      | some _ => match newOrigin s core r.gid r.pc with | some (o, s) => (some o, s) | none => (none, s)
      | none => (none, s)
    let (seen, s) := retestPull s r
    let (id, s) := reflight s core r.gid team r.ctx .anvil r.pc r.flag org
    let c := s.cluster cl
    s.setCluster cl { c with table := c.table ++
      [{ r with id, flight := id, core, origin := org, since := none, seen }] }) s
  let gone := (s.cluster cl).table.filter (fun r => r.team == team && !live.getLsbD r.tile)
  (gone.foldl (fun s r => discardRequest s cl r) s).markEligible cl

/-- Enter the saved commands again in their order; those not accepted still hold their flags (R252); one takes its
store-origin entry when it is accepted where the table is full (R310). -/
def reenterCommands (s : State) (core team : Nat) (cmds : List SwageCmd) : State :=
  cmds.foldl (fun s x =>
    let (org, s) := match newOrigin s core x.gid x.pc with | some (o, s) => (some o, s) | none => (none, s)
    let (id, s) := if x.accepted then s.fresh else reflight s core x.gid team x.ctx .swage x.pc x.flag org
    let k := s.core core
    s.setCore core { k with swageQueue := k.swageQueue ++ [{ x with flight := id, core, origin := org }] }) s

/-- Poisoned 64-byte units of a saved team's frame, by number (R380). -/
def badUnits (s : State) (ctx : Nat) (x : Saved) : List Nat :=
  (List.range (x.len / 64)).filter (fun i => s.isPoisoned (devPlace ((s.ctx ctx).save + x.addr + 64 * i)))

/-- Restore a saved team on a core (R359): none where its frame is refused with RESTORE, or is poisoned (R380; log 103). -/
def restoreTeam (s : State) (ctx : Nat) (x : Saved) (core : Nat) : Option State :=
  let b := readDev s ((s.ctx ctx).save + x.addr) (x.len / 64)
  if !(badUnits s ctx x).isEmpty then none
  else match parseTeam (s.launch x.launch) x core b with
  | none => none
  | some im =>
    let s1 := seatTeam s x im
    if !imageOk s1 x im b then none
    else
      let dead := (List.range 4).filter (fun i => (im.t.table i).claimed && !im.keep.tables.getLsbD i)
      let s := dead.foldl (fun s i => emptyTable s x.team i) (readyTeam s1 x.team)
      let s := selfInvalidate s core true
      let s := reenterRequests s core x.team x.live im.reqs
      some (reenterCommands s core x.team im.cmds)

end Sys2Proof.Machine
end

