-- ==== Sys2Proof/Machine/Sched.lean ====
section
/-!
DEFINITION. Placement (R342 to R344), residency, slices and pre-emption (R347 to R349), suspension (R354, R355) and
resumption (R359), and the passage of time.
-/
namespace Sys2Proof.Machine

/-! ## Room -/

/-- Everything a core and its cluster's Anvil hold (R20, R28, R220, R254). -/
def Room.whole : Room := ⟨96, 2 ^ 21, 2 ^ 20, 2 ^ 19, 32⟩

/-- Does a need fit in what is free. -/
def Room.holds (r n : Room) : Bool :=
  decide (n.slots ≤ r.slots ∧ n.rf ≤ r.rf ∧ n.pad ≤ r.pad ∧ n.claim ≤ r.claim ∧ n.tiles ≤ r.tiles)

/-- What is left. -/
def Room.less (r n : Room) : Room :=
  ⟨r.slots - n.slots, r.rf - n.rf, r.pad - n.pad, r.claim - n.claim, r.tiles - n.tiles⟩

/-- The smaller of each. -/
def Room.meet (r n : Room) : Room :=
  ⟨min r.slots n.slots, min r.rf n.rf, min r.pad n.pad, min r.claim n.claim, min r.tiles n.tiles⟩

/-- What a core has free (R342). -/
def roomOf (s : State) (core : Nat) : Room :=
  let free := freeSlots s core
  let rf := s.groups.foldl (fun n e =>
    if e.2.core = core && holdsSlot s e.1 e.2 then n + 512 * (s.launch (s.team e.2.team).launch).vregs else n) 0
  let pad := s.teams.foldl (fun n e => if e.2.core = core then n + (s.launch e.2.launch).padBytes else n) 0
  let rf := (endedSlots s core).foldl (fun n x => n + x.2) rf
  ⟨free.length, 2 ^ 21 - rf, 2 ^ 20 - pad, 2 ^ 19 - claimedBytes s core, freeTiles s (core / 4)⟩

/-! ## Units (R342, R343) -/

/-- Units of a launch. -/
def Launch.units (l : Launch) : Nat := recField l.record 351 320 + 1

/-- A unit in placement order: its key in that order, its context, and what each of its teams needs, by the core it takes
from the unit's first one on; a gang's teams take the cores of their CSLOTs (R342). -/
structure Candidate where
  unit : PlaceUnit
  key : Nat
  prio : Nat
  ctx : Nat
  gang : Bool
  needs : AList Room

/-- The cores a unit spreads over, from its first one on. -/
def Candidate.spread (c : Candidate) : List Nat := List.range (if c.gang then 4 else 1)

/-- Placement order: PRIO, age, number (R343). -/
def orderKey (prio age num : Nat) : Nat := ((7 - prio) * 2 ^ 64 + age) * 2 ^ 34 + num

/-- What a team of a launch needs. -/
def Launch.need (l : Launch) : Room := ⟨l.ngroups, 512 * l.ngroups * l.vregs, l.padBytes, 0, 0⟩

/-- A context whose units may be placed: live, with no pre-emption in progress. -/
def mayPlace (s : State) (ctx : Nat) : Bool := (s.ctx ctx).state == .live && (s.ctx ctx).stopping.isNone

/-- The next unit of each placeable launch of a partition (R340, R341). -/
def freshUnits (s : State) (part : Nat) : List Candidate :=
  s.launches.filterMap (fun e =>
    let l := e.2
    if partOf l.ctx = part && mayPlace s l.ctx && l.deps.isEmpty && decide (l.next < l.units) then
      some { unit := ⟨e.1, l.next, false⟩, key := orderKey l.prio l.age l.next, prio := l.prio, ctx := l.ctx
             gang := l.isCluster, needs := (List.range (if l.isCluster then 4 else 1)).map (fun i => (i, l.need)) }
    else none)

/-- The core a team takes, from its unit's first one on: its CSLOT in a gang (R342). -/
def Launch.seat (l : Launch) (teamid : Nat) : Nat := if l.isCluster then teamid % 4 else 0

/-- The unit a saved team belongs to. -/
def Saved.unit (x : Saved) (l : Launch) : PlaceUnit := ⟨x.launch, if l.isCluster then x.teamid / 4 else x.teamid, true⟩

/-- The saved teams of a unit, by TEAMID. -/
def savedOf (s : State) (ctx : Nat) (u : PlaceUnit) : List Saved :=
  sortBy (fun x => x.teamid) ((s.ctx ctx).saved.filter (fun x => decide (x.unit (s.launch x.launch) = u)))

/-- The suspended units of a partition. -/
def savedUnits (s : State) (part : Nat) : List Candidate :=
  (s.ctxs.filter (fun e => partOf e.1 = part && mayPlace s e.1)).flatMap (fun e =>
    (distinct (e.2.saved.map (fun x => x.unit (s.launch x.launch)))).map (fun u =>
      let l := s.launch u.launch
      let xs := savedOf s e.1 u
      { unit := u, key := orderKey l.prio ((xs.map (fun x => x.age)).headD 0) u.num, prio := l.prio, ctx := e.1
        gang := l.isCluster
        needs := xs.map (fun x => (l.seat x.teamid, { l.need with claim := x.claimed, tiles := x.tiles })) }))

/-- The units of a partition in placement order. -/
def unitsOf (s : State) (part : Nat) : List Candidate :=
  sortBy (fun c => c.key) (freshUnits s part ++ savedUnits s part)

/-- Check values a partition's teams hold, suspended ones included (R101). -/
def heldChecks (s : State) (part : Nat) : List (BitVec 16) :=
  (s.teams.filter (fun e => partOf (s.launch e.2.launch).ctx = part)).map (fun e => e.2.check) ++
  (s.ctxs.filter (fun e => partOf e.1 = part)).flatMap (fun e => e.2.saved.map (fun x => x.check))

/-- A free check value: the drawn one, or the first free one (R101; log 11). -/
def freeCheck (s : State) (part n : Nat) : BitVec 16 :=
  let held := heldChecks s part
  let c := Config.checkValue n
  if c ≠ 0 && !held.contains c then c
  else (((List.range 65535).map (fun i => BitVec.ofNat 16 (i + 1))).find? (fun x => !held.contains x)).getD 1

/-- Where a unit may go: its first core, such that each of its teams' cores belongs to the partition and is in service; a
gang goes to a cluster (R342). -/
def spotsOf (s : State) (part : Nat) (c : Candidate) : List Nat :=
  let ok := fun (k : Nat) => (s.part part).clusters.getLsbD (k / 4) && (s.core k).service == .inService
  let bases := if c.gang then (List.range 32).map (fun i => 4 * i) else List.range 128
  bases.filter (fun b => c.needs.all (fun x => ok (b + x.1)))

/-- Physical tiles a unit needs. -/
def Candidate.tiles (c : Candidate) : Nat := c.needs.foldl (fun n x => n + x.2.tiles) 0

/-- A unit fits from a core on, with the room each core has (R342). -/
def fitsAt (room : Nat → Room) (c : Candidate) (base : Nat) : Bool :=
  c.needs.all (fun x => (room (base + x.1)).holds x.2 && decide (c.tiles ≤ (room (base + x.1)).tiles))

/-- Free residency slots at a spot. -/
def slotsAt (room : Nat → Room) (c : Candidate) (base : Nat) : Nat :=
  c.spread.foldl (fun a i => a + (room (base + i)).slots) 0

/-- R343's choice of a spot: the most free residency slots, then the lowest. -/
def chooseSpot (s : State) (part : Nat) (room : Nat → Room) (c : Candidate) : Option Nat :=
  leastBy (fun b => 512 - slotsAt room c b) ((spotsOf s part c).filter (fitsAt room c))

/-- A unit not yet started needs free check values (R101, R342). -/
def checksFit (s : State) (part : Nat) (c : Candidate) : Bool :=
  c.unit.suspended || decide ((heldChecks s part).length + c.needs.length ≤ 65535)

/-! ## Starting teams (R25, R341) -/

/-- A group at its team's start (R25). -/
def startGroup (l : Launch) (team idx core slot : Nat) : Group :=
  let n := min 128 (l.nlanes - 128 * idx)
  { team, idx, core, slot
    quads := (List.range 32).map (fun q =>
      (q, if 4 * q < n then
        { kind := .header, pc := BitVec.ofNat 49 (recField l.record 304 256), mask := 0xF } else {}))
    sr := (List.range 8).foldl (fun m i => Store.set m i (BitVec.ofNat 32 (recField l.record (32 * i + 31) (32 * i)))) []
    sticky := BitVec.ofNat 32 (recField l.record 313 309 * 2 ^ 8)
    seed := BitVec.ofNat 64 (recField l.record 447 384) }

/-- A context's first team becomes resident (R347). -/
def noteResident (s : State) (ctx : Nat) : State :=
  let c := s.ctx ctx
  s.setCtx ctx { c with since := some (c.since.getD s.clock) }

/-- A core ran a team of a launch (R345). -/
def noteCore (s : State) (launch core : Nat) : State :=
  let l := s.launch launch
  s.setLaunch launch { l with cores := if l.cores.contains core then l.cores else l.cores ++ [core] }

/-- Start a team on a core: with the self-invalidation of its first instruction (R25, R341). -/
def startTeam (s : State) (launch teamid core : Nat) : State :=
  let l := s.launch launch
  let slots := freeSlots s core
  let (key, s) := s.fresh
  let s := s.setTeam key {
    launch, teamid, cslot := if l.isCluster then teamid % 4 else 0, core, ngroups := l.ngroups, live := l.ngroups
    check := freeCheck s (partOf l.ctx) (s.tick + key) }
  let s := (List.range l.ngroups).foldl (fun s i =>
    let (gid, s) := s.fresh
    s.setGroup gid (startGroup l key i core (slots.getD i 0))) s
  noteCore (selfInvalidate s core true) launch core

/-! ## Placement -/

/-- A save area holds no more frames: VALID clears, and the switch cost is measured (R347, R359). -/
def allResumed (s : State) (ctx : Nat) : State :=
  let c := s.ctx ctx
  let us := (c.saveCost + (s.clock - c.resumeAt.getD s.clock)) / 600
  let s := s.setCtx ctx { c with costus := us, resumeAt := none }
  let s := homeWrite s (devPlace (c.save + 16)) [0]
  statusSet s ctx 36 us

/-- Resume the suspended teams of a unit from a core on; a frame that is refused kills the context with RESTORE (R359), and
one that is poisoned with POISON (R380; log 103). -/
def resumeUnit (s : State) (c : Candidate) (base : Nat) : State :=
  let xs := savedOf s c.ctx c.unit
  let cx := s.ctx c.ctx
  let s := s.setCtx c.ctx { cx with resumeAt := some (cx.resumeAt.getD s.clock) }
  let done := xs.foldl (fun st x =>
    match st with
    | none => none
    | some s =>
      let core := base + (s.launch c.unit.launch).seat x.teamid
      (restoreTeam s c.ctx x core).map (fun s => noteCore s c.unit.launch core)) (some s)
  match done with
  | none =>
    let bad := xs.any (fun x => !(badUnits s c.ctx x).isEmpty)
    contextFatal s c.ctx { cause := (if bad then Cause.poison else Cause.restore).code
                           launchid := (s.launch c.unit.launch).id.toNat
                           teamid := (xs.map (fun x => x.teamid)).headD 0 }
  | some s =>
    let s := noteResident s c.ctx
    let cx := s.ctx c.ctx
    let s := s.setCtx c.ctx { cx with saved := cx.saved.filter (fun x => !xs.contains x) }
    if (s.ctx c.ctx).saved.isEmpty then allResumed s c.ctx else s

/-- Place a unit from a core on: start its teams, or resume them (R343). -/
def placeUnit (s : State) (c : Candidate) (base : Nat) : State :=
  if c.unit.suspended then resumeUnit s c base
  else
    let n := c.needs.length
    let s := c.spread.foldl (fun s i => startTeam s c.unit.launch (n * c.unit.num + i) (base + i)) s
    let l := s.launch c.unit.launch
    noteResident (s.setLaunch c.unit.launch { l with next := l.next + 1 }) c.ctx

/-- The waiting unit's target: R343's choice with what resident groups hold counted as free, and what of it is free now
(R344). -/
def waitFor (s : State) (part : Nat) (c : Candidate) : Option WaitUnit :=
  (chooseSpot s part (fun _ => Room.whole) c).map (fun b =>
    { unit := c.unit, overtaken := 0, target := c.spread.map (fun i => (b + i, roomOf s (b + i))) })

/-- The room other units may use: on the waiting unit's target, what is not reserved, tiles over the whole cluster; claimed
bytes are not reserved (R344). -/
def openRoom (s : State) (w : WaitUnit) (core : Nat) : Room :=
  let r := roomOf s core
  match aget? w.target core with
  | some x => { x.meet r with claim := r.claim }
  | none => match w.target.find? (fun t => t.1 / 4 == core / 4) with
    | some (_, x) => { r with tiles := min r.tiles x.tiles }
    | none => r

/-- The waiting unit after another was placed from a core on. -/
def WaitUnit.overtake (w : WaitUnit) (c : Candidate) (base : Nat) : WaitUnit :=
  { w with
    overtaken := w.overtaken + 1
    target := w.target.map (fun t =>
      let x := match c.needs.find? (fun n => base + n.1 == t.1) with
        | some n => t.2.less { n.2 with tiles := 0 }
        | none => t.2
      (t.1, if t.1 / 4 = base / 4 then { x with tiles := x.tiles - c.tiles } else x)) }

/-- Place the first of some units that fits in the room given, noting the waiting unit it overtakes (R343, R344). -/
def placeFirst (s : State) (part : Nat) (w : Option WaitUnit) (room : Nat → Room) : List Candidate → State
  | [] => s
  | c :: cs =>
    match (if checksFit s part c then chooseSpot s part room c else none) with
    | some b =>
      placeUnit (s.setPart part { s.part part with wait := w.map (fun w => w.overtake c b) }) c b
    | none => placeFirst s part w room cs

/-- The waiting unit goes on waiting, while it is to be placed and none of a higher PRIO is (R344). -/
def keptWait (s : State) (part : Nat) (us : List Candidate) : Option (WaitUnit × Candidate) :=
  match (s.part part).wait with
  | none => none
  | some w =>
    match us.find? (fun c => decide (c.unit = w.unit)) with
    | some c => if us.any (fun x => decide (c.prio < x.prio)) then none else some (w, c)
    | none => none

/-- Where a unit fits: on the waiting unit's own target, else anywhere (R343, R344). -/
def spotFor (s : State) (part : Nat) (w : Option WaitUnit) (c : Candidate) : Option Nat :=
  let aim := w.bind (fun w => (w.target.head?).bind (fun t =>
    if fitsAt (roomOf s) c t.1 && (spotsOf s part c).contains t.1 then some t.1 else none))
  if checksFit s part c then aim.orElse (fun _ => chooseSpot s part (roomOf s) c) else none

/-- A partition's waiting unit, or none; with another one, what the floor defers is another request (R347). -/
def setWait (s : State) (part : Nat) (w : Option WaitUnit) : State :=
  let p := s.part part
  let s := s.setPart part { p with wait := w }
  if p.wait.map (fun w => w.unit) = w.map (fun w => w.unit) then s
  else { s with ctxs := s.ctxs.map (fun e =>
      if partOf e.1 = part && !e.2.asked then (e.1, { e.2 with deferred := none }) else e) }

/-- PLACEMENT: one placement decision of a partition (R343, R344): the waiting unit, or the first one, where it fits; else
it waits, and another may overtake it. A first unit that no core or cluster of the partition could hold waits for
nothing, and the first later one that fits is placed (log 91). -/
def execPlacement (part : Nat) (s : State) : Host.Outcome State Fault Refusal :=
  let p := s.part part
  if !p.enabled || s.iluic.stopped then .next s
  else
    let us := unitsOf s part
    let kept := keptWait s part us
    match (match kept with | some x => some x.2 | none => us.head?) with
    | none => .next (setWait s part none)
    | some c =>
      match spotFor s part (kept.map (fun x => x.1)) c with
      | some b => .next (placeUnit (setWait s part none) c b)
      | none =>
        let rest := us.filter (fun x => decide (x.unit ≠ c.unit))
        match (match kept with | some x => some x.1 | none => waitFor s part c) with
        | none => .next (placeFirst (setWait s part none) part none (roomOf s) rest)
        | some w =>
          let s := setWait s part (some w)
          if 32 ≤ w.overtaken then .next s else .next (placeFirst s part (some w) (openRoom s w) rest)

/-! ## Time (R2, R33, R348) -/

/-- A context's residency is counted: resident, not stopping, and not with every resident group parked (R348). -/
def counts (s : State) (n : Nat) (c : Context) : Bool :=
  let mine := s.groups.filter (fun e => ctxOf s e.2 == n && !e.2.allEnded)
  c.since.isSome && c.state == .live && c.stopping.isNone && (mine.isEmpty || mine.any (fun e => !e.2.park))

/-- Time passes before a step: one clock, and as many more as the free value says (log 5). -/
def advance (s : State) : State :=
  let d := 1 + Config.extraClocks s.tick
  { s with
    tick := s.tick + 1
    clock := s.clock + d
    ctxs := s.ctxs.map (fun e => if counts s e.1 e.2 then (e.1, { e.2 with ran := e.2.ran + d }) else e) }

/-- TIMELIMIT (R348). -/
def execTimelimit (ctx : Nat) (s : State) : Host.Outcome State Fault Refusal :=
  let c := s.ctx ctx
  if c.state == .live && c.tlimit != 0 && decide (c.tlimit * 600000 < c.ran)
  then .next (contextFatal s ctx { cause := Cause.timelimit.code })
  else .next s

/-! ## Requests to stop (R347, R349) -/

/-- Microseconds a context has been resident in its period. -/
def residentUs (s : State) (c : Context) : Nat := (s.clock - c.since.getD s.clock) / 600

/-- The floor in microseconds (R347). -/
def floorUs (c : Context) : Nat := max c.slice (2 * c.costus)

/-- The floor of a resident context has passed. -/
def floorPassed (s : State) (c : Context) : Bool := c.since.isSome && decide (floorUs c ≤ residentUs s c)

/-- The contexts of a partition that a waiting unit of another context may displace. -/
def displaceable (s : State) (part : Nat) : List (Nat × Context) :=
  match (s.part part).wait with
  | none => []
  | some w =>
    let owner := (s.launch w.unit.launch).ctx
    if !(unitsOf s part).any (fun c => decide (c.unit = w.unit)) then []
    else s.ctxs.filter (fun e => partOf e.1 = part && e.1 != owner && e.2.since.isSome && e.2.state == .live)

/-- The one longest in its residency period, ties to the lower CTXID. -/
def longest (cs : List (Nat × Context)) : Option Nat :=
  (leastBy (fun e => e.2.since.getD 0 * 1024 + e.1 % 1024) cs).map (fun e => e.1)

/-- The device wants to pre-empt a context under SLICE = 0, now that its floor has passed (R347). -/
def wantsNow (s : State) (ctx : Nat) : Bool :=
  let part := partOf ctx
  !(s.part part).split.getLsbD 2 && !(displaceable s part).any (fun e => e.2.stopping.isSome) &&
  longest ((displaceable s part).filter (fun e => floorPassed s e.2)) == some ctx

/-- The device would pre-empt a context, but for the floor (R347). -/
def wantsLater (s : State) (ctx : Nat) : Bool :=
  let part := partOf ctx
  !(s.part part).split.getLsbD 2 && !(displaceable s part).any (fun e => e.2.stopping.isSome || floorPassed s e.2) &&
  longest (displaceable s part) == some ctx

/-- Microseconds by which the floor deferred a request first due at a clock (R347). -/
def deferralUs (s : State) (c : Context) (t : Nat) : Nat :=
  (min s.clock (c.since.getD s.clock + 600 * floorUs c) - t) / 600

/-- PREEMPTION_REQUEST: for the waiting unit of another context, or by the host, once the floor has passed; a deferral by
the floor is counted (R347). -/
def execPreemptionRequest (ctx : Nat) (s : State) : Host.Outcome State Fault Refusal :=
  let c := s.ctx ctx
  if c.state != .live || c.since.isNone || c.stopping.isSome then .next s
  else if floorPassed s c && (c.asked || wantsNow s ctx) then
    let s := match c.deferred with
      | some t => statusAdd s ctx 20 (deferralUs s c t)
      | none => s
    let us := if c.deadline = 0 then 100 else c.deadline
    -- what the floor deferred of other contexts for the same unit is not requested
    let s : State := { s with ctxs := s.ctxs.map (fun e =>
      if partOf e.1 = partOf ctx && !e.2.asked then (e.1, { e.2 with deferred := none }) else e) }
    .next (s.setCtx ctx { s.ctx ctx with
      stopping := some (s.clock + us * 600), reqAt := s.clock, asked := false, deferred := none })
  else if !floorPassed s c && decide (c.slice < floorUs c ∧ c.slice ≤ residentUs s c) && c.deferred.isNone &&
      (c.asked || wantsLater s ctx) then
    .next ((statusAdd s ctx 16 1).setCtx ctx { (statusAdd s ctx 16 1).ctx ctx with deferred := some s.clock })
  else .next s

/-- Stop a group at the deadline: between clauses, or at an instruction its port holds (R349). -/
def forceStop (s : State) (ctx gid : Nat) : State :=
  let g := s.group gid
  let port := g.slot % 2
  let stop := fun (s : State) => statusAdd (s.updGroup gid (fun g => { g with stop := some .full })) ctx 24 1
  match ((s.core g.core).port port).issue with
  | none => stop s
  | some i =>
    if i.gid ≠ gid then stop s
    else if !(i.held || i.clockHeld) then s
    else match ({ s with cur := (g.core, port) } : State).env? with
      | some e => stop { (parkRemainder e s i.pc i.rem i.hoff i.only) with cur := s.cur }
      | none => s

/-- DEADLINE: the stop deadline has passed, and every group not yet stopped stops with full liveness (R349). -/
def execDeadline (ctx : Nat) (s : State) : Host.Outcome State Fault Refusal :=
  if pastDeadline s ctx then
    .next (s.groups.foldl (fun s e =>
      if ctxOf s e.2 == ctx && !stopped s ctx e.2 then forceStop s ctx e.1 else s) s)
  else .next s

/-! ## Suspension (R354, R355) -/

/-- Operations that a suspension waits for: all but commands that are not accepted, CPYRs without a permit, and requests
between units (R354). -/
def unfinished (s : State) (ctx : Nat) : Bool :=
  s.flights.any (fun f => f.2.ctx == ctx && f.2.kind != .swage && f.2.kind != .anvil) ||
  s.cores.any (fun k => k.2.swage.any (fun x => x.2.ctx == ctx && !x.2.waiting) ||
    k.2.crucible.any (fun o => o.ctx == ctx) || k.2.drains.any (fun d => d.2.ctx == ctx)) ||
  s.clusters.any (fun c => c.2.table.any (fun r => r.ctx == ctx && c.2.runs r))

/-- What a function finds in the quads of groups, by GROUPID × 32 + quad. -/
def byQuad {α : Type} (gs : List (Nat × Group)) (f : Quad → Option α) : AList α :=
  gs.flatMap (fun e => e.2.quads.filterMap (fun q => (f q.2).map (fun v => (e.2.idx * 32 + q.1, v))))

/-- What a stopped team's frame has no place for. -/
def savedTeam (s : State) (key addr len age : Nat) : Saved :=
  let t := s.team key
  let gs := groupsOf s key
  { launch := t.launch, teamid := t.teamid, team := key, groups := gs.map (fun e => e.1), check := t.check, addr, len, age
    live := (keepOf s key).tiles
    tiles := t.tiles.foldl (fun n x => n + x.2.phys) 0
    claimed := t.tables.foldl (fun n x => if x.2.claimed then n + x.2.range.2 else n) 0
    reqs := teamRequests s key, cmds := teamCommands s key
    det := byQuad gs (fun q => some q.det), only := byQuad gs (fun q => q.only)
    freed := (byQuad gs (fun q => if q.freed then some () else none)).map (fun x => x.1)
    pend := gs.map (fun e => e.2.pend)
    badTiles := (t.tiles.filter (fun x => x.2.poisoned)).map (fun x => x.1), padPoison := t.padPoison
    -- a poisoned stack poisons its team's frame whole (log 103)
    bad := if gs.any (fun e => e.2.quads.any (fun q => stackBad s e.2 q.1 q.2)) then List.range (len / 64) else [] }

/-- Every frame of a context: its resident teams' as they stand, and those not yet resumed; in order of LAUNCHID and
TEAMID, with their teams (R355). -/
def framesOf (s : State) (ctx : Nat) : List (Saved × List Byte) :=
  let now := (residents s ctx).map (fun e =>
    let b := teamFrame s e.1 (keepOf s e.1) (teamRequests s e.1) (teamCommands s e.1)
    (savedTeam s e.1 0 b.length s.nextId, b))
  let old := (s.ctx ctx).saved.map (fun x => ({ x with bad := badUnits s ctx x }, readDev s ((s.ctx ctx).save + x.addr) (x.len / 64)))
  sortBy (fun x => (s.launch x.1.launch).id.toNat * 2 ^ 32 + x.1.teamid) (now ++ old)

/-- Frames with the addresses they take from offset 64 on. -/
def addressed (fs : List (Saved × List Byte)) : List (Saved × List Byte) :=
  (fs.foldl (fun st x => (st.1 ++ [({ x.1 with addr := st.2, len := x.2.length }, x.2)], st.2 + x.2.length))
    (([] : List (Saved × List Byte)), 64)).1

/-- Take a context's teams out of the cores: slots, registers, scratchpad, tiles, commands and requests (R354). -/
def vacate (s : State) (ctx : Nat) : State :=
  let mine := fun (t : Nat) => (s.launch (s.team t).launch).ctx == ctx
  { s with
    cores := s.cores.map (fun e => (e.1, { e.2 with
      origins := e.2.origins.filter (fun o => o.2.ctx != ctx)
      swageQueue := e.2.swageQueue.filter (fun x => x.ctx != ctx)
      swage := e.2.swage.filter (fun x => x.2.ctx != ctx) }))
    clusters := s.clusters.map (fun e => (e.1, { e.2 with table := e.2.table.filter (fun r => r.ctx != ctx) }))
    flights := s.flights.filter (fun f => f.2.ctx != ctx)
    groups := s.groups.filter (fun e => !mine e.2.team)
    teams := s.teams.filter (fun e => !mine e.1) }

/-- Write a frame into the save area; its poisoned units stay so (R380). -/
def writeFrame (s : State) (ctx : Nat) (x : Saved × List Byte) : State :=
  let at_ := (s.ctx ctx).save + x.1.addr
  x.1.bad.foldl (fun s i => s.poisonSector (sectorOf (devPlace (at_ + 64 * i))))
    (writeDev s at_ x.2 (x.2.length / 64))

/-- Write the save area and its header (R355, R356). -/
def writeSave (s : State) (ctx : Nat) (fs : List (Saved × List Byte)) : State :=
  let c := s.ctx ctx
  let total := fs.foldl (fun n x => n + x.2.length) 0
  let hd := toBytes (fs.length + (c.seq.toNat + 1) % 2 ^ 32 * 2 ^ 32 + total * 2 ^ 64 + 2 ^ 128) 64
  fs.foldl (fun s x => writeFrame s ctx x) (writeDev s c.save hd 1)

/-- SUSPENSION (R354): a stopped context's operations have completed; its frames are sized, the hard release is performed,
and the save area is written. -/
def execSuspension (ctx : Nat) (s : State) : Host.Outcome State Fault Refusal :=
  let c := s.ctx ctx
  if c.state != .live || !suspending s ctx || (residents s ctx).isEmpty || unfinished s ctx then .next s
  else
    let fs := addressed (framesOf s ctx)
    if c.savelen * 2 ^ 16 < 64 + fs.foldl (fun n x => n + x.2.length) 0 then
      let s : State := { s with groups := s.groups.map (fun e =>
        if ctxOf s e.2 == ctx then (e.1, { e.2 with stop := none }) else e) }
      let s := s.setCtx ctx { c with stopping := none }
      .next (statusAdd s ctx 32 1)
    else
      let cores := distinct (((s.launches.filter (fun e => e.2.ctx == ctx)).flatMap (fun e => e.2.cores)) ++
        (residents s ctx).map (fun e => e.2.core))
      let s := cores.foldl writebackAll s
      let s := vacate (writeSave s ctx fs) ctx
      .next { (s.setCtx ctx { s.ctx ctx with
          since := none, stopping := none, deferred := none, seq := c.seq + 1, saveCost := s.clock - c.reqAt
          resumeAt := none, saved := fs.map (fun x => x.1) }) with nextId := s.nextId + 1 }

end Sys2Proof.Machine
end

