-- ==== Sys2Proof/Machine/Errors.lean ====
section
/-!
DEFINITION. Errors and their handling (R374, R380, R381), Chord links and peer windows (R377 to R379), host completions
(R376), reset and secure boot (R383), and power and temperature (R385).
-/
namespace Sys2Proof.Machine

/-! ## The log (R374) and module events (R372) -/

/-- The interleaved offset of a device place, the form of R369. -/
def devOffset (pa : Nat) : Nat :=
  let o := pa % 2 ^ 36
  o / 4096 * 32768 + pa / 2 ^ 36 * 4096 + o % 4096

/-- The partition that owns a core's cluster, if any. -/
def corePart (s : State) (core : Nat) : Option Nat :=
  ((s.parts.filter (fun e => e.2.enabled && e.2.clusters.getLsbD (core / 4))).head?).map (fun e => e.1)

/-- An entry about a place of home memory. -/
def placeEntry (s : State) (pa unit site kind : Nat) : LogEntry :=
  ⟨s.nanos, devOffset pa, 1, 0xFFFF, ownerOf s pa, 0, 0, unit, site, kind, 0⟩

/-- An entry about a core. -/
def coreEntry (s : State) (core unit kind : Nat) : LogEntry :=
  ⟨s.nanos, 0, 1, 0xFFFF, (corePart s core).getD 31, (s.core core).incarnation, core, unit, core / 4, kind, 0⟩

/-- An entry about a unit that is no core's. -/
def unitEntry (s : State) (unit site kind : Nat) : LogEntry := ⟨s.nanos, 0, 1, 0xFFFF, 31, 0, 0, unit, site, kind, 0⟩

/-- An event of the module, to the physical function (R372). -/
def moduleEvent (s : State) (type data : Nat) : State := postEvent s 0 ⟨type, 0, 0xFFFF, 0, data⟩

/-- An entry about a context's unit: the context and its partition are affected (R374). -/
def LogEntry.of (x : LogEntry) (ctx : Nat) : LogEntry := { x with ctx := ctx % 1024, part := partOf ctx }

/-- The log entry of a strike: its unit and where it stands, and the context whose scratchpad, tile or region it is, or the
partition whose cluster (R374). -/
def strikeEntry (s : State) (x : Strike) (kind : Nat) : LogEntry :=
  match x with
  | .hbm pa => placeEntry s pa 0 (pa / 2 ^ 36) kind
  | .homeSlice pa => placeEntry s pa 1 (homeCluster s pa) kind
  | .l1 core line sector => { coreEntry s core 2 kind with addr := devOffset (256 * line + 64 * sector) }
  | .scratchpad team _ => (coreEntry s (s.team team).core 3 kind).of (s.launch (s.team team).launch).ctx
  | .tile team _ => (coreEntry s (s.team team).core 5 kind).of (s.launch (s.team team).launch).ctx
  | .apexNode stack slot =>
    match aget? s.regions (stack * 256 + slot) with
    | some r => (unitEntry s 6 stack kind).of r.ctx
    | none => unitEntry s 6 stack kind
  | .regFile core => coreEntry s core 4 kind
  | .coreState core => coreEntry s core 7 kind
  | .anvilCtl cluster => { unitEntry s 8 cluster kind with part := (corePart s (4 * cluster)).getD 31 }
  | .apexCtl stack => unitEntry s 8 stack kind

/-- ECC_CORRECTED: corrected in place and logged; no result changes (R380). -/
def execEccCorrected (strike : Strike) (s : State) : Host.Outcome State Fault Refusal :=
  .next (logError s (strikeEntry s strike 1))

/-! ## Quarantine (R381) -/

/-- Contexts with a group on a core or a store-origin entry in use there. -/
def contextsOn (s : State) (core : Nat) : List Nat :=
  distinct (((s.groups.filter (fun e => e.2.core == core)).map (fun e => ctxOf s e.2)) ++
    ((s.core core).origins.map (fun o => o.2.ctx)))

/-- A core's L1 is lost: the home poisons the sectors that held dirty bytes and the lines of its update-only copies
(R125, R381). -/
def loseL1 (s : State) (core : Nat) : State :=
  (s.core core).l1.foldl (fun s e =>
    let hit := match e.2.state with
      | .d => dirtySectors e.2
      | .u => List.range 4
      | _ => []
    hit.foldl (fun s k => s.poisonSector (e.1 * 4 + k)) s) s

/-- QUARANTINE: steps 1 to 5 of R381; the self-test follows. The log names the unit that was struck (R374). A core taken out
of service keeps incarnation 15, so that Hallmark entries that name it stay current (log 87). -/
def quarantine (s : State) (core unit : Nat) : State :=
  let inc := (s.core core).incarnation
  let s := s.setCore core { s.core core with service := .testing, ports := [] }
  let s := (contextsOn s core).foldl (fun s ctx =>
    contextFatal s ctx { cause := Cause.killed.code, core, inc }) s
  let s := loseL1 s core
  let out := decide (15 ≤ inc)
  let s := s.setCore core { incarnation := if out then inc else inc + 1, service := if out then .out else .testing }
  let s := logError s (coreEntry s core unit (if out then 4 else 3))
  let data := core + (s.core core).incarnation * 2 ^ 8 + b2n out * 2 ^ 12
  let s := moduleEvent s 0xB data
  match corePart s core with
  | some p => if (s.part p).func = 0 then s else postEvent s (s.part p).func ⟨0xB, 0, 0xFFFF, 0, data⟩
  | none => s

/-- A QUARANTINE event is still to be posted: the Iluic waits with it (R371). -/
def quarantineWaits (s : State) : Bool := (s.func 0).waiting.any (fun e => e.type == 0xB)

/-- CORE_REJOIN: a quarantined core that passes its self-test returns to placement; one that fails is taken out of service
(R381; log 14). -/
def execCoreRejoin (core : Nat) (s : State) : Host.Outcome State Fault Refusal :=
  let k := s.core core
  if k.service != .testing || quarantineWaits s then .next s
  else if Config.selfTest s.tick then .next (s.setCore core { k with service := .inService })
  else .next (logError (s.setCore core { k with service := .out }) (coreEntry s core 7 4))

/-- Every context with a slot on an apex unit is killed and its regions there are freed (R380). -/
def loseApex (s : State) (stack : Nat) : State :=
  let mine := distinct ((s.regions.filter (fun e => e.1 / 256 == stack)).map (fun e => e.2.ctx))
  let s := mine.foldl (fun s ctx => contextFatal s ctx { cause := Cause.killed.code }) s
  { s with regions := s.regions.filter (fun e => !mine.contains e.2.ctx) }

/-- ECC_UNCORRECTABLE: poison, or quarantine, by where it strikes (R380). -/
def execEccUncorrectable (strike : Strike) (s : State) : Host.Outcome State Fault Refusal :=
  let log := fun (s' : State) => logError s' (strikeEntry s strike 2)
  match strike with
  | .hbm pa | .homeSlice pa => .next (log (s.poisonSector (sectorOf pa)))
  | .l1 core line sector =>
    let k := s.core core
    match aget? k.l1 line with
    | none => .next s
    | some x =>
      if 4 ≤ sector then .next s
      else .next (log (s.setCore core (k.setLine line { x with poison := x.poison ||| BitVec.ofNat 4 (2 ^ sector) })))
  | .scratchpad team off =>
    match aget? s.teams team with
    | none => .next s
    | some t => .next (log (s.setTeam team { t with
        padPoison := if t.padPoison.contains (off / 64) then t.padPoison else insertBy id (off / 64) t.padPoison }))
  | .tile team tile =>
    if ((s.team team).tile tile).mapped then .next (log (updTile s team tile (fun t => { t with poisoned := true })))
    else .next s
  | .apexNode stack slot =>
    match aget? s.regions (stack * 256 + slot) with
    | none => .next s
    | some r => .next (log { s with regions := aset s.regions (stack * 256 + slot) { r with poisoned := true } })
  | .regFile core => if (s.core core).service == .inService then .next (quarantine s core 4) else .next s
  | .coreState core => if (s.core core).service == .inService then .next (quarantine s core 7) else .next s
  | .anvilCtl cluster =>
    .next (((List.range 4).map (fun i => 4 * cluster + i)).foldl (fun s c =>
      if (s.core c).service == .inService then quarantine s c 8 else s) s)
  | .apexCtl stack => .next (loseApex (log s) stack)

/-- SCRUB: a poisoned HBM sector is found and recorded (R380). -/
def execScrub (sector : Nat) (s : State) : Host.Outcome State Fault Refusal :=
  if s.poison.contains sector then .next (logError s (placeEntry s (64 * sector) 0 (64 * sector / 2 ^ 36) 9)) else .next s

/-! ## Links (R377 to R379) -/

/-- A place lies in the peer window of a link. -/
def onLink (link : Nat) (p : Place) : Bool :=
  match p with
  | .glob pa => decide (2 ^ 65 ≤ pa) && (pa - 2 ^ 65) / 2 ^ 45 == link
  | .pad _ _ => false

/-- The loads in flight on a link return poisoned data (R377). -/
def poisonLoads (s : State) (link : Nat) : State :=
  { s with flights := s.flights.map (fun f =>
      if f.2.kind == .load then
        (f.1, { f.2 with pieces := f.2.pieces.map (fun p => if onLink link p.pa then { p with bad := true } else p) })
      else f) }

/-- The writes in flight on a link are imprecise store faults with cause POISON (R377). -/
def failWrites (s : State) (link : Nat) : State :=
  s.flights.foldl (fun s f =>
    match aget? s.flights f.1 with
    | none => s
    | some x =>
      if x.kind == .through && x.pieces.any (fun p => onLink link p.pa) then
        impreciseFault s x.core x.origin x.ctx .poison ((x.pieces.map (fun p => p.va)).headD 0)
      else s) s

/-- LINK_DOWN (R377). -/
def execLinkDown (link : Nat) (s : State) : Host.Outcome State Fault Refusal :=
  if 8 ≤ link || !(s.link link).up then .next s
  else
    let s := s.setLink link { s.link link with up := false }
    let s := failWrites (poisonLoads s link) link
    .next (moduleEvent (logError s (unitEntry s 9 link 6)) 9 link)

/-- LINK_RETRY: a flit fails its CRC and is sent again; no result changes (R377). -/
def execLinkRetry (link : Nat) (s : State) : Host.Outcome State Fault Refusal :=
  if 8 ≤ link || !(s.link link).up then .next s
  else .next (s.setLink link { s.link link with retries := (s.link link).retries + 1 })

/-- Write device memory by interleaved offset at its homes, sector by sector; bytes outside the partition's extents are
dropped (R366, R370). -/
def writeOffs (s : State) (p : Part) (d : Nat) : List Byte → Nat → State
  | [], _ => s
  | _, 0 => s
  | bs, fuel + 1 =>
    let n := 64 - d % 64
    let s := if memInRange p 0 d then homeWrite s (devPlace d) (bs.take n) else s
    writeOffs s p (d + n) (bs.drop n) fuel

/-- The interleaved offset an inbound access lands at: within the window and its extent (R378). -/
def inboundAt (s : State) (link addr n : Nat) : Option (Nat × Nat) :=
  match (s.link link).inbound with
  | none => none
  | some (part, ext, len) =>
    let p := s.part part
    match p.ext[ext]? with
    | none => none
    | some e =>
      if p.enabled && (s.link link).up && decide (addr + n ≤ len * 2 ^ 30 ∧ addr + n ≤ 8 * e.2 * 2 ^ 30)
      then some (part, 8 * e.1 * 2 ^ 30 + addr) else none

/-- PEER_INBOUND_ACCESS: a peer's write is performed at the home and invalidates no L1 copy; a read recalls update-only
copies; an access outside the window goes nowhere (R118, R378, R379). -/
def execPeerInboundAccess (link addr : Nat) (data : Option (List Byte)) (s : State) : Host.Outcome State Fault Refusal :=
  match inboundAt s link addr (match data with | some bs => bs.length | none => 1) with
  | none => .next s
  | some (part, d) =>
    match data with
    | some bs => .next (writeOffs s (s.part part) d bs (bs.length + 1))
    | none => .next (recallCopies s (lineOf (devPlace d)))

/-- A place lies in a line of host memory. -/
def onHost (line pa : Nat) : Bool := decide (2 ^ 64 ≤ pa ∧ pa < 2 ^ 65) && lineOf pa == line

/-- The first unit still to land of a Swage command that reads a line of host memory. -/
def SwageCmd.readsHost (x : SwageCmd) (line : Nat) : Option CopyUnit :=
  ((x.moves.filter (fun m => !m.landed)).flatMap (fun m => m.units)).find? (fun u =>
    match u.src with
    | .at (.glob pa) => onHost line pa
    | .csr _ _ => onHost line (256 * line) && dSpace x.snapS != 1 &&
        (x.rptr ++ x.cidx ++ x.val).any (fun sp => decide (sp.pa < 256 * line + 256 ∧ 256 * line < sp.pa + sp.len))
    | _ => false)

/-- The unit of an Anvil request that runs reads a line of host memory. -/
def Request.readsHost (r : Request) (s : State) (line : Nat) : Bool :=
  match r.kind with
  | .mld => dSpace r.snapA != 1 && (runPoints (moveRuns r.snapA (r.record.getD 0 0).toNat (r.record.getD 1 0).toNat)).any
      (fun a => onHost line (spanAt r.spans a))
  | .mma | .mmat => dSpace r.snapB != 1 && (runPoints (stepRuns r)).any (fun a => onHost line (streamPlace s r a))
  | _ => false

/-- A load's pieces in a line of host memory return poisoned data, and its lanes land (R376). -/
def poisonLoad (s : State) (op line : Nat) (f : Flight) : State :=
  let hit := fun (p : Piece) => p.request == line && (match p.pa with | .glob pa => onHost line pa | .pad _ _ => false)
  if f.pieces.any hit then
    let s := performLoad s op hit
    match aget? s.flights op with
    | none => s
    | some f => landLine (s.setFlight op { f with
        pieces := f.pieces.map (fun p => if hit p then { p with bad := true } else p) }) op line
  else s

/-- HOST_COMPLETION_ERROR: a completion from host memory returns with an error and is delivered as poisoned data: to a load's
lanes; a Swage command's write of it, and an Anvil unit that reads it, are fatal to the context (R251, R275, R311, R376). -/
def execHostCompletionError (op line : Nat) (s : State) : Host.Outcome State Fault Refusal :=
  match s.cores.findSome? (fun k => (k.2.swage.find? (fun x => x.2.flight == op && !x.2.waiting)).map (fun x => x.2)) with
  | some x => match x.readsHost line with
    | some u => .next (impreciseFault s x.core x.origin x.ctx .poison (pageAddr s x.ctx x.pages u.dst))
    | none => .next s
  | none =>
    match s.clusters.findSome? (fun c => c.2.table.find? (fun r => r.flight == op && c.2.runs r)) with
    | some r => if r.readsHost s line then .next (requestFatal s r .poison 0) else .next s
    | none => match aget? s.flights op with
      | some f => if f.kind == .load then .next (poisonLoad s op line f) else .next s
      | none => .next s

/-! ## Reset (R383) -/

/-- A stage's image is accepted: its layout, the vendor's signature over its digest, its SVN, its reserved bytes. -/
def stageOk (n : Nat) (x : Stage) : Bool :=
  let b := x.image
  let len := numAt b 4 4
  b.length == 128 + len && numAt b 0 1 == n && numAt b 1 1 == 0 && numAt b 16 48 == 0 &&
  decide (x.minSvn ≤ numAt b 2 2) && Config.vendorVerify (Config.sha512 (b.take (64 + len))) (b.drop (64 + len))

/-- The image a stage runs at the next reset: the one staged, or the module's own (log 13). -/
def stageOf (u : Iluic) (n : Nat) : Stage :=
  let x := (aget? u.stages n).getD {}
  if x.image.isEmpty then { x with image := Config.firmware n } else x

/-- Load stages in order: each is measured before it runs; a refused one leaves the module in recovery. -/
def bootStages (s : State) : List Nat → State
  | [] => s
  | n :: ns =>
    let x := stageOf s.iluic n
    let u := s.iluic
    if stageOk n x then
      let digest := Config.sha512 (x.image.take (64 + numAt x.image 4 4))
      bootStages { s with iluic := { u with
        meas := Config.sha512 (u.meas ++ digest)
        stages := aset u.stages n { x with svn := numAt x.image 2 2, booted := true } } } ns
    else logError { s with iluic := { u with recovery := true } } (unitEntry s 12 n 10)

/-- MODULE_RESET: every state but fuses, staged images, host and peer memory is lost; then secure boot (R383). -/
def execModuleReset (s : State) : Host.Outcome State Fault Refusal :=
  let fresh : State := { State.reset with
    tick := s.tick, agenda := s.agenda, nextId := s.nextId
    mem := s.mem.filter (fun c => !isDevice c.1)
    iluic := { stages := s.iluic.stages.map (fun e => (e.1, { e.2 with booted := false })) } }
  .next (bootStages fresh [1, 2, 3])

/-! ## Power and temperature (R385) -/

/-- THERMAL_THROTTLE: a die passes 95 °C (R385). -/
def execThermalThrottle (die temp : Nat) (s : State) : Host.Outcome State Fault Refusal :=
  if temp ≤ 95 || 4 < die || s.iluic.stopped then .next s
  else
    let s := { s with iluic := { s.iluic with throttled := true } }
    .next (moduleEvent (logError s (unitEntry s 11 die 7)) 0xA (die + temp % 256 * 2 ^ 8))

/-- THERMAL_STOP: at 110 °C the module stops, and every context is lost (R385). -/
def execThermalStop (die temp : Nat) (s : State) : Host.Outcome State Fault Refusal :=
  if temp < 110 || 4 < die || s.iluic.stopped then .next s
  else
    let s := s.ctxs.foldl (fun s e =>
      if e.2.valid then
        let s := discardWork s e.1
        s.setCtx e.1 { s.ctx e.1 with state := .killed }
      else s) s
    let s := { s with iluic := { s.iluic with stopped := true } }
    .next (moduleEvent (logError s (unitEntry s 11 die 8)) 0xA (die + temp % 256 * 2 ^ 8 + 2 ^ 16))

/-- POWER_THROTTLE: idle clocks are inserted; results do not change (R385). -/
def execPowerThrottle (s : State) : Host.Outcome State Fault Refusal :=
  .next { s with iluic := { s.iluic with throttled := true } }

end Sys2Proof.Machine
end

