-- ==== Sys2Proof/Machine/Exchange.lean ====
section
/-!
DEFINITION. Lane and quad exchange: permutations within a quad and across the group, and the instructions that gather from
the active present lanes of the gang (R132, R145 to R148).
-/
namespace Sys2Proof.Machine

/-- QSWZ, QBC and SHFL: each active lane takes its source lane's A at issue (R146, R147). -/
def exchange (i : Instr) (s : State) (ty : Ty) (a : RegCode) : Host.Outcome State Fault Refusal :=
  perLane i s (fun e l => outD (readSet e.g ((exchangeSource i e.g l).getD l) a ty.width))

/-- QSWZ (R147). -/
def execQswz (c : Ctl) (ty : Ty) (d a : RegCode) (pat : BitVec 8) (s : State) : Host.Outcome State Fault Refusal :=
  exchange (.qswz c ty d a pat) s ty a

/-- QBC (R147). -/
def execQbc (c : Ctl) (ty : Ty) (d a : RegCode) (src : BitVec 2) (s : State) : Host.Outcome State Fault Refusal :=
  exchange (.qbc c ty d a src) s ty a

/-- SHFL.IDX (R147). -/
def execShflIdx (c : Ctl) (ty : Ty) (d a : RegCode) (b : SrcB) (s : State) : Host.Outcome State Fault Refusal :=
  exchange (.shflIdx c ty d a b) s ty a

/-- SHFL.UP (R147). -/
def execShflUp (c : Ctl) (ty : Ty) (d a : RegCode) (b : SrcB) (s : State) : Host.Outcome State Fault Refusal :=
  exchange (.shflUp c ty d a b) s ty a

/-- SHFL.DOWN (R147). -/
def execShflDown (c : Ctl) (ty : Ty) (d a : RegCode) (b : SrcB) (s : State) : Host.Outcome State Fault Refusal :=
  exchange (.shflDown c ty d a b) s ty a

/-- SHFL.XOR (R147). -/
def execShflXor (c : Ctl) (ty : Ty) (d a : RegCode) (b : SrcB) (s : State) : Host.Outcome State Fault Refusal :=
  exchange (.shflXor c ty d a b) s ty a

/-- An instruction that gathers from the active present lanes: what lane `l` receives, given those lanes (R148). -/
def gather (i : Instr) (s : State) (f : Env → List Nat → Nat → LaneOut) : Host.Outcome State Fault Refusal :=
  instr i s (fun e lanes =>
    let ps := lanesOf (lanes &&& e.pres)
    .next (afterLanes i e ((lanesOf lanes).map (fun l => (l, f e ps l)))))

/-- The bits of BALLOT in a segment of 32 lanes (R148). -/
def ballotWord (e : Env) (ps : List Nat) (p : PredCode) (seg : Nat) : Nat :=
  ps.foldl (fun v l => if l / 32 = seg ∧ readPred e.g l p then v + 2 ^ (l % 32) else v) 0

/-- BALLOT (R148). -/
def execBallot (c : Ctl) (ty : Ty) (d : RegCode) (p : PredCode) (s : State) : Host.Outcome State Fault Refusal :=
  gather (.ballot c ty d p) s (fun e ps l =>
    outD (if ty = .b128 then
        ballotWord e ps p 0 + ballotWord e ps p 1 * 2 ^ 32 + ballotWord e ps p 2 * 2 ^ 64 + ballotWord e ps p 3 * 2 ^ 96
      else ballotWord e ps p (l / 32)))

/-- VOTE.ALL (R148). -/
def execVoteAll (c : Ctl) (pd p : PredCode) (s : State) : Host.Outcome State Fault Refusal :=
  gather (.voteAll c pd p) s (fun e ps _ => outP (ps.all (fun j => readPred e.g j p)))

/-- VOTE.ANY (R148). -/
def execVoteAny (c : Ctl) (pd p : PredCode) (s : State) : Host.Outcome State Fault Refusal :=
  gather (.voteAny c pd p) s (fun e ps _ => outP (ps.any (fun j => readPred e.g j p)))

/-- VOTE.UNI (R148). -/
def execVoteUni (c : Ctl) (pd p : PredCode) (s : State) : Host.Outcome State Fault Refusal :=
  gather (.voteUni c pd p) s (fun e ps _ =>
    outP (ps.all (fun j => readPred e.g j p) || ps.all (fun j => !readPred e.g j p)))

/-- MATCH: a helper lane with no equal present lane receives all ones (R148). -/
def execMatchAny (c : Ctl) (ty : Ty) (d a : RegCode) (s : State) : Host.Outcome State Fault Refusal :=
  gather (.matchAny c ty d a) s (fun e ps l =>
    outD ((ps.find? (fun j => readSet e.g j a ty.width == readSet e.g l a ty.width)).getD 0xFFFFFFFF))

/-- ELECT (R148). -/
def execElect (c : Ctl) (pd : PredCode) (s : State) : Host.Outcome State Fault Refusal :=
  gather (.elect c pd) s (fun _ ps l => outP (ps.head? == some l))

/-- REDUX: the operation over every present lane (R148). -/
def redux (i : Instr) (s : State) (ty : Ty) (a : RegCode) (op : Nat) : Host.Outcome State Fault Refusal :=
  gather i s (fun e ps _ => outD (foldOp op ty (ps.map (fun j => readSet e.g j a ty.width))))

/-- SCAN: the operation over the present lanes up to, or with EXC below, the lane; helper lanes receive the whole
(R148). -/
def scan (i : Instr) (s : State) (ty : Ty) (exc : Bool) (a : RegCode) (op : Nat) : Host.Outcome State Fault Refusal :=
  gather i s (fun e ps l =>
    let upTo := if e.pres.getLsbD l then ps.filter (fun j => if exc then decide (j < l) else decide (j ≤ l)) else ps
    outD (foldOp op ty (upTo.map (fun j => readSet e.g j a ty.width))))

/-- REDUX.ADD (R148). -/
def execReduxAdd (c : Ctl) (ty : Ty) (d a : RegCode) (s : State) : Host.Outcome State Fault Refusal :=
  redux (.reduxAdd c ty d a) s ty a 0

/-- REDUX.MIN (R148). -/
def execReduxMin (c : Ctl) (ty : Ty) (d a : RegCode) (s : State) : Host.Outcome State Fault Refusal :=
  redux (.reduxMin c ty d a) s ty a 1

/-- REDUX.MAX (R148). -/
def execReduxMax (c : Ctl) (ty : Ty) (d a : RegCode) (s : State) : Host.Outcome State Fault Refusal :=
  redux (.reduxMax c ty d a) s ty a 2

/-- REDUX.AND (R148). -/
def execReduxAnd (c : Ctl) (ty : Ty) (d a : RegCode) (s : State) : Host.Outcome State Fault Refusal :=
  redux (.reduxAnd c ty d a) s ty a 3

/-- REDUX.OR (R148). -/
def execReduxOr (c : Ctl) (ty : Ty) (d a : RegCode) (s : State) : Host.Outcome State Fault Refusal :=
  redux (.reduxOr c ty d a) s ty a 4

/-- REDUX.XOR (R148). -/
def execReduxXor (c : Ctl) (ty : Ty) (d a : RegCode) (s : State) : Host.Outcome State Fault Refusal :=
  redux (.reduxXor c ty d a) s ty a 5

/-- SCAN.ADD (R148). -/
def execScanAdd (c : Ctl) (ty : Ty) (exc : Bool) (d a : RegCode) (s : State) :
    Host.Outcome State Fault Refusal :=
  scan (.scanAdd c ty exc d a) s ty exc a 0

/-- SCAN.MIN (R148). -/
def execScanMin (c : Ctl) (ty : Ty) (exc : Bool) (d a : RegCode) (s : State) :
    Host.Outcome State Fault Refusal :=
  scan (.scanMin c ty exc d a) s ty exc a 1

/-- SCAN.MAX (R148). -/
def execScanMax (c : Ctl) (ty : Ty) (exc : Bool) (d a : RegCode) (s : State) :
    Host.Outcome State Fault Refusal :=
  scan (.scanMax c ty exc d a) s ty exc a 2

/-- SCAN.AND (R148). -/
def execScanAnd (c : Ctl) (ty : Ty) (exc : Bool) (d a : RegCode) (s : State) :
    Host.Outcome State Fault Refusal :=
  scan (.scanAnd c ty exc d a) s ty exc a 3

/-- SCAN.OR (R148). -/
def execScanOr (c : Ctl) (ty : Ty) (exc : Bool) (d a : RegCode) (s : State) :
    Host.Outcome State Fault Refusal :=
  scan (.scanOr c ty exc d a) s ty exc a 4

/-- SCAN.XOR (R148). -/
def execScanXor (c : Ctl) (ty : Ty) (exc : Bool) (d a : RegCode) (s : State) :
    Host.Outcome State Fault Refusal :=
  scan (.scanXor c ty exc d a) s ty exc a 5

end Sys2Proof.Machine
end

