-- ==== Sys2Proof/Machine/Hostside.lean ====
section
/-!
DEFINITION. The host function (R370 to R373): the BAR0 registers, BAR2, events, the command queue, and every host command.
-/
namespace Sys2Proof.Machine

/-! ## Host memory -/

/-- Read host memory. -/
def hostRead (s : State) (a n : Nat) : List Byte := readBytes s.mem (hostPlace a) n

/-- Write host memory. -/
def hostWrite (s : State) (a : Nat) (bs : List Byte) : State := { s with mem := writeBytes s.mem (hostPlace a) bs }

/-! ## Registers, BAR2 and events (R370, R371) -/

/-- The 128 bytes of a function's queue registers. -/
def regBytes (f : Func) : List Byte :=
  layOut 128 [(0, toBytes f.cqbase 8), (8, toBytes f.cqlog2 4), (12, toBytes f.cqtail 4), (16, toBytes f.cqhead 4),
    (64, toBytes f.eqbase 8), (72, toBytes f.eqlog2 4), (76, toBytes f.eqhead 4), (80, toBytes f.eqtail 4)]

/-- A function that the module exposes: in recovery, the physical one alone (R383). -/
def exposed (s : State) (func : Nat) : Bool := decide (func < 32) && (!s.iluic.recovery || func == 0) && !s.iluic.stopped

/-- REGISTER_WRITE: CQBASE, CQLOG2, CQTAIL, EQBASE, EQLOG2 and EQHEAD take the bytes written; read-only ones keep theirs
(R370). -/
def execRegisterWrite (func off : Nat) (data : List Byte) (s : State) : Host.Outcome State Fault Refusal :=
  if !exposed s func then .next s
  else
    let f := s.func func
    let old := regBytes f
    let b := (List.range 128).map (fun i => if off ≤ i then (data[i - off]?).getD (old.getD i 0) else old.getD i 0)
    .next (s.setFunc func { f with
      cqbase := numAt b 0 8, cqlog2 := numAt b 8 4, cqtail := numAt b 12 4
      eqbase := numAt b 64 8, eqlog2 := numAt b 72 4, eqhead := numAt b 76 4 })

/-- BAR2_WRITE: bytes at interleaved offsets of the partition's device memory, at the home (R370). -/
def execBar2Write (func addr : Nat) (data : List Byte) (s : State) : Host.Outcome State Fault Refusal :=
  match (if exposed s func then partOfFunc s func else none) with
  | none => .next s
  | some p => .next (writeOffs s (s.part p) addr data (data.length + 1))

/-- Read device memory by interleaved offset at its homes, byte by byte; none outside the extents. -/
def readOffs (s : State) (p : Part) (d : Nat) : Nat → Option (List Byte × State)
  | 0 => some ([], s)
  | n + 1 =>
    if memInRange p 0 d then
      let (b, s) := homeRead s (devPlace d) 1
      (readOffs s p (d + 1) n).map (fun r => (b ++ r.1, r.2))
    else none

/-- BAR2_READ (R370). -/
def execBar2Read (func addr len : Nat) (s : State) : Host.Outcome State Fault Refusal :=
  match (if exposed s func then partOfFunc s func else none) with
  | none => .next s
  | some p =>
    match readOffs s (s.part p) addr len with
    | none => .next s
    | some (bs, s) => .next (s.setFunc func { s.func func with read := bs })

/-- The 32 bytes of an event (R371). -/
def HostEvent.bytes (e : HostEvent) : List Byte :=
  toBytes (e.type + e.status * 2 ^ 8 + e.ctx * 2 ^ 16 + e.tag * 2 ^ 32 + e.data * 2 ^ 64) 32

/-- A queue's length register lies in its range (R370). -/
def logOk (n : Nat) : Bool := decide (4 ≤ n ∧ n ≤ 12)

/-- EVENT_POST: the oldest waiting event is written once the queue has room, and signalled (R371). -/
def execEventPost (func : Nat) (s : State) : Host.Outcome State Fault Refusal :=
  let f := s.func func
  match f.waiting with
  | [] => .next s
  | e :: rest =>
    if !logOk f.eqlog2 || 2 ^ f.eqlog2 ≤ (f.eqtail + 2 ^ 32 - f.eqhead % 2 ^ 32) % 2 ^ 32 then .next s
    else
      let s := hostWrite s (f.eqbase + 32 * (f.eqtail % 2 ^ f.eqlog2)) e.bytes
      .next (s.setFunc func { f with waiting := rest, eqtail := (f.eqtail + 1) % 2 ^ 32, signals := f.signals + 1 })

/-! ## Commands (R371, R373) -/

/-- A command finishes: the event DONE with its STATUS and RESULT (R372). -/
def done (s : State) (h : Hdr) (op status result : Nat) : State :=
  postEvent s h.func ⟨1, status, h.ctx, h.tag, op + result * 2 ^ 32⟩

/-- What a command's own rule answers: STATUS, RESULT and the state. -/
abbrev Answer := Nat × Nat × State

/-- Only the physical function may issue these (R371). -/
def physicalOnly (op : Nat) : Bool := op == 0x20 || decide (0x22 ≤ op ∧ op ≤ 0x25)

/-- The partition a command acts on: PART for the physical function, its own for a virtual one (R373). -/
def cmdPart (s : State) (h : Hdr) : Option Nat := if h.func = 0 then some h.part else partOfFunc s h.func

/-- A command: its permission and its range checks, then its own rule on its partition (R371, R373). -/
def command (h : Hdr) (op : Nat) (inRange : Bool) (s : State) (k : Nat → State → Answer) :
    Host.Outcome State Fault Refusal :=
  if !exposed s h.func then .next s
  else if !inRange || (h.func != 0 && h.part != 0) || decide (32 ≤ h.part) then .next (done s h op 2 0)
  else if h.func != 0 && physicalOnly op then .next (done s h op 3 0)
  else if s.iluic.recovery && op != 0x22 && op != 0x24 then .next (done s h op 1 0)
  else match cmdPart s h with
    | none => .next (done s h op 3 0)
    | some p =>
      let (status, result, s) := k p s
      .next (done s h op status result)

/-- A command on a context of an enabled partition (R373). -/
def ctxCommand (h : Hdr) (op : Nat) (inRange : Bool) (s : State) (k : Nat → State → Answer) :
    Host.Outcome State Fault Refusal :=
  command h op inRange s (fun p s =>
    if !(s.part p).enabled then (1, 0, s)
    else if (s.part p).nctx ≤ h.ctx then (if h.func = 0 then 2 else 3, 0, s)
    else k (p * 1024 + h.ctx) s)

/-- A command on a context that is live. -/
def liveCommand (h : Hdr) (op : Nat) (inRange : Bool) (s : State) (k : Nat → State → Answer) :
    Host.Outcome State Fault Refusal :=
  ctxCommand h op inRange s (fun ctx s => if (s.ctx ctx).state == .live then k ctx s else (1, 0, s))

/-! ## Contexts -/

/-- Interleaved device bytes lie in a partition's extents, every 4 KiB unit of them (R369). -/
def devInside (p : Part) (d n : Nat) : Bool :=
  n == 0 || (List.range ((d + n - 1) / 4096 + 1 - d / 4096)).all (fun i => memInRange p 0 ((d / 4096 + i) * 4096))

/-- A field of a table entry's image. -/
def imgField (b : List Byte) (hi lo : Nat) : Nat := bits (ofBytes b) hi lo

/-- A nonzero reserved field of a context entry image, or an entry that holds no context (R368). -/
def ctxImageBad (b : List Byte) : Bool :=
  imgField b 0 0 == 0 ||
  [(383, 368), (325, 320), (319, 305), (261, 256), (255, 241), (196, 192), (191, 177), (127, 112), (77, 64), (63, 41), (31, 3)].any
    (fun r => imgField b r.1 r.2 != 0)

/-- An ASID of the pool that no context holds: the one drawn, or the first free (R320; log 18). -/
def freeAsid (s : State) : Option Nat :=
  let held := (s.ctxs.filter (fun e => e.2.valid)).map (fun e => e.2.asid)
  let drawn := Config.asid s.tick % 512
  if held.contains drawn then (List.range 512).find? (fun i => !held.contains i) else some drawn

/-- Forget an ASID's translations on every core and cluster (R320). -/
def forgetAsid (s : State) (asid : Nat) : State :=
  { s with
    cores := s.cores.map (fun e => (e.1, { e.2 with tlb := e.2.tlb.filter (fun t => t.asid != asid) }))
    clusters := s.clusters.map (fun e => (e.1, { e.2 with
      icache := e.2.icache.filter (fun x => x.1 / 2 ^ 49 != asid), cached := e.2.cached.filter (fun k => k / 2 ^ 49 != asid)
      itlb := e.2.itlb.filter (fun t => t.asid != asid) })) }

/-- The context an image describes (R368). -/
def ctxOfImage (b : List Byte) (asid : Nat) : Context :=
  { state := .live, valid := true, asid
    tlimit := imgField b 511 480, deadline := imgField b 479 448, slice := imgField b 447 416, savelen := imgField b 415 384
    save := imgField b 367 320, status := imgField b 304 256, err := imgField b 240 192
    tvec := BitVec.ofNat 49 (imgField b 176 128 / 4 * 4), l1pt := imgField b 111 64 }

/-- CTXCREATE: an entry that holds no live context takes the image and an ASID (R368, R369). -/
def execCtxcreate (h : Hdr) (img : Nat) (s : State) : Host.Outcome State Fault Refusal :=
  ctxCommand h 0x01 (img % 64 == 0 && decide (img < 2 ^ 64)) s (fun ctx s =>
    let b := hostRead s img 64
    -- ASID and STATE of the image are ignored
    let v := ofBytes b
    let b := toBytes (v - bits v 40 32 * 2 ^ 32 - bits v 2 1 * 2) 64
    let p := s.part (partOf ctx)
    let c := ctxOfImage b 0
    if ctxImageBad b then (2, 0, s)
    else if (s.ctx ctx).state == .live || !devInside p c.l1pt 16384 || !devInside p c.save (max 1 (c.savelen * 2 ^ 16)) then
      (1, 0, s)
    else
      let old := s.ctx ctx
      let s := s.setCtx ctx { old with valid := false }
      match freeAsid s with
      | none => (1, 0, s.setCtx ctx old)
      | some asid =>
        let s := forgetAsid s asid
        let s := s.setCtx ctx { c with asid }
        let s := writeOffs s p (p.ctxtab + 64 * (ctx % 1024)) b 2
        (0, asid, noteEntry s ctx))

/-- CTXDESTROY: its work, regions, queue entries and ASID go; VALID clears (R371). -/
def execCtxdestroy (h : Hdr) (s : State) : Host.Outcome State Fault Refusal :=
  ctxCommand h 0x02 true s (fun ctx s =>
    if !(s.ctx ctx).valid then (1, 0, s)
    else
      let asid := (s.ctx ctx).asid
      let s := discardWork s ctx
      let s := { s with regions := s.regions.filter (fun e => e.2.ctx != ctx) }
      let s := (forgetAsid s asid).setCtx ctx {}
      (0, 0, noteEntry s ctx))

/-- PREEMPT: asked for now, taken once the floor has passed (R347). -/
def execPreempt (h : Hdr) (s : State) : Host.Outcome State Fault Refusal :=
  liveCommand h 0x03 true s (fun ctx s =>
    let c := s.ctx ctx
    (0, 0, s.setCtx ctx { c with asked := c.since.isSome && c.stopping.isNone }))

/-! ## ANSWER (R319) -/

/-- The resident parked group a command names. -/
def parkedGroup (s : State) (ctx : Nat) (n : GroupName) : Option Nat :=
  ((s.groups.filter (fun e =>
    let t := s.team e.2.team
    let l := s.launch t.launch
    e.2.park && l.ctx == ctx && l.id.toNat == n.launch && t.teamid == n.team && e.2.idx == n.group)).head?).map (fun e => e.1)

/-- A parked group that a requested pre-emption has stopped stays stopped, whatever the host answers (R349; log 51). -/
def holdStop (s : State) (ctx gid : Nat) : State :=
  if (s.ctx ctx).stopping.isSome then s.updGroup gid (fun g => { g with stop := some (g.stop.getD .full) }) else s

/-- An ANSWER: refused where no such group is parked and resident (log 51). -/
def answer (h : Hdr) (g : GroupName) (s : State) (k : Nat → Nat → State → State) : Host.Outcome State Fault Refusal :=
  liveCommand h 0x04 (decide (g.group < 16 ∧ g.team < 2 ^ 32 ∧ g.launch < 2 ^ 32)) s (fun ctx s =>
    match parkedGroup s ctx g with
    | none => (1, 0, s)
    | some gid => (0, 0, k ctx gid (holdStop s ctx gid)))

/-- RESUME: the handler goes on, or starts (R319). -/
def execHostResume (h : Hdr) (g : GroupName) (s : State) : Host.Outcome State Fault Refusal :=
  answer h g s (fun _ gid s => s.updGroup gid (fun g => { g with park := false }))

/-- A handler quad discards every entry above its TRAP entry and pops it (R319). -/
def popTrap (s : State) (gid q : Nat) : Nat → State
  | 0 => s
  | n + 1 =>
    match topEntry s gid q with
    | none => s
    | some e =>
      let s := pop s gid q
      if entryKind e = 4 then updQuad s gid q (fun x => { x with handled := true }) else popTrap s gid q n

/-- RETURN: trap return as if every handler quad had executed RTT (R319). -/
def execHostReturn (h : Hdr) (g : GroupName) (s : State) : Host.Outcome State Fault Refusal :=
  answer h g s (fun _ gid s =>
    let quads := (s.group gid).quads.filter (fun e => e.2.handler && !e.2.handled)
    tryReturn (quads.foldl (fun s e => popTrap s gid e.1 (maxDepth + 1)) s) gid)

/-- KILL: the context is killed, with CAUSE from TSTATE (R313, R319). -/
def execHostKill (h : Hdr) (g : GroupName) (s : State) : Host.Outcome State Fault Refusal :=
  answer h g s (fun ctx gid s =>
    let x := s.group gid
    let t := s.team x.team
    let f := x.frame
    contextFatalAs false s ctx
      { cause := bits f.tstate.toNat 23 16, launchid := (s.launch t.launch).id.toNat, teamid := t.teamid, groupid := x.idx
        addr := match lowestLane f.tfault with | some l => (Store.get f.tladdr l).toNat | none => 0
        core := x.core, inc := (s.core x.core).incarnation
        pc := BitVec.ofNat 49 (f.tpcl.toNat + f.tpch.toNat % 2 ^ 17 * 2 ^ 32) })

/-! ## Tables and translations -/

/-- PTWRITE: an 8-byte write at a physical address in the extents, at its home (R369, R373). -/
def execPtwrite (h : Hdr) (pa : Nat) (value : DWord) (s : State) : Host.Outcome State Fault Refusal :=
  command h 0x05 (pa % 8 == 0 && decide (pa < 2 ^ 48)) s (fun p s =>
    if (s.part p).enabled && devInside (s.part p) pa 8 then (0, 0, homeWrite s (devPlace pa) (toBytes value.toNat 8))
    else (1, 0, s))

/-- INVAL of one page, as a partition-wide TLBI.PAGE (R328). -/
def execInvalPage (h : Hdr) (va : VAddr) (s : State) : Host.Outcome State Fault Refusal :=
  ctxCommand h 0x06 true s (fun ctx s =>
    if (s.ctx ctx).valid then (0, 0, shootdown s ctx (some va.toNat)) else (1, 0, s))

/-- INVAL of every translation of a context (R328). -/
def execInvalAll (h : Hdr) (s : State) : Host.Outcome State Fault Refusal :=
  ctxCommand h 0x06 true s (fun ctx s =>
    if (s.ctx ctx).valid then (0, 0, shootdown s ctx none) else (1, 0, s))

/-! ## Held records and regions (R200, R315) -/

/-- The held record an ADMIT names, and the state without it. -/
def takeHeld (s : State) (ctx hid : Nat) : Option (HeldRecord × State) :=
  let c := s.ctx ctx
  (c.held.find? (fun x => x.hid.toNat == hid)).map (fun x =>
    (x, s.setCtx ctx { c with held := c.held.filter (fun y => y.hid != x.hid) }))

/-- ADMIT, approve: the record enters its queue, unless that is full (R315, R340). -/
def execAdmitApprove (h : Hdr) (hid : Nat) (s : State) : Host.Outcome State Fault Refusal :=
  liveCommand h 0x07 (decide (hid < 2 ^ 32)) s (fun ctx s =>
    match takeHeld s ctx hid with
    | none => (1, 0, s)
    | some (x, s) =>
      let (lid, s) := enqueue s ctx x.record x.ext x.flight.isSome
      (if lid = 0 then 1 else 0, lid.toNat, answerLnch s x.flight lid.toNat))

/-- ADMIT, refuse (R315). -/
def execAdmitRefuse (h : Hdr) (hid : Nat) (s : State) : Host.Outcome State Fault Refusal :=
  liveCommand h 0x07 (decide (hid < 2 ^ 32)) s (fun ctx s =>
    match takeHeld s ctx hid with
    | none => (1, 0, s)
    | some (x, s) => (0, 0, answerLnch (refuseRecord s ctx 3 x.flight.isSome) x.flight 0))

/-- The held ADECL an RGRANT names, and the state without it. -/
def takeRegion (s : State) (ctx rid : Nat) : Option (HeldRegion × State) :=
  let c := s.ctx ctx
  (c.heldRegions.find? (fun x => x.rid.toNat == rid)).map (fun x =>
    (x, s.setCtx ctx { c with heldRegions := c.heldRegions.filter (fun y => y.rid != x.rid) }))

/-- ADECL completes with false (R213). -/
def refuseRegion (s : State) (x : HeldRegion) : State :=
  match aget? s.flights x.flight with
  | none => s
  | some f => landAll (s.setFlight x.flight { f with kind := .result, preds := (lanesOf f.lanes).map (fun l => (l, false)) }) x.flight

/-- RGRANT, grant: the lowest free slot, or a refusal at the quota or without one (R200, R373). -/
def execRgrantGrant (h : Hdr) (rid : Nat) (s : State) : Host.Outcome State Fault Refusal :=
  liveCommand h 0x08 (decide (rid < 2 ^ 32)) s (fun ctx s =>
    match takeRegion s ctx rid with
    | none => (1, 0xFFFFFFFF, s)
    | some (x, s) =>
      let r := x.region
      let meets := s.regions.any (fun e => e.2.ctx == ctx && spansMeet (r.leaves ++ r.shadow) (e.2.leaves ++ e.2.shadow))
      match (if meets then none else freeSlot s (partOf ctx) x.stack) with
      | none => (1, 0xFFFFFFFF, refuseRegion s x)
      | some slot =>
        let s := takeSlot s slot r
        let s := match aget? s.flights x.flight with
          | some f => s.setFlight x.flight { f with args := [slot] }
          | none => s
        (0, slot % 256, s))

/-- RGRANT, refuse (R200). -/
def execRgrantRefuse (h : Hdr) (rid : Nat) (s : State) : Host.Outcome State Fault Refusal :=
  liveCommand h 0x08 (decide (rid < 2 ^ 32)) s (fun ctx s =>
    match takeRegion s ctx rid with
    | none => (1, 0xFFFFFFFF, s)
    | some (x, s) => (0, 0xFFFFFFFF, refuseRegion s x))

/-- FRAME of a parked group's trap frame: 1,600 bytes (R373). -/
def execFrameTrap (h : Hdr) (g : GroupName) (dst : Nat) (s : State) : Host.Outcome State Fault Refusal :=
  liveCommand h 0x09 (dst % 64 == 0 && decide (dst < 2 ^ 64 ∧ g.group < 16 ∧ g.team < 2 ^ 32 ∧ g.launch < 2 ^ 32)) s
    (fun ctx s =>
      match parkedGroup s ctx g with
      | none => (1, 0, s)
      | some gid =>
        let f := (s.group gid).frame
        (0, 1600, hostWrite s dst (padTo 64 (frameWords f) ++ laneWords f)))

/-- FRAME of a held launch record: 64 bytes (R373). -/
def execFrameRecord (h : Hdr) (hid dst : Nat) (s : State) : Host.Outcome State Fault Refusal :=
  liveCommand h 0x09 (dst % 64 == 0 && decide (dst < 2 ^ 64 ∧ hid < 2 ^ 32)) s (fun ctx s =>
    match (s.ctx ctx).held.find? (fun x => x.hid.toNat == hid) with
    | none => (1, 0, s)
    | some x => (0, 64, hostWrite s dst x.record))

/-! ## Partitions (R366, R367) -/

/-- The partition an image describes. -/
def partOfImage (b : List Byte) : Part :=
  { enabled := imgField b 42 42 == 1, clusters := BitVec.ofNat 32 (imgField b 31 0)
    split := BitVec.ofNat 5 (imgField b 36 32), func := imgField b 41 37, pstack := imgField b 111 64
    ctxtab := imgField b 175 128, nctx := imgField b 233 224
    rquota := (List.range 8).map (fun i => imgField b (8 * i + 263) (8 * i + 256))
    ext := (List.range 4).map (fun i => (imgField b (16 * i + 325) (16 * i + 320), imgField b (16 * i + 333) (16 * i + 328)))
    hlen := imgField b 447 432, hbase := imgField b 511 448, image := b }

/-- A nonzero reserved field of a partition entry image (R366). -/
def partImageBad (b : List Byte) : Bool :=
  [(431, 384), (255, 234), (223, 176), (133, 128), (127, 112), (79, 64), (63, 43)].any (fun r => imgField b r.1 r.2 != 0) ||
  (List.range 4).any (fun i => imgField b (16 * i + 327) (16 * i + 326) != 0 || imgField b (16 * i + 335) (16 * i + 334) != 0)

/-- Two extents share an offset; one of length 0 is none (R366). -/
def extMeet (x y : Nat × Nat) : Bool := decide (0 < x.2 ∧ 0 < y.2 ∧ x.1 < y.1 + y.2 ∧ y.1 < x.1 + x.2)

/-- PSET's refusals (R367). -/
def psetBad (s : State) (n : Nat) (x : Part) (b : List Byte) : Bool :=
  let others := (s.parts.filter (fun e => e.1 != n && e.2.enabled)).map (fun e => e.2)
  let cores := 4 * ((List.range 32).filter x.clusters.getLsbD).length
  partImageBad b ||
  others.any (fun y => (x.clusters &&& y.clusters) != 0 || x.func == y.func || x.ext.any (fun a => y.ext.any (extMeet a))) ||
  x.ext.any (fun a => decide (0 < a.2 ∧ 48 < a.1 + a.2)) ||
  (List.range 8).any (fun i => x.enabled && decide (256 < x.rquota.getD i 0 + others.foldl (fun m y => m + y.rquota.getD i 0) 0)) ||
  !devInside x x.ctxtab (64 * x.nctx) || !devInside x x.pstack (6 * 2 ^ 20 * cores) ||
  s.ctxs.any (fun e => partOf e.1 == n && (e.2.state == .live || (e.2.valid && !x.enabled)))

/-- Write zero over device bytes: no cell, no poison, no copy of a line is left (R367). -/
def zeroBytes (s : State) (owns : Nat → Bool) : State :=
  let mine := fun (line : Nat) => owns (256 * line)
  { s with
    mem := s.mem.filter (fun c => !owns c.1)
    poison := s.poison.filter (fun x => !owns (64 * x))
    hallmarks := s.hallmarks.filter (fun e => !mine e.1)
    cores := s.cores.map (fun e => (e.1, { e.2 with l1 := e.2.l1.filter (fun l => !mine l.1) })) }

/-- The device bytes that a new entry brings into an enabled partition, and those that go with its key (R367). -/
def keyChange (old new : Part) (pa : Nat) : Bool :=
  let had := old.enabled && old.owns pa
  let has := new.enabled && new.owns pa
  has != had

/-- PSET: writes a partition table entry; extents that come under its key are zeroed, those that leave it are never read
again (R367). -/
def execPset (h : Hdr) (img : Nat) (s : State) : Host.Outcome State Fault Refusal :=
  command h 0x20 (decide (img < 2 ^ 64)) s (fun n s =>
    let b := hostRead s img 64
    let x := partOfImage b
    if psetBad s n x b then (1, 0, s)
    else
      (0, 0, (zeroBytes s (keyChange (s.part n) x)).setPart n x))

/-! ## The Iluic's commands -/

/-- A report's first 192 bytes (R384). -/
def attestBody (s : State) (n : Nat) (nonce : List Byte) : List Byte :=
  let u := s.iluic
  let p := s.part n
  let svn := fun (i : Nat) => match aget? u.stages i with | some x => x.svn | none => 0
  layOut 192 [(0, nonce.take 32), (32, Config.serial.take 16), (48, toBytes (svn 1) 2), (50, toBytes (svn 2) 2),
    (52, toBytes (svn 3) 2), (56, toBytes n 1), (60, toBytes p.clusters.toNat 4), (64, u.meas.take 64),
    (128, (Config.sha512 (padTo 64 p.image)).take 64)]

/-- ATTEST (R384). -/
def execAttest (h : Hdr) (nonce : List Byte) (dst : Nat) (s : State) : Host.Outcome State Fault Refusal :=
  command h 0x21 (decide (dst < 2 ^ 64) && nonce.length == 32) s (fun n s =>
    let b := attestBody s n nonce
    (0, 256, hostWrite s dst (padTo 256 (b ++ (Config.identitySign (Config.sha512 b)).take 64))))

/-- The 32 bytes of a log entry (R374). -/
def LogEntry.bytes (e : LogEntry) : List Byte :=
  toBytes (e.detail % 2 ^ 64 + e.kind * 2 ^ 64 + e.site * 2 ^ 72 + e.unit * 2 ^ 80 + e.core * 2 ^ 93 + e.inc * 2 ^ 100
    + e.part * 2 ^ 107 + e.ctx * 2 ^ 112 + e.count * 2 ^ 128 + e.addr % 2 ^ 48 * 2 ^ 144 + e.time % 2 ^ 64 * 2 ^ 192) 32

/-- The module error log as ERRLOG copies it out (R374). -/
def logBytes (u : Iluic) : List Byte :=
  toBytes (u.log.length + u.total * 2 ^ 32 + u.lost * 2 ^ 64) 64 ++ u.log.flatMap LogEntry.bytes

/-- Copy the first LEN bytes of an output to host memory; STATUS 1 when it is longer (R373). -/
def copyOut (s : State) (out : List Byte) (len dst : Nat) : Answer :=
  let b := out.take len
  (if len < out.length then 1 else 0, b.length, hostWrite s dst b)

/-- ERRLOG of the log (R374). -/
def execErrlog (h : Hdr) (len dst : Nat) (s : State) : Host.Outcome State Fault Refusal :=
  command h 0x22 (decide (len < 2 ^ 32 ∧ dst < 2 ^ 64)) s (fun _ s => copyOut s (logBytes s.iluic) len dst)

/-- ERRLOG of the certificate chain (R384). -/
def execErrlogCerts (h : Hdr) (len dst : Nat) (s : State) : Host.Outcome State Fault Refusal :=
  command h 0x22 (decide (len < 2 ^ 32 ∧ dst < 2 ^ 64)) s (fun _ s => copyOut s Config.certChain len dst)

/-- PEERWIN, outbound (R378). -/
def execPeerwinOutbound (h : Hdr) (link len : Nat) (s : State) : Host.Outcome State Fault Refusal :=
  command h 0x23 (decide (link < 8 ∧ len ≤ 2 ^ 15)) s (fun n s =>
    if !(s.part n).enabled then (1, 0, s)
    else
      let l := s.link link
      (0, 0, s.setLink link { l with outbound := if len = 0 then adel l.outbound n else aset l.outbound n len }))

/-- PEERWIN, inbound: the window arriving on a link lands in one extent (R378). -/
def execPeerwinInbound (h : Hdr) (link ext len : Nat) (s : State) : Host.Outcome State Fault Refusal :=
  command h 0x23 (decide (link < 8 ∧ ext < 4 ∧ len ≤ 2 ^ 15)) s (fun n s =>
    let p := s.part n
    if !p.enabled || (len != 0 && (p.ext.getD ext (0, 0)).2 == 0) then (1, 0, s)
    else
      let l := s.link link
      (0, 0, s.setLink link { l with inbound := if len = 0 then none else some (n, ext, len) }))

/-- FWSTAGE, an image for the next reset (R383). -/
def execFwstageImage (h : Hdr) (stage len src : Nat) (s : State) : Host.Outcome State Fault Refusal :=
  command h 0x24 (decide (1 ≤ stage ∧ stage ≤ 3 ∧ len < 2 ^ 32 ∧ src < 2 ^ 64)) s (fun _ s =>
    let x := (aget? s.iluic.stages stage).getD {}
    (0, 0, { s with iluic := { s.iluic with stages := aset s.iluic.stages stage { x with image := hostRead s src len } } }))

/-- FWSTAGE, raise a stage's fused minimum SVN: after the stage has booted, and never above the version it runs (R383). -/
def execFwstageSvn (h : Hdr) (stage svn : Nat) (s : State) : Host.Outcome State Fault Refusal :=
  command h 0x24 (decide (1 ≤ stage ∧ stage ≤ 3 ∧ svn < 2 ^ 16)) s (fun _ s =>
    let x := (aget? s.iluic.stages stage).getD {}
    if x.booted && decide (x.minSvn ≤ svn ∧ svn ≤ x.svn) then
      (0, 0, { s with iluic := { s.iluic with stages := aset s.iluic.stages stage { x with minSvn := svn } } })
    else (1, 0, s))

/-- POWER: the board power limit (R385). -/
def execPower (h : Hdr) (watts : Nat) (s : State) : Host.Outcome State Fault Refusal :=
  command h 0x25 (decide (400 ≤ watts ∧ watts ≤ 1600)) s (fun _ s =>
    (0, 0, { s with iluic := { s.iluic with limit := watts } }))

/-! ## The command queue (R371) -/

/-- Every bit from 128 on outside some fields is zero. -/
def onlyBits (v : Nat) (fs : List (Nat × Nat)) : Bool :=
  fs.foldl (fun n f => n - bits v f.1 f.2 * 2 ^ f.2) (v / 2 ^ 128 * 2 ^ 128) == 0

/-- The command of an OP with its argument fields; none where a bit the table does not assign is set or a code is
reserved (R373). -/
def decodeArgs (h : Hdr) (op v : Nat) : Option Instr :=
  let f := fun (hi lo : Nat) => bits v hi lo
  let ok := fun (fs : List (Nat × Nat)) (i : Instr) => if onlyBits v fs then some i else none
  let name : GroupName := ⟨f 223 192, f 191 160, f 135 132⟩
  match op with
  | 0x01 => ok [(191, 128)] (.ctxcreate h (f 191 128))
  | 0x02 => ok [] (.ctxdestroy h)
  | 0x03 => ok [] (.preempt h)
  | 0x04 =>
    let fs := [(129, 128), (135, 132), (191, 160), (223, 192)]
    match f 129 128 with
    | 0 => ok fs (.hostResume h name)
    | 1 => ok fs (.hostReturn h name)
    | 2 => ok fs (.hostKill h name)
    | _ => none
  | 0x05 => ok [(175, 128), (255, 192)] (.ptwrite h (f 175 128) (BitVec.ofNat 64 (f 255 192)))
  | 0x06 =>
    if f 128 128 = 0 then ok [(128, 128), (240, 192)] (.invalPage h (BitVec.ofNat 49 (f 240 192)))
    else ok [(128, 128)] (.invalAll h)
  | 0x07 =>
    if f 160 160 = 1 then ok [(159, 128), (160, 160)] (.admitApprove h (f 159 128))
    else ok [(159, 128)] (.admitRefuse h (f 159 128))
  | 0x08 =>
    if f 160 160 = 1 then ok [(159, 128), (160, 160)] (.rgrantGrant h (f 159 128))
    else ok [(159, 128)] (.rgrantRefuse h (f 159 128))
  | 0x09 =>
    if f 128 128 = 0 then
      ok [(128, 128), (135, 132), (191, 160), (223, 192), (319, 256)] (.frameTrap h name (f 319 256))
    else ok [(128, 128), (191, 160), (319, 256)] (.frameRecord h (f 191 160) (f 319 256))
  | 0x20 => ok [(191, 128)] (.pset h (f 191 128))
  | 0x21 => ok [(383, 128), (447, 384)] (.attest h (toBytes (f 383 128) 32) (f 447 384))
  | 0x22 =>
    let fs := [(128, 128), (191, 160), (255, 192)]
    if f 128 128 = 0 then ok fs (.errlog h (f 191 160) (f 255 192)) else ok fs (.errlogCerts h (f 191 160) (f 255 192))
  | 0x23 =>
    if f 131 131 = 0 then ok [(130, 128), (131, 131), (191, 160)] (.peerwinOutbound h (f 130 128) (f 191 160))
    else ok [(130, 128), (131, 131), (133, 132), (191, 160)] (.peerwinInbound h (f 130 128) (f 133 132) (f 191 160))
  | 0x24 =>
    match f 129 128 with
    | 0 => ok [(129, 128), (131, 130), (191, 160), (255, 192)] (.fwstageImage h (f 131 130) (f 191 160) (f 255 192))
    | 1 => ok [(129, 128), (131, 130), (159, 144)] (.fwstageSvn h (f 131 130) (f 159 144))
    | _ => none
  | 0x25 => ok [(143, 128)] (.power h (f 143 128))
  | _ => none

/-- The command of a function's 64 bytes (R371, R373). -/
def decodeCommand (func v : Nat) : Hdr × Nat × Option Instr :=
  let h : Hdr := ⟨func, bits v 69 64, bits v 31 16, bits v 63 32⟩
  (h, bits v 7 0, if bits v 15 8 ≠ 0 ∨ bits v 127 70 ≠ 0 then none else decodeArgs h (bits v 7 0) v)

/-- What a function's turn does: nothing, a command to execute, or the end of a malformed one (R371). -/
inductive Taken where
  | idle
  | run (i : Instr) (s : State)
  | bad (s : State)

/-- A function takes its next command from its ring, once the event of the last one is posted (R371; log 92). -/
def takeCommand (s : State) (func : Nat) : Taken :=
  let f := s.func func
  if !exposed s func || !logOk f.cqlog2 || f.cqhead == f.cqtail || f.waiting.any (fun e => e.type == 1) then .idle
  else
    let v := ofBytes (hostRead s (f.cqbase + 64 * (f.cqhead % 2 ^ f.cqlog2)) 64)
    let s := s.setFunc func { f with cqhead := (f.cqhead + 1) % 2 ^ 32 }
    match decodeCommand func v with
    | (_, _, some i) => .run i s
    | (h, op, none) => .bad (done s h op 2 0)

end Sys2Proof.Machine
end

