-- ==== Sys2Proof/Machine/Integer.lean ====
section
/-!
DEFINITION. Integer, bit, address and special-register instructions, comparisons, selection and predicate logic
(R149 to R157).
-/
namespace Sys2Proof.Machine

/-- A lane's A, B and C as integers of a type (R150). -/
def srcInt (e : Env) (l : Nat) (t : Ty) (r : RegCode) : Int := asInt t (readSet e.g l r t.width)
def srcBInt (e : Env) (l : Nat) (t : Ty) (b : SrcB) : Int := asInt t (readB e.g l b t.width)

/-- IADD, ISUB and IMUL: one exact operation of two integers (R149, R150). -/
def intOp (i : Instr) (s : State) (ty : Ty) (sat : Bool) (a : RegCode) (b : SrcB) (f : Int → Int → Int) :
    Host.Outcome State Fault Refusal :=
  perLane i s (fun e l => outF (intResult ty sat (f (srcInt e l ty a) (srcBInt e l ty b))))

/-- IADD (R150). -/
def execIadd (c : Ctl) (ty : Ty) (sat : Bool) (d a : RegCode) (b : SrcB) (s : State) : Host.Outcome State Fault Refusal :=
  intOp (.iadd c ty sat d a b) s ty sat a b (· + ·)

/-- ISUB (R150). -/
def execIsub (c : Ctl) (ty : Ty) (sat : Bool) (d a : RegCode) (b : SrcB) (s : State) : Host.Outcome State Fault Refusal :=
  intOp (.isub c ty sat d a b) s ty sat a b (· - ·)

/-- IMUL (R150). -/
def execImul (c : Ctl) (ty : Ty) (sat : Bool) (d a : RegCode) (b : SrcB) (s : State) : Host.Outcome State Fault Refusal :=
  intOp (.imul c ty sat d a b) s ty sat a b (· * ·)

/-- IADDC (R150): PT supplies the carry 1. -/
def execIaddc (c : Ctl) (ty : Ty) (d : RegCode) (pd : PredCode) (a : RegCode) (b : SrcB) (p : PredCode) (s : State) :
    Host.Outcome State Fault Refusal :=
  perLane (.iaddc c ty d pd a b p) s (fun e l =>
    let v := readSet e.g l a ty.width + readB e.g l b ty.width + b2n (readPred e.g l p)
    { d := some (v % 2 ^ ty.width), p := some (decide (2 ^ ty.width ≤ v)) })

/-- IMULH: the floor of the product over 2^32 (R149, R150). -/
def execImulh (c : Ctl) (ty : Ty) (d a : RegCode) (b : SrcB) (s : State) : Host.Outcome State Fault Refusal :=
  perLane (.imulh c ty d a b) s (fun e l => outD (wrapN 32 (srcInt e l ty a * srcBInt e l ty b / 2 ^ 32)))

/-- IMAD (R150). -/
def execImad (c : Ctl) (ty : Ty) (sat : Bool) (d a : RegCode) (b : SrcB) (k : RegCode) (s : State) :
    Host.Outcome State Fault Refusal :=
  perLane (.imad c ty sat d a b k) s (fun e l =>
    outF (intResult ty sat (srcInt e l ty a * srcBInt e l ty b + srcInt e l ty k)))

/-- IMIN (R149). -/
def execImin (c : Ctl) (ty : Ty) (d a : RegCode) (b : SrcB) (s : State) : Host.Outcome State Fault Refusal :=
  intOp (.imin c ty d a b) s ty false a b min

/-- IMAX (R149). -/
def execImax (c : Ctl) (ty : Ty) (d a : RegCode) (b : SrcB) (s : State) : Host.Outcome State Fault Refusal :=
  intOp (.imax c ty d a b) s ty false a b max

/-- IABS: the type's minimum stays without SAT and saturates with it (R150). -/
def execIabs (c : Ctl) (ty : Ty) (sat : Bool) (d a : RegCode) (s : State) : Host.Outcome State Fault Refusal :=
  perLane (.iabs c ty sat d a) s (fun e l => outF (intResult ty sat (srcInt e l ty a).natAbs))

/-- AND, OR, XOR (R151). -/
def bitOp (i : Instr) (s : State) (ty : Ty) (a : RegCode) (b : SrcB) (f : Nat → Nat → Nat) :
    Host.Outcome State Fault Refusal :=
  perLane i s (fun e l => outD (f (readSet e.g l a ty.width) (readB e.g l b ty.width)))

/-- AND (R151). -/
def execAnd (c : Ctl) (ty : Ty) (d a : RegCode) (b : SrcB) (s : State) : Host.Outcome State Fault Refusal :=
  bitOp (.and c ty d a b) s ty a b (· &&& ·)

/-- OR (R151). -/
def execOr (c : Ctl) (ty : Ty) (d a : RegCode) (b : SrcB) (s : State) : Host.Outcome State Fault Refusal :=
  bitOp (.or c ty d a b) s ty a b (· ||| ·)

/-- XOR (R151). -/
def execXor (c : Ctl) (ty : Ty) (d a : RegCode) (b : SrcB) (s : State) : Host.Outcome State Fault Refusal :=
  bitOp (.xor c ty d a b) s ty a b (· ^^^ ·)

/-- NOT (R151). -/
def execNot (c : Ctl) (ty : Ty) (d a : RegCode) (s : State) : Host.Outcome State Fault Refusal :=
  perLane (.not c ty d a) s (fun e l => outD (2 ^ ty.width - 1 - readSet e.g l a ty.width))

/-- A shift of a `w`-bit value by a 32-bit count (R151): 0 SHL, 1 SHR, 2 SAR; a count of `w` or more shifts everything
out. -/
def shiftBy (op w v n : Nat) : Nat :=
  match op with
  | 0 => if w ≤ n then 0 else v * 2 ^ n % 2 ^ w
  | 1 => if w ≤ n then 0 else v / 2 ^ n
  | _ => wrapN w (sgn w v / 2 ^ min n w)

/-- SHL, SHR and SAR: B is one 32-bit register or literal (R151). -/
def shiftOp (i : Instr) (s : State) (ty : Ty) (a : RegCode) (b : SrcB) (op : Nat) : Host.Outcome State Fault Refusal :=
  perLane i s (fun e l => outD (shiftBy op ty.width (readSet e.g l a ty.width) (readB e.g l b 32)))

/-- SHL (R151). -/
def execShl (c : Ctl) (ty : Ty) (d a : RegCode) (b : SrcB) (s : State) : Host.Outcome State Fault Refusal :=
  shiftOp (.shl c ty d a b) s ty a b 0

/-- SHR (R151). -/
def execShr (c : Ctl) (ty : Ty) (d a : RegCode) (b : SrcB) (s : State) : Host.Outcome State Fault Refusal :=
  shiftOp (.shr c ty d a b) s ty a b 1

/-- SAR (R151). -/
def execSar (c : Ctl) (ty : Ty) (d a : RegCode) (b : SrcB) (s : State) : Host.Outcome State Fault Refusal :=
  shiftOp (.sar c ty d a b) s ty a b 2

/-- FSHF (R151). -/
def execFshf (c : Ctl) (d a : RegCode) (b : SrcB) (k : RegCode) (s : State) : Host.Outcome State Fault Refusal :=
  perLane (.fshf c d a b k) s (fun e l =>
    outD ((readB e.g l b 32 * 2 ^ 32 + readSet e.g l a 32) / 2 ^ (readSet e.g l k 32 % 32) % 2 ^ 32))

/-- POPC (R151). -/
def execPopc (c : Ctl) (ty : Ty) (d a : RegCode) (s : State) : Host.Outcome State Fault Refusal :=
  perLane (.popc c ty d a) s (fun e l =>
    let v := readSet e.g l a ty.width
    outD ((List.range ty.width).filter v.testBit).length)

/-- CLZ (R151). -/
def execClz (c : Ctl) (ty : Ty) (d a : RegCode) (s : State) : Host.Outcome State Fault Refusal :=
  perLane (.clz c ty d a) s (fun e l => outD (ty.width - bitLen (readSet e.g l a ty.width)))

/-- BREV (R151). -/
def execBrev (c : Ctl) (ty : Ty) (d a : RegCode) (s : State) : Host.Outcome State Fault Refusal :=
  perLane (.brev c ty d a) s (fun e l =>
    let v := readSet e.g l a ty.width
    outD ((List.range ty.width).foldl (fun r i => 2 * r + b2n (v.testBit i)) 0))

/-- BFE: the field, zero-extended for .B types and sign-extended for .I types (R152). -/
def execBfe (c : Ctl) (ty : Ty) (d a : RegCode) (pos : BitVec 6) (len : BitVec 7) (s : State) :
    Host.Outcome State Fault Refusal :=
  perLane (.bfe c ty d a pos len) s (fun e l =>
    let f := readSet e.g l a ty.width / 2 ^ pos.toNat % 2 ^ len.toNat
    outD (if ty.signed ∧ len ≠ 0 then wrapN ty.width (sgn len.toNat f) else f))

/-- BFI (R152). -/
def execBfi (c : Ctl) (ty : Ty) (d a : RegCode) (b : SrcB) (pos : BitVec 6) (len : BitVec 7) (s : State) :
    Host.Outcome State Fault Refusal :=
  perLane (.bfi c ty d a b pos len) s (fun e l =>
    let v := readSet e.g l a ty.width
    let p := pos.toNat
    let n := len.toNat
    let f := readB e.g l b ty.width % 2 ^ n
    outD (v / 2 ^ (p + n) * 2 ^ (p + n) + f * 2 ^ p + v % 2 ^ p))

/-- LEA (R153). -/
def execLea (c : Ctl) (d a : RegCode) (b : SrcB) (sh : BitVec 5) (s : State) : Host.Outcome State Fault Refusal :=
  perLane (.lea c d a b sh) s (fun e l =>
    outD (wrapN 64 ((readSet e.g l a 64 : Nat) + sgn 32 (readB e.g l b 32) * 2 ^ sh.toNat)))

/-- MOV (R153). -/
def execMov (c : Ctl) (ty : Ty) (d a : RegCode) (s : State) : Host.Outcome State Fault Refusal :=
  perLane (.mov c ty d a) s (fun e l => outD (readSet e.g l a ty.width))

/-- MOVI (R153). -/
def execMovi (c : Ctl) (d : RegCode) (imm : BitVec 32) (s : State) : Host.Outcome State Fault Refusal :=
  perLane (.movi c d imm) s (fun _ _ => outD imm.toNat)

/-- The value of a special register in a lane (R31, R33); GTIME reads LCLK under DET. -/
def sprValue (e : Env) (l : Nat) (sel : Nat) : Nat :=
  let tlane := 128 * e.g.idx + l
  match sel with
  | 0 => l
  | 1 => l / 4
  | 2 => tlane
  | 3 => e.g.idx
  | 4 => e.t.teamid
  | 5 => if e.l.isCluster then e.t.cslot else 0
  | 6 => e.l.id.toNat
  | 7 => e.l.nlanes
  | 8 => e.l.ngroups
  | 9 => e.core / 4
  | 10 => e.t.teamid * 2048 + tlane
  | 11 => if e.l.det then e.g.lclk.toNat else e.s.nanos % 2 ^ 64
  | 12 => e.g.lclk.toNat
  | 13 => (e.g.quad (l / 4)).dix.toNat
  | 14 => e.g.seed.toNat
  | _ => e.g.sticky.toNat

/-- SPR read (R31, R154). -/
def execSprRead (c : Ctl) (ty : Ty) (d : RegCode) (sel : BitVec 7) (s : State) : Host.Outcome State Fault Refusal :=
  perLane (.sprRead c ty d sel) s (fun e l => outD (sprValue e l sel.toNat))

/-- STICKY after a write: ARM bits as written, flags written as 1 cleared (R30). -/
def stickyWrite (old v : Word) : Word := (v &&& 0x1F00#32) ||| (old &&& ~~~ v &&& 0x1F#32)

/-- SPR write of STICKY: once, with the lowest active present lane's value (R154). -/
def execSprWrite (c : Ctl) (b : SrcB) (s : State) : Host.Outcome State Fault Refusal :=
  instr (.sprWrite c b) s (fun e lanes =>
    match lowestLane (lanes &&& e.pres) with
    | none => .next (retire e e.s)
    | some l =>
      let v := BitVec.ofNat 32 (readB e.g l b 32)
      .next (retire e (e.s.setGroup e.gid { e.g with sticky := stickyWrite e.g.sticky v })))

/-- A comparison of two ordered values by code: EQ, NE, LT, LE, GT, GE (R155). -/
def cmpHolds (code : Nat) (o : Ordering) : Bool :=
  match code with
  | 0 => o == .eq
  | 1 => o != .eq
  | 2 => o == .lt
  | 3 => o != .gt
  | 4 => o == .gt
  | _ => o != .lt

/-- ISETP (R155). -/
def execIsetp (c : Ctl) (ty : Ty) (cmp : BitVec 4) (pd : PredCode) (a : RegCode) (b : SrcB) (s : State) :
    Host.Outcome State Fault Refusal :=
  perLane (.isetp c ty cmp pd a b) s (fun e l =>
    outP (cmpHolds cmp.toNat (compare (srcInt e l ty a) (srcBInt e l ty b))))

/-- A floating comparison by code (R168). -/
def fcmpHolds (code : Nat) (x y : FVal) : Bool :=
  match code, cmpV x y with
  | 6, o => o.isSome
  | 7, o => o.isNone
  | k, some o => cmpHolds (if 8 ≤ k then k - 8 else k) o
  | k, none => decide (8 ≤ k)

/-- FSETP (R168). -/
def execFsetp (c : Ctl) (cmp : BitVec 4) (pd : PredCode) (a : RegCode) (b : SrcB) (s : State) :
    Host.Outcome State Fault Refusal :=
  perLane (.fsetp c cmp pd a b) s (fun e l =>
    outP (fcmpHolds cmp.toNat (value .f32 (readSet e.g l a 32)) (value .f32 (readB e.g l b 32))))

/-- DSETP (R168). -/
def execDsetp (c : Ctl) (cmp : BitVec 4) (pd : PredCode) (a : RegCode) (b : SrcB) (s : State) :
    Host.Outcome State Fault Refusal :=
  perLane (.dsetp c cmp pd a b) s (fun e l =>
    outP (fcmpHolds cmp.toNat (value .f64 (readSet e.g l a 64)) (value .f64 (readB e.g l b 64))))

/-- SEL (R156). -/
def execSel (c : Ctl) (ty : Ty) (d a : RegCode) (b : SrcB) (p : PredCode) (s : State) :
    Host.Outcome State Fault Refusal :=
  perLane (.sel c ty d a b p) s (fun e l =>
    outD (if readPred e.g l p then readSet e.g l a ty.width else readB e.g l b ty.width))

/-- PLOP (R157). -/
def execPlop (c : Ctl) (pd p q r : PredCode) (lut : BitVec 8) (s : State) : Host.Outcome State Fault Refusal :=
  perLane (.plop c pd p q r lut) s (fun e l =>
    outP (lut.getLsbD (4 * b2n (readPred e.g l p) + 2 * b2n (readPred e.g l q) + b2n (readPred e.g l r))))

end Sys2Proof.Machine
end

