-- ==== Sys2Proof/Machine/Dispatch.lean ====
section
/-! DEFINITION. The dispatch of every instruction to its meaning, one arm per constructor. -/
namespace Sys2Proof.Machine

/-- The meaning of every step of the machine. -/
def exec (i : Instr) (s : State) : Host.Outcome State Fault Refusal :=
  match i with
  | .nop c => Sys2Proof.Machine.execNop c s
  | .yield c => Sys2Proof.Machine.execYield c s
  | .trap c code => Sys2Proof.Machine.execTrap c code s
  | .brk c => Sys2Proof.Machine.execBrk c s
  | .ppoint a => Sys2Proof.Machine.execPpoint a s
  | .exit c => Sys2Proof.Machine.execExit c s
  | .bra c disp => Sys2Proof.Machine.execBra c disp s
  | .brx c a => Sys2Proof.Machine.execBrx c a s
  | .call disp => Sys2Proof.Machine.execCall disp s
  | .ret => Sys2Proof.Machine.execRet s
  | .rtt => Sys2Proof.Machine.execRtt s
  | .mark disp => Sys2Proof.Machine.execMark disp s
  | .join => Sys2Proof.Machine.execJoin s
  | .regang => Sys2Proof.Machine.execRegang s
  | .lnch c d a disp => Sys2Proof.Machine.execLnch c d a disp s
  | .qswz c ty d a pat => Sys2Proof.Machine.execQswz c ty d a pat s
  | .qbc c ty d a src => Sys2Proof.Machine.execQbc c ty d a src s
  | .shflIdx c ty d a b => Sys2Proof.Machine.execShflIdx c ty d a b s
  | .shflUp c ty d a b => Sys2Proof.Machine.execShflUp c ty d a b s
  | .shflDown c ty d a b => Sys2Proof.Machine.execShflDown c ty d a b s
  | .shflXor c ty d a b => Sys2Proof.Machine.execShflXor c ty d a b s
  | .ballot c ty d p => Sys2Proof.Machine.execBallot c ty d p s
  | .voteAll c pd p => Sys2Proof.Machine.execVoteAll c pd p s
  | .voteAny c pd p => Sys2Proof.Machine.execVoteAny c pd p s
  | .voteUni c pd p => Sys2Proof.Machine.execVoteUni c pd p s
  | .matchAny c ty d a => Sys2Proof.Machine.execMatchAny c ty d a s
  | .elect c pd => Sys2Proof.Machine.execElect c pd s
  | .reduxAdd c ty d a => Sys2Proof.Machine.execReduxAdd c ty d a s
  | .reduxMin c ty d a => Sys2Proof.Machine.execReduxMin c ty d a s
  | .reduxMax c ty d a => Sys2Proof.Machine.execReduxMax c ty d a s
  | .reduxAnd c ty d a => Sys2Proof.Machine.execReduxAnd c ty d a s
  | .reduxOr c ty d a => Sys2Proof.Machine.execReduxOr c ty d a s
  | .reduxXor c ty d a => Sys2Proof.Machine.execReduxXor c ty d a s
  | .scanAdd c ty exc d a => Sys2Proof.Machine.execScanAdd c ty exc d a s
  | .scanMin c ty exc d a => Sys2Proof.Machine.execScanMin c ty exc d a s
  | .scanMax c ty exc d a => Sys2Proof.Machine.execScanMax c ty exc d a s
  | .scanAnd c ty exc d a => Sys2Proof.Machine.execScanAnd c ty exc d a s
  | .scanOr c ty exc d a => Sys2Proof.Machine.execScanOr c ty exc d a s
  | .scanXor c ty exc d a => Sys2Proof.Machine.execScanXor c ty exc d a s
  | .iadd c ty sat d a b => Sys2Proof.Machine.execIadd c ty sat d a b s
  | .isub c ty sat d a b => Sys2Proof.Machine.execIsub c ty sat d a b s
  | .imul c ty sat d a b => Sys2Proof.Machine.execImul c ty sat d a b s
  | .iaddc c ty d pd a b p => Sys2Proof.Machine.execIaddc c ty d pd a b p s
  | .imulh c ty d a b => Sys2Proof.Machine.execImulh c ty d a b s
  | .imad c ty sat d a b k => Sys2Proof.Machine.execImad c ty sat d a b k s
  | .imin c ty d a b => Sys2Proof.Machine.execImin c ty d a b s
  | .imax c ty d a b => Sys2Proof.Machine.execImax c ty d a b s
  | .iabs c ty sat d a => Sys2Proof.Machine.execIabs c ty sat d a s
  | .and c ty d a b => Sys2Proof.Machine.execAnd c ty d a b s
  | .or c ty d a b => Sys2Proof.Machine.execOr c ty d a b s
  | .xor c ty d a b => Sys2Proof.Machine.execXor c ty d a b s
  | .not c ty d a => Sys2Proof.Machine.execNot c ty d a s
  | .shl c ty d a b => Sys2Proof.Machine.execShl c ty d a b s
  | .shr c ty d a b => Sys2Proof.Machine.execShr c ty d a b s
  | .sar c ty d a b => Sys2Proof.Machine.execSar c ty d a b s
  | .fshf c d a b k => Sys2Proof.Machine.execFshf c d a b k s
  | .popc c ty d a => Sys2Proof.Machine.execPopc c ty d a s
  | .clz c ty d a => Sys2Proof.Machine.execClz c ty d a s
  | .brev c ty d a => Sys2Proof.Machine.execBrev c ty d a s
  | .bfe c ty d a pos len => Sys2Proof.Machine.execBfe c ty d a pos len s
  | .bfi c ty d a b pos len => Sys2Proof.Machine.execBfi c ty d a b pos len s
  | .lea c d a b sh => Sys2Proof.Machine.execLea c d a b sh s
  | .mov c ty d a => Sys2Proof.Machine.execMov c ty d a s
  | .movi c d imm => Sys2Proof.Machine.execMovi c d imm s
  | .sprRead c ty d sel => Sys2Proof.Machine.execSprRead c ty d sel s
  | .sprWrite c b => Sys2Proof.Machine.execSprWrite c b s
  | .isetp c ty cmp pd a b => Sys2Proof.Machine.execIsetp c ty cmp pd a b s
  | .fsetp c cmp pd a b => Sys2Proof.Machine.execFsetp c cmp pd a b s
  | .dsetp c cmp pd a b => Sys2Proof.Machine.execDsetp c cmp pd a b s
  | .sel c ty d a b p => Sys2Proof.Machine.execSel c ty d a b p s
  | .plop c pd p q r lut => Sys2Proof.Machine.execPlop c pd p q r lut s
  | .fadd c rm d a b => Sys2Proof.Machine.execFadd c rm d a b s
  | .fmul c rm d a b => Sys2Proof.Machine.execFmul c rm d a b s
  | .ffma c rm d a b k => Sys2Proof.Machine.execFfma c rm d a b k s
  | .fmin c d a b => Sys2Proof.Machine.execFmin c d a b s
  | .fmax c d a b => Sys2Proof.Machine.execFmax c d a b s
  | .fscale c rm d a b => Sys2Proof.Machine.execFscale c rm d a b s
  | .fclass c ty d a => Sys2Proof.Machine.execFclass c ty d a s
  | .frcp c rm d a => Sys2Proof.Machine.execFrcp c rm d a s
  | .frsq c rm d a => Sys2Proof.Machine.execFrsq c rm d a s
  | .fsqrt c rm d a => Sys2Proof.Machine.execFsqrt c rm d a s
  | .fexp2 c rm d a => Sys2Proof.Machine.execFexp2 c rm d a s
  | .flog2 c rm d a => Sys2Proof.Machine.execFlog2 c rm d a s
  | .fsin c rm d a => Sys2Proof.Machine.execFsin c rm d a s
  | .fcos c rm d a => Sys2Proof.Machine.execFcos c rm d a s
  | .dadd c rm d a b => Sys2Proof.Machine.execDadd c rm d a b s
  | .dmul c rm d a b => Sys2Proof.Machine.execDmul c rm d a b s
  | .dfma c rm d a b k => Sys2Proof.Machine.execDfma c rm d a b k s
  | .hadd2 c ty rm d a b => Sys2Proof.Machine.execHadd2 c ty rm d a b s
  | .hmul2 c ty rm d a b => Sys2Proof.Machine.execHmul2 c ty rm d a b s
  | .hfma2 c ty rm d a b k => Sys2Proof.Machine.execHfma2 c ty rm d a b k s
  | .cvt c ty src rm sat d a => Sys2Proof.Machine.execCvt c ty src rm sat d a s
  | .cvtp c ty src rm sat d a b => Sys2Proof.Machine.execCvtp c ty src rm sat d a b s
  | .cvtx c ty src e d a => Sys2Proof.Machine.execCvtx c ty src e d a s
  | .dot2 c ty el d a b => Sys2Proof.Machine.execDot2 c ty el d a b s
  | .dot4 c ty el sc bs d a b k => Sys2Proof.Machine.execDot4 c ty el sc bs d a b k s
  | .dot8 c ty el sc bs d a b k => Sys2Proof.Machine.execDot8 c ty el sc bs d a b k s
  | .ld c ty h d a off => Sys2Proof.Machine.execLd c ty h d a off s
  | .st c ty h a b off => Sys2Proof.Machine.execSt c ty h a b off s
  | .lds c ty d a off => Sys2Proof.Machine.execLds c ty d a off s
  | .sts c ty a b off => Sys2Proof.Machine.execSts c ty a b off s
  | .ldc c ty d a slot off => Sys2Proof.Machine.execLdc c ty d a slot off s
  | .stc c ty a b slot off => Sys2Proof.Machine.execStc c ty a b slot off s
  | .pref c h a off => Sys2Proof.Machine.execPref c h a off s
  | .atomAdd c ty ord d a b => Sys2Proof.Machine.execAtomAdd c ty ord d a b s
  | .atomMin c ty ord d a b => Sys2Proof.Machine.execAtomMin c ty ord d a b s
  | .atomMax c ty ord d a b => Sys2Proof.Machine.execAtomMax c ty ord d a b s
  | .atomAnd c ty ord d a b => Sys2Proof.Machine.execAtomAnd c ty ord d a b s
  | .atomOr c ty ord d a b => Sys2Proof.Machine.execAtomOr c ty ord d a b s
  | .atomXor c ty ord d a b => Sys2Proof.Machine.execAtomXor c ty ord d a b s
  | .atomExch c ty ord d a b => Sys2Proof.Machine.execAtomExch c ty ord d a b s
  | .cas c ty ord d a b k => Sys2Proof.Machine.execCas c ty ord d a b k s
  | .redAdd c ty a b off => Sys2Proof.Machine.execRedAdd c ty a b off s
  | .redMin c ty a b off => Sys2Proof.Machine.execRedMin c ty a b off s
  | .redMax c ty a b off => Sys2Proof.Machine.execRedMax c ty a b off s
  | .redAnd c ty a b off => Sys2Proof.Machine.execRedAnd c ty a b off s
  | .redOr c ty a b off => Sys2Proof.Machine.execRedOr c ty a b off s
  | .redXor c ty a b off => Sys2Proof.Machine.execRedXor c ty a b off s
  | .acq c ty h d a off => Sys2Proof.Machine.execAcq c ty h d a off s
  | .rel c ty a b off => Sys2Proof.Machine.execRel c ty a b off s
  | .fence => Sys2Proof.Machine.execFence s
  | .binit c gl a b => Sys2Proof.Machine.execBinit c gl a b s
  | .arrive c gl a => Sys2Proof.Machine.execArrive c gl a s
  | .expect c gl a b => Sys2Proof.Machine.execExpect c gl a b s
  | .wait c gl pd a b => Sys2Proof.Machine.execWait c gl pd a b s
  | .rinit c gl a b k => Sys2Proof.Machine.execRinit c gl a b k s
  | .rgive c gl a => Sys2Proof.Machine.execRgive c gl a s
  | .adecl c pd a b k lg => Sys2Proof.Machine.execAdecl c pd a b k lg s
  | .afree c pd a => Sys2Proof.Machine.execAfree c pd a s
  | .astat c d a => Sys2Proof.Machine.execAstat c d a s
  | .arsum c fx d pd a b k => Sys2Proof.Machine.execArsum c fx d pd a b k s
  | .armax c d pd a b k => Sys2Proof.Machine.execArmax c d pd a b k s
  | .armin c d pd a b k => Sys2Proof.Machine.execArmin c d pd a b k s
  | .apfx c d pd a b => Sys2Proof.Machine.execApfx c d pd a b s
  | .apick c d pd a b => Sys2Proof.Machine.execApick c d pd a b s
  | .htclaim c tab pd a => Sys2Proof.Machine.execHtclaim c tab pd a s
  | .htfree c tab pd a => Sys2Proof.Machine.execHtfree c tab pd a s
  | .htins c tab raw d pd a b => Sys2Proof.Machine.execHtins c tab raw d pd a b s
  | .htprobe c tab d pd a => Sys2Proof.Machine.execHtprobe c tab d pd a s
  | .htdel c tab d a => Sys2Proof.Machine.execHtdel c tab d a s
  | .htacc c tab raw a b => Sys2Proof.Machine.execHtacc c tab raw a b s
  | .htaccRes c tab raw d a b => Sys2Proof.Machine.execHtaccRes c tab raw d a b s
  | .htdrain c tab dgl bgl a bs k => Sys2Proof.Machine.execHtdrain c tab dgl bgl a bs k s
  | .htstat c tab d => Sys2Proof.Machine.execHtstat c tab d s
  | .thset c slot d a => Sys2Proof.Machine.execThset c slot d a s
  | .thget c d a => Sys2Proof.Machine.execThget c d a s
  | .thdrop c a => Sys2Proof.Machine.execThdrop c a s
  | .thdropRevoke c a => Sys2Proof.Machine.execThdropRevoke c a s
  | .cpy c bgl a bs k => Sys2Proof.Machine.execCpy c bgl a bs k s
  | .cpyg c bgl a bs k => Sys2Proof.Machine.execCpyg c bgl a bs k s
  | .cpys c bgl a bs k => Sys2Proof.Machine.execCpys c bgl a bs k s
  | .cpysRadd c bgl a bs k => Sys2Proof.Machine.execCpysRadd c bgl a bs k s
  | .cpyr c bgl a bs k => Sys2Proof.Machine.execCpyr c bgl a bs k s
  | .mrsv c wide pd a bs => Sys2Proof.Machine.execMrsv c wide pd a bs s
  | .mrel c a bs => Sys2Proof.Machine.execMrel c a bs s
  | .mpri c a bs => Sys2Proof.Machine.execMpri c a bs s
  | .mzero c a => Sys2Proof.Machine.execMzero c a s
  | .mma c tile a bs k => Sys2Proof.Machine.execMma c tile a bs k s
  | .mmat c tile bgl a bs k => Sys2Proof.Machine.execMmat c tile bgl a bs k s
  | .mld c tile acct a bs k => Sys2Proof.Machine.execMld c tile acct a bs k s
  | .mst c tile acct a bs k => Sys2Proof.Machine.execMst c tile acct a bs k s
  | .csrr c d csr => Sys2Proof.Machine.execCsrr c d csr s
  | .csrw c a csr => Sys2Proof.Machine.execCsrw c a csr s
  | .tlbiPage c loc a => Sys2Proof.Machine.execTlbiPage c loc a s
  | .tlbiAll c loc a => Sys2Proof.Machine.execTlbiAll c loc a s
  | .l1wb c => Sys2Proof.Machine.execL1wb c s
  | .halt c => Sys2Proof.Machine.execHalt c s
  | .clauseIssue core port => Sys2Proof.Machine.execClauseIssue core port s
  | .regangBoundRelease gid addr => Sys2Proof.Machine.execRegangBoundRelease gid addr s
  | .detRegangBound gid addr => Sys2Proof.Machine.execDetRegangBound gid addr s
  | .minClockRelease core port => Sys2Proof.Machine.execMinClockRelease core port s
  | .detYield core port => Sys2Proof.Machine.execDetYield core port s
  | .waitWake gid quad => Sys2Proof.Machine.execWaitWake gid quad s
  | .loadDataReturn op line => Sys2Proof.Machine.execLoadDataReturn op line s
  | .atomicStepAtHome op => Sys2Proof.Machine.execAtomicStepAtHome op s
  | .releaseAtHome op => Sys2Proof.Machine.execReleaseAtHome op s
  | .remoteAcquire op => Sys2Proof.Machine.execRemoteAcquire op s
  | .pullCore core upTo => Sys2Proof.Machine.execPullCore core upTo s
  | .updateOnlyRecall line => Sys2Proof.Machine.execUpdateOnlyRecall line s
  | .l1Eviction core line => Sys2Proof.Machine.execL1Eviction core line s
  | .homeEviction line => Sys2Proof.Machine.execHomeEviction line s
  | .leafwrite op => Sys2Proof.Machine.execLeafwrite op s
  | .rangeStep op => Sys2Proof.Machine.execRangeStep op s
  | .descendStep op => Sys2Proof.Machine.execDescendStep op s
  | .regionBuild op => Sys2Proof.Machine.execRegionBuild op s
  | .swageAccept core => Sys2Proof.Machine.execSwageAccept core s
  | .swageCredit core cmd move => Sys2Proof.Machine.execSwageCredit core cmd move s
  | .cpyrPermit core cmd => Sys2Proof.Machine.execCpyrPermit core cmd s
  | .drainCredit op n => Sys2Proof.Machine.execDrainCredit op n s
  | .anvilGrant cluster => Sys2Proof.Machine.execAnvilGrant cluster s
  | .passStep cluster => Sys2Proof.Machine.execPassStep cluster s
  | .mmatTrigger cluster req => Sys2Proof.Machine.execMmatTrigger cluster req s
  | .anvilFaultSuspend cluster => Sys2Proof.Machine.execAnvilFaultSuspend cluster s
  | .impreciseStoreFault core entry => Sys2Proof.Machine.execImpreciseStoreFault core entry s
  | .placement part => Sys2Proof.Machine.execPlacement part s
  | .teamEnd team => Sys2Proof.Machine.execTeamEnd team s
  | .launchEnd launch => Sys2Proof.Machine.execLaunchEnd launch s
  | .hintCheck launch idx => Sys2Proof.Machine.execHintCheck launch idx s
  | .preemptionRequest ctx => Sys2Proof.Machine.execPreemptionRequest ctx s
  | .deadline ctx => Sys2Proof.Machine.execDeadline ctx s
  | .suspension ctx => Sys2Proof.Machine.execSuspension ctx s
  | .timelimit ctx => Sys2Proof.Machine.execTimelimit ctx s
  | .eccCorrected strike => Sys2Proof.Machine.execEccCorrected strike s
  | .eccUncorrectable strike => Sys2Proof.Machine.execEccUncorrectable strike s
  | .coreRejoin core => Sys2Proof.Machine.execCoreRejoin core s
  | .scrub sector => Sys2Proof.Machine.execScrub sector s
  | .linkDown link => Sys2Proof.Machine.execLinkDown link s
  | .peerInboundAccess link addr data => Sys2Proof.Machine.execPeerInboundAccess link addr data s
  | .hostCompletionError op line => Sys2Proof.Machine.execHostCompletionError op line s
  | .thermalThrottle die temp => Sys2Proof.Machine.execThermalThrottle die temp s
  | .thermalStop die temp => Sys2Proof.Machine.execThermalStop die temp s
  | .eventPost func => Sys2Proof.Machine.execEventPost func s
  | .launchPortWrite func off data => Sys2Proof.Machine.execLaunchPortWrite func off data s
  | .bar2Write func addr data => Sys2Proof.Machine.execBar2Write func addr data s
  | .bar2Read func addr len => Sys2Proof.Machine.execBar2Read func addr len s
  | .registerWrite func off data => Sys2Proof.Machine.execRegisterWrite func off data s
  | .ctxcreate h img => Sys2Proof.Machine.execCtxcreate h img s
  | .ctxdestroy h => Sys2Proof.Machine.execCtxdestroy h s
  | .preempt h => Sys2Proof.Machine.execPreempt h s
  | .hostResume h g => Sys2Proof.Machine.execHostResume h g s
  | .hostReturn h g => Sys2Proof.Machine.execHostReturn h g s
  | .hostKill h g => Sys2Proof.Machine.execHostKill h g s
  | .ptwrite h pa value => Sys2Proof.Machine.execPtwrite h pa value s
  | .invalPage h va => Sys2Proof.Machine.execInvalPage h va s
  | .invalAll h => Sys2Proof.Machine.execInvalAll h s
  | .admitApprove h hid => Sys2Proof.Machine.execAdmitApprove h hid s
  | .admitRefuse h hid => Sys2Proof.Machine.execAdmitRefuse h hid s
  | .rgrantGrant h rid => Sys2Proof.Machine.execRgrantGrant h rid s
  | .rgrantRefuse h rid => Sys2Proof.Machine.execRgrantRefuse h rid s
  | .frameTrap h g dst => Sys2Proof.Machine.execFrameTrap h g dst s
  | .frameRecord h hid dst => Sys2Proof.Machine.execFrameRecord h hid dst s
  | .pset h img => Sys2Proof.Machine.execPset h img s
  | .attest h nonce dst => Sys2Proof.Machine.execAttest h nonce dst s
  | .errlog h len dst => Sys2Proof.Machine.execErrlog h len dst s
  | .errlogCerts h len dst => Sys2Proof.Machine.execErrlogCerts h len dst s
  | .peerwinOutbound h link len => Sys2Proof.Machine.execPeerwinOutbound h link len s
  | .peerwinInbound h link ext len => Sys2Proof.Machine.execPeerwinInbound h link ext len s
  | .fwstageImage h stage len src => Sys2Proof.Machine.execFwstageImage h stage len src s
  | .fwstageSvn h stage svn => Sys2Proof.Machine.execFwstageSvn h stage svn s
  | .power h watts => Sys2Proof.Machine.execPower h watts s
  | .storeAcknowledgement op => Sys2Proof.Machine.execStoreAcknowledgement op s
  | .unitEnd cluster => Sys2Proof.Machine.execUnitEnd cluster s
  | .crucibleOperationApplied core => Sys2Proof.Machine.execCrucibleOperationApplied core s
  | .linkRetry link => Sys2Proof.Machine.execLinkRetry link s
  | .moduleReset => Sys2Proof.Machine.execModuleReset s
  | .powerThrottle => Sys2Proof.Machine.execPowerThrottle s

end Sys2Proof.Machine
end

