-- ==== Sys2Proof/Machine/Turns.lean ====
section
/-!
DEFINITION. Which turns a state offers: the ports, the agents of the machine that move on their own, and the functions'
command queues; an instruction whose words are no encoding (R59, R63); and the placing of a clause at a port from outside.
What comes from outside the module (a host's writes, errors, temperature, reset) is on the agenda alone (log 1).
-/
namespace Sys2Proof.Machine

/-! ## Turns (log 1) -/

/-- The events that carry an operation in flight on. -/
def Flight.turns (id : Nat) (f : Flight) : List Turn :=
  match f.kind with
  | .load => (distinct (f.pieces.map Piece.request)).map (fun n => .event (.loadDataReturn id n))
  | .result | .holding => [.event (.loadDataReturn id 0)]
  | .atomic _ _ _ => [.event (.atomicStepAtHome id)]
  | .acquire _ | .waitAcquire => [.event (.remoteAcquire id)]
  | .release | .arrive _ _ => [.event (.releaseAtHome id)]
  | .through => [.event (.storeAcknowledgement id)]
  | .leaf _ _ _ => [.event (.leafwrite id)]
  | .query _ _ => [.event (.rangeStep id), .event (.descendStep id)]
  | .build => [.event (.regionBuild id)]
  | .lnch | .swage | .anvil | .crucible => []

/-- A port's turns: its next instruction or clause, and what may befall an instruction it holds. -/
def portTurns (core port : Nat) (p : Port) : List Turn :=
  .issue core port ::
    (if p.issue.any (fun i => i.clockHeld) then [.event (.minClockRelease core port), .event (.detYield core port)] else [])

/-- A core's turns. -/
def coreTurns (n : Nat) (k : Core) : List Turn :=
  portTurns n 0 (k.port 0) ++ portTurns n 1 (k.port 1) ++
  k.l1.map (fun x => .event (.l1Eviction n x.1)) ++
  k.l1.filterMap (fun x => if x.2.state == .u then some (.event (.updateOnlyRecall x.1)) else none) ++
  [.event (.swageAccept n), .event (.crucibleOperationApplied n), .event (.coreRejoin n)] ++
  k.swage.flatMap (fun x => .event (.cpyrPermit n x.1) ::
    (List.range x.2.moves.length).map (fun m => .event (.swageCredit n x.1 m))) ++
  k.drains.flatMap (fun x => (List.range x.2.moves.length).map (fun m => .event (.drainCredit x.1 m))) ++
  (256 :: k.origins.map (fun x => x.1)).map (fun i => .event (.impreciseStoreFault n i))

/-- A cluster's turns: its Anvil's. -/
def clusterTurns (n : Nat) (c : Cluster) : List Turn :=
  [.event (.anvilGrant n), .event (.passStep n), .event (.unitEnd n), .event (.anvilFaultSuspend n)] ++
  c.table.filterMap (fun r => if r.trigger.isSome && !r.passed then some (.event (.mmatTrigger n r.id)) else none)

/-- A group's turns: the bounds of the REGANGs its quads wait at, and their wakings. -/
def groupTurns (n : Nat) (g : Group) : List Turn :=
  g.quads.flatMap (fun x =>
    (match x.2.regang with
     | some r => [.event (.regangBoundRelease n r.1), .event (.detRegangBound n r.1)]
     | none => []) ++
    (if x.2.waiting.isSome then [.event (.waitWake n x.1)] else []))

/-- A launch's turns. -/
def launchTurns (n : Nat) (l : Launch) : List Turn :=
  .event (.launchEnd n) :: (List.range l.hints.length).map (fun i => .event (.hintCheck n i))

/-- A context's turns. -/
def ctxTurns (n : Nat) : List Turn :=
  [.event (.preemptionRequest n), .event (.deadline n), .event (.suspension n), .event (.timelimit n)]

/-- The turns of a function: its next waiting event, its next command. -/
def funcTurns (n : Nat) : List Turn := [.event (.eventPost n), .command n]

/-- A home line's turns: its record is evicted, or a releaser it names is pulled. -/
def homeTurns (line : Nat) (h : Hallmark) : List Turn :=
  .event (.homeEviction line) :: h.pend.map (fun x => .event (.pullCore x.2.core x.2.e))

/-- Every turn a state offers; a turn whose step is not enabled leaves the state as it is. A stopped module posts events
and does nothing else (R385). -/
def turnsOf (s : State) : List Turn :=
  if s.iluic.stopped then s.funcs.map (fun e => .event (.eventPost e.1))
  else
    s.cores.flatMap (fun e => coreTurns e.1 e.2) ++ s.clusters.flatMap (fun e => clusterTurns e.1 e.2) ++
    s.groups.flatMap (fun e =>
      (if (aget? s.cores e.2.core).isSome then [] else [.issue e.2.core (e.2.slot % 2)]) ++ groupTurns e.1 e.2) ++
    s.flights.flatMap (fun e => e.2.turns e.1) ++ s.hallmarks.flatMap (fun e => homeTurns e.1 e.2) ++
    s.poison.map (fun n => .event (.scrub n)) ++ s.parts.map (fun e => .event (.placement e.1)) ++
    s.teams.map (fun e => .event (.teamEnd e.1)) ++ s.launches.flatMap (fun e => launchTurns e.1 e.2) ++
    s.ctxs.flatMap (fun e => ctxTurns e.1) ++ s.funcs.flatMap (fun e => funcTurns e.1)

/-- The turn to take: the agenda's head, else the free choice among what the state offers (log 1). -/
def nextTurn (s : State) : Option Turn :=
  match s.agenda with
  | t :: _ => some t
  | [] => (turnsOf s)[Config.choice s.tick % (turnsOf s).length]?

/-- What a stopped module still does: it posts events, and it can be reset (R385). -/
def Turn.whileStopped : Turn → Bool
  | .event .moduleReset | .event (.eventPost _) => true
  | _ => false

/-- Events that come from outside the module, or whose units the outside drives (log 1, log 92). -/
def fromOutside : Instr → Bool
  | .eccCorrected _ | .eccUncorrectable _ | .linkDown _ | .linkRetry _ | .peerInboundAccess _ _ _ | .hostCompletionError _ _
  | .moduleReset | .thermalThrottle _ _ | .thermalStop _ _ | .powerThrottle | .launchPortWrite _ _ _ | .bar2Write _ _ _
  | .bar2Read _ _ _ | .registerWrite _ _ _ => true
  | _ => false

/-- A turn of the module's own units: a unit that must post an event to a full queue waits with it (R371). -/
def Turn.inside : Turn → Bool
  | .issue _ _ => true
  | .event i => !fromOutside i
  | .command _ => false

/-- Events that a function's queue has room for; a queue that is not set up is never full. -/
def Func.room (f : Func) : Option Nat :=
  if logOk f.eqlog2 then some (2 ^ f.eqlog2 - (f.eqtail + 2 ^ 32 - f.eqhead % 2 ^ 32) % 2 ^ 32) else none

/-- A turn has posted an event for which its function's queue has no room, those that wait before it counted (R371). -/
def overfills (before after : State) : Bool :=
  after.funcs.any (fun e =>
    decide ((before.func e.1).waiting.length < e.2.waiting.length) && e.2.room.any (fun n => decide (n < e.2.waiting.length)))

/-- The state in which a turn is taken: time has passed, and the agenda has moved on. -/
def beginTurn (s : State) : State := { advance s with agenda := s.agenda.drop 1 }

/-! ## Words that are no instruction (R59, R63) -/

/-- The guard an instruction's words name (R50): PT in a base form, and where the field holds a reserved code (log 19). -/
def guardOfWords (ws : List Word) : Ctl :=
  let w1 := ws.getD 1 0
  let g : PredCode := w1.extractLsb' 21 4
  if lenOf (ws.headD 0) < 2 || decide (12 ≤ g.toNat ∧ g.toNat ≤ 14) then noGuard else ⟨g, w1.getLsbD 20, false⟩

/-- The words in issue are no instruction: ILLOP in the gang's active present lanes (R59), once its acquires are done
(R306). -/
def illegalWords (e : Env) : State :=
  if acquireHolds e.s e.gid e.is.quads then e.s
  else raiseAll e e.s .illop (e.active (guardOfWords e.is.words) &&& e.pres)

/-- The issue in turn whose words are no instruction. -/
def takeIllegal (s : State) : State :=
  match s.env? with
  | some e => illegalWords e
  | none => s

/-! ## A clause at a port (log 20) -/

/-- The five words of an instruction whose low `nbits` bits are given, the rest zero. -/
def tableWords (nbits w : Nat) : List Word :=
  (List.range 5).map (fun i => BitVec.ofNat 32 (w % 2 ^ nbits / 2 ^ (32 * i)))

/-- The launch record of the placed clause: one team of 4 lanes with 96 V registers, its code at 0x1000 (R335). -/
def placedRecord : List Byte := List.replicate 33 0 ++ [0x10] ++ List.replicate 12 0 ++ [0x76] ++ List.replicate 17 0

/-- The clause header of the placed clause: COUNT 1, no flag awaited, SETA and SETB none (R56). -/
def placedHeader : Word := 0x000FF080

/-- The page table entry of the placed clause: one identity page of 256 GiB of device memory, readable, writable and
executable (R321, R322). -/
def placedLeaf : List Byte := toBytes 0xE2 8

/-- The partition of the placed clause: cluster 0 and the first GiB of each stack (R366). -/
def placedPart : Part :=
  { enabled := true, clusters := 1, pstack := 0x1000000, ctxtab := 0x20000, nctx := 1, ext := [(0, 1)] }

/-- Its context (R368). -/
def placedCtx (clock : Nat) : Context :=
  { state := .live, valid := true, l1pt := 0x10000, err := 0x30000, status := 0x30040, tvec := 0x40000
    since := some clock }

/-- The clause in issue, its words fetched. -/
def placedIssue (gid : Nat) (ws : List Word) : Issue :=
  { gid, quads := 1, hdr := 0x1000, pc := 0x1004, words := ws, rem := 1, seta := 15, setb := 15, yld := false
    only := none, held := false, clockHeld := false, clockPassed := false }

/-- A state with a clause of one instruction in issue at port 0 of core 0, in memory and fetched, its launch resident
there, and that port's turn next (log 20). -/
def placeClause (s : State) (ws : List Word) : State :=
  let n := s.nextId
  let l : Launch := { ctx := 0, id := 1, record := placedRecord, age := n, next := 1, cores := [0] }
  let mem := writeBytes s.mem (devPlace 0x1000) (bytesOfWords (placedHeader :: ws))
  let mem := writeBytes mem (devPlace 0x10000) placedLeaf
  let k := s.core 0
  let s : State := { s with mem := mem, nextId := n + 3, agenda := .issue 0 0 :: s.agenda
                            iluic := { s.iluic with stopped := false } }
  let s := (s.setPart 0 placedPart).setCtx 0 (placedCtx s.clock)
  let s := s.setLaunch n l
  let s := s.setTeam (n + 1) { launch := n, core := 0, ngroups := 1, live := 1, check := 1 }
  let s := s.setGroup (n + 2) (startGroup l (n + 1) 0 0 0)
  s.setCore 0 ({ k with service := .inService }.setPort 0 { k.port 0 with issue := some (placedIssue (n + 2) ws) })

end Sys2Proof.Machine
end

