-- ==== Sys2Proof/Machine/Step.lean ====
section
/-!
DEFINITION. One step of the machine: whose turn it is (log 1), and what that turn does. A port's turn executes the
instruction that its words decode to, or chooses its next clause; an agent's turn is an event; a function's turn is its
next host command.
-/
namespace Sys2Proof.Machine

/-- What a port's instruction leaves, with the note that it was held where it did not issue (R20). -/
def afterIssue (before : State) (core port : Nat) : Host.Outcome State Fault Refusal → Host.Outcome State Fault Refusal
  | .next t => .next (noteHold before t core port)
  | o => o

/-- A port's turn: the next instruction of its clause, or the choice of a clause (R20, R21). -/
def issueTurn (core port : Nat) (s : State) : Host.Outcome State Fault Refusal :=
  let s := { s with cur := (core, port) }
  match ((s.core core).port port).issue with
  | none => exec (.clauseIssue core port) s
  | some x =>
    match decode x.words with
    | some (i, _) => afterIssue s core port (exec i s)
    | none => .next (noteHold s (takeIllegal s) core port)

/-- A function's turn: its next command (R371). -/
def commandTurn (func : Nat) (s : State) : Host.Outcome State Fault Refusal :=
  match takeCommand s func with
  | .idle => .next s
  | .run i t => exec i t
  | .bad t => .next t

/-- Take a turn. -/
def takeTurn (t : Turn) (s : State) : Host.Outcome State Fault Refusal :=
  match t with
  | .issue core port => issueTurn core port s
  | .event i => exec i s
  | .command func => commandTurn func s

/-- A turn not taken: a port's instruction is held. -/
def waitTurn (t : Turn) (s : State) : State :=
  match t with
  | .issue core port => noteHold s { s with cur := (core, port) } core port
  | _ => s

/-- A turn whose unit would post an event to a full event queue waits (R371). -/
def postOrWait (t : Turn) (s : State) : Host.Outcome State Fault Refusal → Host.Outcome State Fault Refusal
  | .next u => if t.inside && overfills s u then .next (waitTurn t s) else .next u
  | o => o

/-- One step: time passes, and the next turn is taken, or waits for room in an event queue; a stopped module takes no turn
but those R385 leaves it. -/
def step (s : State) : Host.Outcome State Fault Refusal :=
  match nextTurn s with
  | none => .next (beginTurn s)
  | some t =>
    if s.iluic.stopped && !t.whileStopped then .next (beginTurn s)
    else postOrWait t (beginTurn s) (takeTurn t (beginTurn s))

/-- A state whose next step runs the instruction of these bits: a clause that holds it is in issue at a port (log 20). -/
def State.withFetchWord (s : State) (nbits w : Nat) : State := placeClause s (tableWords nbits w)

end Sys2Proof.Machine
end

