-- ==== Sys2Proof/Safety.lean ====
section
/-!
DEFINITION. The terms of the statements: when a gang may execute an instruction, what a register instruction leaves as it
was, what its destination holds, and what every state of a run keeps.
-/
namespace Sys2Proof.Machine

/-! ## What a run keeps -/

/-- Memory is in its canonical form: addresses rise strictly, and no entry is what an unlisted address reads as. -/
def State.MemOk (s : State) : Prop := Memory.wf s.mem = true

/-- An event or a host command: an instruction without an encoding. -/
def isEvent (i : Instr) : Bool := (toFields i).isNone

/-- The turns that stand on the agenda are ports, events and commands, never a bare encoded instruction (log 1). -/
def State.AgendaOk (s : State) : Prop :=
  ∀ i, Turn.event i ∈ s.agenda → isEvent i = true

/-! ## A gang that may execute -/

/-- The gang in turn executes an instruction: it waits for no acquire of its own (R306); the instruction is legal where it
stands: well formed, a system instruction only in a handler, a CSR access one that R317 allows (R59, R64); its register
operands are in the allocation and aligned (R26); and under DET or CHECK none of them is the destination of an operation
still pending (R61). -/
structure Issues (i : Instr) (s : State) (e : Env) : Prop where
  env : s.env? = some e
  free : acquireHolds s e.gid e.is.quads = false
  legal : e.illegal i = false
  regs : e.regsOk i = true
  clear : e.hazard i = true → e.l.check = false ∧ e.l.det = false

/-! ## Frames -/

/-- Nothing but the group, the issue of its port, and what pending operations still have to write changed; every byte of
memory reads as before. -/
structure OnlyGang (e : Env) (s t : State) : Prop where
  machine : t = { s with cores := t.cores, groups := t.groups, flights := t.flights }
  memory : ∀ a, Store.get t.mem a = Store.get s.mem a
  cores : ∀ c, c ≠ e.core → t.core c = s.core c
  core : t.core e.core = { s.core e.core with ports := (t.core e.core).ports }
  ports : ∀ p, p ≠ e.port → (t.core e.core).port p = (s.core e.core).port p
  groups : ∀ g, g ≠ e.gid → t.group g = s.group g
  flights : t.flights.map (fun f => (f.1, { f.2 with skip := [] })) =
    s.flights.map (fun f => (f.1, { f.2 with skip := [] }))

/-- A quad that an instruction without control effect leaves: its masks, its stack and what holds it are as they were. -/
def QuadKeeps (x y : Quad) : Prop :=
  y = { x with kind := y.kind, pc := y.pc, rem := y.rem, hoff := y.hoff, only := y.only, stamp := y.stamp,
               det := y.det, dix := y.dix }

/-- The instruction has retired: LCLK and the DIX of the gang's quads advanced by one, unless the group is in a handler
(R29). -/
structure Counted (e : Env) (g g' : Group) : Prop where
  lclk : g'.lclk = if e.inh then g.lclk else g.lclk + 1
  dix : ∀ q x, aget? g.quads q = some x →
    (g'.quad q).dix = if !e.inh && e.is.quads.getLsbD q then x.dix + 1 else x.dix

/-- After an instruction the port issues the clause's next one, or, after its last, nothing, and the gang's quads stand at
the next clause's header (R20). -/
def MovesOn (e : Env) (t : State) : Prop :=
  if e.is.isLast then
    ((t.core e.core).port e.port).issue = none ∧
    ∀ q x, e.is.quads.getLsbD q = true → aget? (t.group e.gid).quads q = some x → x.kind = .header ∧ x.pc = e.is.after
  else ((t.core e.core).port e.port).issue = some { e.is with
    pc := e.is.after, words := e.is.words.drop e.is.len, rem := e.is.rem - 1, only := none,
    held := false, clockHeld := false, clockPassed := false, entered := [] }

/-- Between the two states the instruction retired, and nothing else changed. -/
structure Retires (e : Env) (s t : State) : Prop where
  only : OnlyGang e s t
  flights : t.flights = s.flights
  group : t.group e.gid = { s.group e.gid with
    lclk := (t.group e.gid).lclk, retired := (t.group e.gid).retired, quads := (t.group e.gid).quads }
  quads : ∀ q, QuadKeeps ((s.group e.gid).quad q) ((t.group e.gid).quad q)
  counted : Counted e (s.group e.gid) (t.group e.gid)
  moves : MovesOn e t

/-- A register is in a destination set of `w` bits, and its lane is written: an S register of any lane (R26, R27). -/
def inDst (d : RegCode) (w : Nat) (lanes : LaneMask) (l r : Nat) : Prop :=
  (d.toNat ≤ r ∧ r < d.toNat + (w + 31) / 32) ∧ (r < 96 → lanes.getLsbD l = true)

/-- What a register instruction leaves: everything outside its group; of its group, every register but its destination
`dst` in its active lanes, every predicate but `pd` in them, and every other field but STICKY and the counters. -/
structure RegFrame (e : Env) (t : State) (lanes : LaneMask) (dst : Option (RegCode × Nat)) (pd : Option PredCode) :
    Prop where
  only : OnlyGang e e.s t
  group : t.group e.gid = { e.g with
    v := (t.group e.gid).v, p := (t.group e.gid).p, sr := (t.group e.gid).sr, sticky := (t.group e.gid).sticky,
    lclk := (t.group e.gid).lclk, retired := (t.group e.gid).retired, quads := (t.group e.gid).quads }
  quads : ∀ q, QuadKeeps (e.g.quad q) ((t.group e.gid).quad q)
  counted : Counted e e.g (t.group e.gid)
  moves : MovesOn e t
  regs : ∀ l r, (∀ d w, dst = some (d, w) → ¬ inDst d w lanes l r) →
    readReg (t.group e.gid) l r = readReg e.g l r
  preds : ∀ l p, ¬ (pd = some p ∧ lanes.getLsbD l = true) → readPred (t.group e.gid) l p = readPred e.g l p

/-- The destination of `w` bits holds, in each active lane, a value that stands in a relation to that lane; an S
destination holds that of the lowest active present lane, and without one is not written (R27). -/
def DstHolds (e : Env) (t : State) (lanes : LaneMask) (d : RegCode) (w : Nat) (rel : Nat → Nat → Prop) : Prop :=
  (d.toNat < 96 → ∀ l, lanes.getLsbD l = true → rel l (readSet (t.group e.gid) l d w)) ∧
  (96 ≤ d.toNat → ∀ l, lowestLane (lanes &&& e.pres) = some l → rel l (readSet (t.group e.gid) 0 d w)) ∧
  (96 ≤ d.toNat → lanes &&& e.pres = 0 → ∀ l r, readReg (t.group e.gid) l r = readReg e.g l r)

/-- The destination predicate holds in each active lane the truth of a proposition about it; code 15 names none
(R55). -/
def PredHolds (e : Env) (t : State) (lanes : LaneMask) (pd : PredCode) (rel : Nat → Bool → Prop) : Prop :=
  pd.toNat < 12 → ∀ l, lanes.getLsbD l = true → rel l (readPred (t.group e.gid) l pd)

/-- STICKY keeps every bit, and bit `k` is set where some active present lane raised the flag (R30). -/
def StickyAdds (e : Env) (t : State) (lanes : LaneMask) (raised : Nat → Nat → Prop) : Prop :=
  ∀ k, (t.group e.gid).sticky.getLsbD k = true ↔
    (e.g.sticky.getLsbD k = true ∨ ∃ l, lanes.getLsbD l = true ∧ e.pres.getLsbD l = true ∧ raised l k)

/-- An instruction runs: it answers a next state, which writes one register destination and no flag. -/
def RunsReg (i : Instr) (s : State) (e : Env) (d : RegCode) (w : Nat) (rel : Nat → Nat → Prop) : Prop :=
  ∃ t, exec i s = .next t ∧ RegFrame e t (e.lanes i) (some (d, w)) none ∧ DstHolds e t (e.lanes i) d w rel ∧
    (t.group e.gid).sticky = e.g.sticky

/-- An instruction runs and writes one register destination, raising flags in STICKY. -/
def RunsFlag (i : Instr) (s : State) (e : Env) (d : RegCode) (w : Nat) (rel : Nat → Nat → Prop)
    (raised : Nat → Nat → Prop) : Prop :=
  ∃ t, exec i s = .next t ∧ RegFrame e t (e.lanes i) (some (d, w)) none ∧ DstHolds e t (e.lanes i) d w rel ∧
    StickyAdds e t (e.lanes i) raised

/-- An instruction runs and writes one predicate. -/
def RunsPred (i : Instr) (s : State) (e : Env) (pd : PredCode) (rel : Nat → Bool → Prop) : Prop :=
  ∃ t, exec i s = .next t ∧ RegFrame e t (e.lanes i) none (some pd) ∧ PredHolds e t (e.lanes i) pd rel ∧
    (t.group e.gid).sticky = e.g.sticky

/-! ## Values -/

/-- The active present lanes of an instruction, ascending (R148). -/
def presentOf (e : Env) (i : Instr) : List Nat := lanesOf (e.lanes i &&& e.pres)

/-- The bounds of an integer type (R68). -/
def intRange (t : Ty) : Int × Int :=
  if t.signed then (-(2 ^ (t.width - 1)), 2 ^ (t.width - 1) - 1) else (0, 2 ^ t.width - 1)

/-- A code of an integer type that holds an exact result: with SAT the bound nearest to it, without SAT its remainder
(R150). -/
def IntHolds (t : Ty) (sat : Bool) (x : Int) (v : Nat) : Prop :=
  v < 2 ^ t.width ∧
  if sat then asInt t v = max (intRange t).1 (min (intRange t).2 x) else (v : Int) = x % 2 ^ t.width

/-- An exact result lies outside its type and saturation acts: OVF (R150). -/
def ovfRaised (t : Ty) (sat : Bool) (x : Int) (k : Nat) : Prop :=
  k = 0 ∧ sat = true ∧ (x < (intRange t).1 ∨ (intRange t).2 < x)

/-- The operations of REDUX and SCAN over the values of some lanes: 0 ADD, 1 MIN, 2 MAX, 3 AND, 4 OR, 5 XOR, with the
operation's identity where there is none (R148). -/
def FoldHolds (op : Nat) (t : Ty) (xs : List Nat) (v : Nat) : Prop :=
  v < 2 ^ t.width ∧
  match op with
  | 0 => v = xs.sum % 2 ^ t.width
  | 1 => (xs = [] → asInt t v = (intRange t).2) ∧ (xs ≠ [] → v ∈ xs ∧ ∀ x ∈ xs, asInt t v ≤ asInt t x)
  | 2 => (xs = [] → asInt t v = (intRange t).1) ∧ (xs ≠ [] → v ∈ xs ∧ ∀ x ∈ xs, asInt t x ≤ asInt t v)
  | 3 => ∀ k, k < t.width → (v.testBit k = true ↔ ∀ x ∈ xs, x.testBit k = true)
  | 4 => ∀ k, k < t.width → (v.testBit k = true ↔ ∃ x ∈ xs, x.testBit k = true)
  | _ => ∀ k, k < t.width → v.testBit k = decide (xs.countP (fun x => x.testBit k) % 2 = 1)

/-- The lanes a SCAN combines for lane `l`: the present lanes up to it, or below it with EXC; for a helper lane all
present lanes (R148). -/
def scanLanes (e : Env) (i : Instr) (exc : Bool) (l : Nat) : List Nat :=
  if e.pres.getLsbD l then (presentOf e i).filter (fun j => if exc then decide (j < l) else decide (j ≤ l))
  else presentOf e i

/-- A comparison of two integers by code: EQ, NE, LT, LE, GT, GE (R155). -/
def intCmp (code : Nat) (x y : Int) : Prop :=
  match code with
  | 0 => x = y
  | 1 => x ≠ y
  | 2 => x < y
  | 3 => x ≤ y
  | 4 => x > y
  | _ => x ≥ y

/-! ## Exact numbers and their rounding -/

/-- An exact result: undefined, an infinity, or a number whose sign a zero keeps (R162). -/
inductive Exact where
  | undef
  | inf (neg : Bool)
  | num (neg : Bool) (x : ℚ)
  deriving DecidableEq

/-- The number of a sign, a magnitude and a power of two. -/
def ratOf (neg : Bool) (m : Nat) (e : Int) : ℚ := (if neg then -1 else 1) * m * 2 ^ e

/-- A value of the model as an exact number. -/
def exactOf : FVal → Exact
  | .nan => .undef
  | .inf neg => .inf neg
  | .fin neg m e => .num neg (ratOf neg m e)

/-- The sum of R162; an exact zero takes its operands' common sign, else it is negative only under RDN. -/
def exactAdd (rm : Rnd) : Exact → Exact → Exact
  | .undef, _ | _, .undef => .undef
  | .inf a, .inf b => if a = b then .inf a else .undef
  | .inf a, .num _ _ | .num _ _, .inf a => .inf a
  | .num a x, .num b y =>
    .num (if x + y = 0 then (if a = b then a else decide (rm = .rdn)) else decide (x + y < 0)) (x + y)

/-- The product of R162. -/
def exactMul : Exact → Exact → Exact
  | .undef, _ | _, .undef => .undef
  | .inf a, .inf b => .inf (a != b)
  | .inf a, .num b x | .num b x, .inf a => if x = 0 then .undef else .inf (a != b)
  | .num a x, .num b y => .num (a != b) (x * y)

/-- The order of exact results, none undefined: −∞ below and +∞ above every number, the two zeros equal (R168). -/
def Exact.below : Exact → Exact → Prop
  | .inf true, y => y ≠ .inf true
  | .num _ _, .inf false => True
  | .num _ x, .num _ y => x < y
  | _, _ => False

/-- The condition of a comparison code of FSETP and DSETP; a NaN leaves the pair unordered (R168). -/
def FloatCmp (code : Nat) (x y : Exact) : Prop :=
  let unordered := x = .undef ∨ y = .undef
  match code with
  | 0 => ¬ unordered ∧ ¬ x.below y ∧ ¬ y.below x
  | 1 => ¬ unordered ∧ (x.below y ∨ y.below x)
  | 2 => ¬ unordered ∧ x.below y
  | 3 => ¬ unordered ∧ ¬ y.below x
  | 4 => ¬ unordered ∧ y.below x
  | 5 => ¬ unordered ∧ ¬ x.below y
  | 6 => ¬ unordered
  | 7 => unordered
  | 8 => unordered ∨ (¬ x.below y ∧ ¬ y.below x)
  | 9 => unordered ∨ x.below y ∨ y.below x
  | 10 => unordered ∨ x.below y
  | 11 => unordered ∨ ¬ y.below x
  | 12 => unordered ∨ y.below x
  | _ => unordered ∨ ¬ x.below y

/-- The number of an exact result. -/
def Exact.number : Exact → ℚ
  | .num _ x => x
  | _ => 0

/-- EXACTSUM of R82. -/
def exactSumOf (xs : List Exact) : Exact :=
  if .undef ∈ xs ∨ (.inf false ∈ xs ∧ .inf true ∈ xs) then .undef
  else if .inf false ∈ xs then .inf false
  else if .inf true ∈ xs then .inf true
  else
    let x := (xs.map Exact.number).sum
    .num (if x = 0 then decide (xs ≠ [] ∧ ∀ y ∈ xs, y = .num true 0) else decide (x < 0)) x

/-- The sum ADDROUND of R82 rounds. -/
def accumulate (acc s : Exact) : Exact :=
  match acc, s with
  | .num a x, .num b y =>
    .num (if x + y = 0 then decide (a = true ∧ x = 0 ∧ b = true ∧ y = 0) else decide (x + y < 0)) (x + y)
  | u, v => exactAdd .rne u v

/-- The integer a mode chooses for a number in units of the quantum (R73, R75); `r` is the 64-bit draw of .SR. -/
def RoundedTo (rm : Rnd) (r : Nat) (u : ℝ) (k : Int) : Prop :=
  match rm with
  | .rne => |u - k| ≤ 1 / 2 ∧ (|u - k| = 1 / 2 → Even k)
  | .rna => |u - k| ≤ 1 / 2 ∧ (|u - k| = 1 / 2 → |u| ≤ |(k : ℝ)|)
  | .rtz => 0 ≤ k * u ∧ |k| = ⌊|u|⌋
  | .rup => k = ⌈u⌉
  | .rdn => k = ⌊u⌋
  | .sr => 0 ≤ k * u ∧ |k| = ⌊|u|⌋ + if 2 ^ 64 ≤ ⌊(|u| - ⌊|u|⌋) * 2 ^ 64⌋ + (r : Int) then 1 else 0

/-- A code of a floating format holds a sign and a magnitude, TF32 in its container (R65, R78). -/
def Codes (t : Ty) (neg : Bool) (a : ℝ) (v : Nat) : Prop :=
  (match floatFields t with
    | none => False
    | some (eb, mb, _) => if t = .tf32 then v < 2 ^ 32 ∧ v % 2 ^ 13 = 0 else v < 2 ^ (1 + eb + mb)) ∧
  ∃ m e, floatVal t v = .fin neg m e ∧ (m : ℝ) * 2 ^ e = a

/-- The largest finite magnitude of a format. -/
noncomputable def topOf (t : Ty) : ℝ := (largest t).1 * 2 ^ (largest t).2

/-- A number other than zero in a floating format: rounded at the quantum of its binade, then, if it lies beyond the
format's range, saturated with OVF, or taken to an infinity or the largest finite magnitude by the mode (R73, R76,
R162). -/
def FloatHolds (t : Ty) (rm : Rnd) (sat : Bool) (r : Nat) (neg : Bool) (x : ℝ) (v : Nat) (ovf : Bool) : Prop :=
  match t.floatSpan with
  | none => False
  | some (p, qmin, _) =>
    let q : Int := max qmin (Int.log 2 |x| - p + 1)
    ∃ k : Int, RoundedTo rm r (x / 2 ^ q) k ∧
      if |(k : ℝ)| * 2 ^ q ≤ topOf t then Codes t neg (|(k : ℝ)| * 2 ^ q) v ∧ ovf = false
      else if sat then Codes t neg (topOf t) v ∧ ovf = true
      else ovf = false ∧
        match rm, neg with
        | .rtz, _ | .rup, true | .rdn, false => Codes t neg (topOf t) v
        | _, _ => v = infCode t neg

/-- The code R162 gives for an exact result. -/
def Rounds (t : Ty) (rm : Rnd) (x : Exact) (v : Nat) : Prop :=
  match x with
  | .undef => v = canonicalNaN t
  | .inf neg => v = infCode t neg
  | .num neg y => if y = 0 then Codes t neg 0 v else FloatHolds t rm false 0 neg y v false

/-- The bounds of an integer destination; FX64's are symmetric (R76). -/
def boundsOf (t : Ty) : Int × Int := if t = .fx64 then (-(2 ^ 63 - 1), 2 ^ 63 - 1) else intRange t

/-- The code and flags R76 gives for an exact source in a destination type, FX64 in units of its quantum. -/
def ConvHolds (t : Ty) (rm : Rnd) (sat : Bool) (r : Nat) (x : Exact) (v : Nat) (f : Flags) : Prop :=
  if (floatFields t).isSome then
    match x with
    | .undef => v = canonicalNaN t ∧ f = { inv := decide (t = .e3m2 ∨ t = .e2m3 ∨ t = .e2m1) }
    | .inf neg =>
      if hasInf t then v = infCode t neg ∧ f = {} else Codes t neg (topOf t) v ∧ f = { ovf := true }
    | .num neg y =>
      if y = 0 then Codes t neg 0 v ∧ f = {}
      else ∃ o, FloatHolds t rm (sat || decide (t ≠ .f32 ∧ t ≠ .f64)) r neg y v o ∧ f = { ovf := o }
  else
    v < 2 ^ t.width ∧
    match x with
    | .undef => v = 0 ∧ f = { inv := true }
    | .inf neg => asInt t v = (if neg then (boundsOf t).1 else (boundsOf t).2) ∧ f = { ovf := true }
    | .num _ y => ∃ k : Int, RoundedTo rm r (y : ℝ) k ∧ asInt t v = max (boundsOf t).1 (min (boundsOf t).2 k) ∧
        f = { ovf := decide (k < (boundsOf t).1 ∨ (boundsOf t).2 < k) }

/-! ## Control flow and exceptions -/

/-- A quad after pushing an entry: the 8 oldest of 16 resident entries move to the spill area first (R19). -/
def pushedQuad (x : Quad) (en : DWord) : Quad :=
  if x.resident.length < 16 then { x with resident := en :: x.resident }
  else { x with resident := en :: x.resident.take 8, spilled := x.spilled + 8 }

/-- A quad after popping its top entry: when no entry is left resident, up to 8 spilled ones are read back, poisoned ones
with a mark (R19, R380; log 103). -/
def poppedQuad (s : State) (g : Group) (q : Nat) (x : Quad) : Quad :=
  match x.resident.drop 1 with
  | [] => { x with
      resident := (List.range (min 8 x.spilled)).map (fun i =>
        BitVec.ofNat 64 (ofBytes (readBytes s.mem (spillPlace s g q (x.spilled - 1 - i)) 8)))
      spilled := x.spilled - min 8 x.spilled
      badStack := x.badStack || (List.range (min 8 x.spilled)).any (fun i =>
        s.isPoisoned (spillPlace s g q (x.spilled - 1 - i))) }
  | rest => { x with resident := rest }

/-- The loop of R138: pop until an entry leaves a live lane, until the stack is empty and the quad ends, or until a TRAP
entry holds the quad for trap return. -/
inductive Unwinds (s : State) (g : Group) (q : Nat) : Quad → Quad → Prop where
  | live {x : Quad} : x.mask ≠ 0 → Unwinds s g q x x
  | ended {x : Quad} : x.mask = 0 → x.resident = [] → Unwinds s g q x { x with kind := .ended }
  | held {x : Quad} {en : DWord} : x.mask = 0 → x.resident.head? = some en → entryKind en = 4 →
      Unwinds s g q x { poppedQuad s g q x with handled := true }
  | pop {x y : Quad} {en : DWord} : x.mask = 0 → x.resident.head? = some en → entryKind en ≠ 4 →
      Unwinds s g q { ((poppedQuad s g q x).goto (entryPc en)) with mask := entryMask en &&& ~~~ x.exited } y →
      Unwinds s g q x y

/-- The group's block of the stack pool lies in device memory (R358, R366). -/
def PoolOk (s : State) (g : Group) : Prop :=
  let p := s.part (partOf (s.launch (s.team g.team).launch).ctx)
  p.pstack % 8 = 0 ∧ p.pstack + 2 ^ 16 * (96 * coreIndex p g.core + g.slot + 1) ≤ 2 ^ 39

/-- A quad's stack as pushes and pops leave it: at most 16 resident entries, spilled ones by eights, none spilled beneath
an empty top. -/
def StackOk (x : Quad) : Prop :=
  x.resident.length ≤ 16 ∧ x.spilled % 8 = 0 ∧ (x.resident = [] → x.spilled = 0) ∧ x.depth ≤ 256

/-- The stacks of a gang. -/
def StacksOk (e : Env) : Prop :=
  PoolOk e.s e.g ∧ ∀ q x, e.is.quads.getLsbD q = true → aget? e.g.quads q = some x → q < 32 ∧ StackOk x

/-- Of `n` pushes one that found 16 entries left the 8 oldest in the quad's spill area (R19, R358). -/
def SpillHeld (s t : State) (g : Group) (q : Nat) (x : Quad) (n : Nat) : Prop :=
  16 < x.resident.length + n → ∀ j, j < 8 →
    readBytes t.mem (spillPlace s g q (x.spilled + j)) 8 =
      toBytes (x.resident.getD (x.resident.length - 1 - j) 0).toNat 8

/-- Outside one group, the issue of one port and the spill areas of quads that `n` pushes overflow, nothing changed; a
spilled sector is poisoned no more; the clause issue ended. -/
structure GangFrame (e : Env) (t : State) (n : Nat) : Prop where
  machine : t = { e.s with cores := t.cores, groups := t.groups, mem := t.mem, poison := t.poison }
  poison : (∀ k ∈ t.poison, k ∈ e.s.poison) ∧ ∀ k ∈ e.s.poison, k ∈ t.poison ∨ ∃ q x, e.is.quads.getLsbD q = true ∧
    aget? e.g.quads q = some x ∧ 16 < x.resident.length + n ∧ k = spillPlace e.s e.g q x.spilled / 64
  cores : ∀ c, c ≠ e.core → t.core c = e.s.core c
  core : t.core e.core = { e.s.core e.core with ports := (t.core e.core).ports }
  ports : ∀ p, p ≠ e.port → (t.core e.core).port p = (e.s.core e.core).port p
  port : (t.core e.core).port e.port = { (e.s.core e.core).port e.port with issue := none }
  groups : ∀ g, g ≠ e.gid → t.group g = e.s.group g
  memory : ∀ a, (∀ q x j, e.is.quads.getLsbD q = true → aget? e.g.quads q = some x → 16 < x.resident.length + n →
      j < 8 →
      a < spillPlace e.s e.g q (x.spilled + j) ∨ spillPlace e.s e.g q (x.spilled + j) + 8 ≤ a) →
    Store.get t.mem a = Store.get e.s.mem a

/-- A quad but for its stamp, its retired-instruction count and its gang under DET. -/
def SameQuad (x y : Quad) : Prop := y = { x with stamp := y.stamp, dix := y.dix, det := y.det }

/-- A control instruction: of its group only the quads and the counters changed, of these only the gang's, each as a
relation says. -/
structure Steers (e : Env) (t : State) (n : Nat) (rel : Nat → Quad → Quad → Prop) : Prop where
  frame : GangFrame e t n
  group : t.group e.gid = { e.g with
    lclk := (t.group e.gid).lclk, retired := (t.group e.gid).retired, quads := (t.group e.gid).quads }
  counted : Counted e e.g (t.group e.gid)
  others : ∀ q, e.is.quads.getLsbD q = false → aget? (t.group e.gid).quads q = aget? e.g.quads q
  gang : ∀ q x, e.is.quads.getLsbD q = true → aget? e.g.quads q = some x →
    ∃ y z, aget? (t.group e.gid).quads q = some y ∧ SameQuad z y ∧ rel q x z

/-- The active lanes of a quad of the gang, exited ones left out (R13). -/
def liveMask (x : Quad) : Nibble := x.mask &&& ~~~ x.exited

/-- A gang holds a quad of its group. -/
def HasQuad (e : Env) : Prop := ∃ q x, e.is.quads.getLsbD q = true ∧ aget? e.g.quads q = some x

/-- No Anvil request of the group waits suspended. -/
def NoneSuspended (e : Env) : Prop :=
  ∀ r ∈ (e.s.cluster (e.g.core / 4)).table, r.gid = e.gid → r.suspended = false

/-- What trap entry makes of a group (R303 to R305): the trap frame, TRAP entries and the handler's address in the quads
with lanes in the handler mask, every other quad held, no register written. -/
structure TrapEntered (e : Env) (t : State) (a : TrapArgs) : Prop where
  frame : GangFrame e t 1
  tstate : (t.group e.gid).frame.tstate = BitVec.ofNat 32 (a.tcode * 2 ^ 24 + a.cause.code * 2 ^ 16 + a.rem * 2 ^ 11 +
    2 ^ 10 + (if a.hdr then 2 ^ 9 else 0) + (if a.after then 2 ^ 8 else 0) + a.setb * 2 ^ 4 + a.seta)
  tpcl : (t.group e.gid).frame.tpcl = a.resume.setWidth 32
  tpch : (t.group e.gid).frame.tpch =
    BitVec.ofNat 32 (a.resume.toNat / 2 ^ 32 + (if a.hdr then 0 else a.hoff) * 2 ^ 17)
  tfault : (t.group e.gid).frame.tfault = a.lanes
  tact : (t.group e.gid).frame.tact = gangMask e.g e.is.quads
  gangOf : (t.group e.gid).frame.gang = e.is.quads
  scratch : (t.group e.gid).frame.scr = e.g.frame.scr
  lane : ∀ x ∈ a.each, Store.get (t.group e.gid).frame.tlcause x.1 = BitVec.ofNat 8 x.2.1.code ∧
    Store.get (t.group e.gid).frame.tladdr x.1 = BitVec.ofNat 49 x.2.2
  noLane : ∀ l, (∀ x ∈ a.each, x.1 ≠ l) → Store.get (t.group e.gid).frame.tlcause l = 0 ∧
    Store.get (t.group e.gid).frame.tladdr l = 0
  group : t.group e.gid = { e.g with
    frame := (t.group e.gid).frame, quads := (t.group e.gid).quads, lclk := (t.group e.gid).lclk,
    retired := (t.group e.gid).retired }
  handlers : ∀ q x, e.is.quads.getLsbD q = true → aget? e.g.quads q = some x → x.kind ≠ .absent → x.kind ≠ .ended →
    laneNibble a.lanes q ≠ 0 →
    SpillHeld e.s t e.g q x 1 ∧ ∃ y, aget? (t.group e.gid).quads q = some y ∧ y.stamp = none ∧
    SameQuad { ((pushedQuad x (stackEntry 4 (laneNibble a.lanes q) a.rem a.resume)).goto (e.s.ctx e.ctx).tvec) with
      mask := laneNibble a.lanes q, handler := true, handled := false } y
  held : ∀ q x, aget? e.g.quads q = some x → x.kind ≠ .absent → x.kind ≠ .ended →
    (e.is.quads.getLsbD q = false ∨ laneNibble a.lanes q = 0) →
    ∃ y, aget? (t.group e.gid).quads q = some y ∧ y.stamp = none ∧ SameQuad { x with trapHeld := true } y
  gone : ∀ q x, aget? e.g.quads q = some x → (x.kind = .absent ∨ x.kind = .ended) →
    ∃ y, aget? (t.group e.gid).quads q = some y ∧ SameQuad x y

/-- A trap can be delivered (R305): the group is in no handler, the handler mask holds a lane, no handler quad's stack is
full; and the context does not park the group for its pager (R315). -/
structure Deliverable (e : Env) (cause : Cause) (lanes : LaneMask) : Prop where
  inh : e.inh = false
  anyLane : lanes ≠ 0
  gang : ∀ q, laneNibble lanes q ≠ 0 → e.is.quads.getLsbD q = true
  quads : ∀ q x, e.is.quads.getLsbD q = true → aget? e.g.quads q = some x → x.kind ≠ .absent ∧ x.kind ≠ .ended
  room : ∀ q x, e.is.quads.getLsbD q = true → aget? e.g.quads q = some x → laneNibble lanes q ≠ 0 → x.depth < 256
  unparked : cause = .xlate → (e.s.part (partOf e.ctx)).split.getLsbD 0 = false
  pushes : StacksOk e

/-- An instruction traps precisely in some lanes, each with its own cause and address, and has not retired (R59, R85, R304,
R305). -/
def TrapsAt (i : Instr) (s : State) (e : Env) (cause : Cause) (lanes : LaneMask) (each : List (Nat × Cause × Nat)) : Prop :=
  ∃ t, exec i s = .next t ∧ (t.group e.gid).lclk = e.g.lclk ∧ t.flights = s.flights ∧ TrapEntered e t
    { core := e.core, port := e.port, gid := e.gid, gang := e.is.quads, cause, lanes, each, resume := e.is.pc,
      rem := e.is.rem, hdr := false, after := false, seta := e.is.seta, setb := e.is.setb, hoff := e.is.hoff, pc := e.is.pc }

/-- It traps so with one cause and one address in every lane (R59, R179). -/
def TrapsAll (i : Instr) (s : State) (e : Env) (cause : Cause) (lanes : LaneMask) (addr : Nat) : Prop :=
  TrapsAt i s e cause lanes ((lanesOf lanes).map (fun l => (l, cause, addr)))

/-- The context ends at the instruction, its record naming a cause and an address, in a handler with DOUBLE (R305, R313). -/
def EndsWith (i : Instr) (s : State) (e : Env) (code addr : Nat) : Prop :=
  exec i s = .next (contextFatal s e.ctx
    { cause := code, double := e.inh, launchid := e.l.id.toNat, teamid := e.t.teamid, groupid := e.g.idx, addr,
      core := e.core, inc := (s.core e.core).incarnation, pc := e.is.pc })

/-- A trap that cannot be delivered ends the context: with STACK for want of room, in a handler with its own cause and
DOUBLE (R19, R305). -/
def EndsContext (i : Instr) (s : State) (e : Env) (cause : Cause) : Prop :=
  EndsWith i s e (if e.inh then cause.code else Cause.stack.code) 0

/-- A quad of the gang holds 256 entries and an active present lane. -/
def FullQuad (e : Env) (q : Nat) (x : Quad) : Prop :=
  e.is.quads.getLsbD q = true ∧ q < 32 ∧ aget? e.g.quads q = some x ∧ 256 ≤ x.depth ∧
  ∃ l, l / 4 = q ∧ (liveMask x).getLsbD (l % 4) = true ∧ e.pres.getLsbD l = true

/-! ## Operations in flight and memory accesses -/

/-- An instruction put operations in flight and retired: beside them only their flags (R60), the counters, the issue of the
port, the translations its core holds, its launch's hint counters and written regions, the mark of the group's latest
acquire or release, and, for writes, one entry of the store-origin table (R310) changed. -/
structure Sends (e : Env) (t : State) (fs : List Flight) (org : Option (Nat × Origin)) : Prop where
  machine : t = { e.s with cores := t.cores, groups := t.groups, flights := t.flights, launches := t.launches,
                           nextId := e.s.nextId + fs.length }
  flights : ∀ n, aget? t.flights n =
    if e.s.nextId ≤ n ∧ n < e.s.nextId + fs.length then fs[n - e.s.nextId]? else aget? e.s.flights n
  launches : ∀ n, t.launch n = { e.s.launch n with hints := (t.launch n).hints, written := (t.launch n).written }
  cores : ∀ c, c ≠ e.core → t.core c = e.s.core c
  core : t.core e.core = { e.s.core e.core with
    ports := (t.core e.core).ports, tlb := (t.core e.core).tlb, origins := (t.core e.core).origins }
  ports : ∀ p, p ≠ e.port → (t.core e.core).port p = (e.s.core e.core).port p
  origins : ∀ n, aget? (t.core e.core).origins n =
    match org with
    | some (k, o) => if n = k then some o else aget? (e.s.core e.core).origins n
    | none => aget? (e.s.core e.core).origins n
  groups : ∀ g, g ≠ e.gid → t.group g = e.s.group g
  group : t.group e.gid = { e.g with
    flags := (t.group e.gid).flags, lclk := (t.group e.gid).lclk, retired := (t.group e.gid).retired,
    quads := (t.group e.gid).quads, sync := (t.group e.gid).sync }
  sync : (t.group e.gid).sync = e.g.sync ∨ (t.group e.gid).sync = t.nextId
  flags : ∀ n, Store.get (t.group e.gid).flags n =
    Store.get e.g.flags n + BitVec.ofNat 6 (fs.countP (fun f => f.flag == some n))
  quads : ∀ q, QuadKeeps (e.g.quad q) ((t.group e.gid).quad q)
  counted : Counted e e.g (t.group e.gid)
  moves : MovesOn e t

/-- An instruction acted on memory at once and retired: outside its group's counters and the issue of its port only memory,
its poison, the L1 lines and translations of cores, teams and launch counters may have changed. -/
structure Acts (e : Env) (t : State) : Prop where
  machine : t = { e.s with cores := t.cores, groups := t.groups, teams := t.teams, launches := t.launches, mem := t.mem,
                           poison := t.poison }
  cores : ∀ c, c ≠ e.core → t.core c = { e.s.core c with l1 := (t.core c).l1 }
  core : t.core e.core = { e.s.core e.core with
    ports := (t.core e.core).ports, tlb := (t.core e.core).tlb, l1 := (t.core e.core).l1 }
  ports : ∀ p, p ≠ e.port → (t.core e.core).port p = (e.s.core e.core).port p
  groups : ∀ g, g ≠ e.gid → t.group g = e.s.group g
  group : t.group e.gid = { e.g with
    lclk := (t.group e.gid).lclk, retired := (t.group e.gid).retired, quads := (t.group e.gid).quads }
  quads : ∀ q, QuadKeeps (e.g.quad q) ((t.group e.gid).quad q)
  counted : Counted e e.g (t.group e.gid)
  moves : MovesOn e t

/-- Every lane of a mask passes the checks of R85 on a global access of `w` bytes: in range, aligned, translated and
permitted, and no place of a declared region it may not reach (R207). -/
def GlobalOk (e : Env) (need : Need) (ok : RegionHit → Bool) (w : Nat) (lanes : LaneMask) (ea : Nat → Int)
    (pa : Nat → Nat) (lf : Nat → Leaf) : Prop :=
  ∀ l, lanes.getLsbD l = true → 0 ≤ ea l ∧ ea l + w ≤ 2 ^ 49 ∧ ea l % w = 0 ∧
    mapLane e.s e.core e.ctx e.inh need l (ea l).toNat = .ok (pa l) (lf l) ∧ ok (regionHit e.s (pa l)) = true

/-- Every lane of a mask passes them on a team's scratchpad (R85, R220). -/
def PadOk (s : State) (team w : Nat) (lanes : LaneMask) (ea : Nat → Int) : Prop :=
  ∀ l, lanes.getLsbD l = true → 0 ≤ ea l ∧ ea l + w ≤ (s.launch (s.team team).launch).padBytes ∧ ea l % w = 0 ∧
    (s.team team).claims (ea l).toNat w = false

/-- The first check of R85 that a lane's global access of `w` bytes fails; POISON stands for a walk that meets it (R380). -/
def GlobalFails (e : Env) (need : Need) (ok : RegionHit → Bool) (w l : Nat) (ea : Int) (c : Cause) : Prop :=
  if ea < 0 ∨ 2 ^ 49 < ea + w then c = .addr
  else if ea % w ≠ 0 then c = .align
  else match mapLane e.s e.core e.ctx e.inh need l ea.toNat with
    | .bad x => c = x
    | .ok pa _ => c = .prot ∧ ok (regionHit e.s pa) = false

/-- The first check that an access to a team's scratchpad fails. -/
def PadFails (s : State) (team w : Nat) (ea : Int) (c : Cause) : Prop :=
  if ea < 0 ∨ (s.launch (s.team team).launch).padBytes < ea + w then c = .addr
  else if ea % w ≠ 0 then c = .align
  else c = .prot ∧ (s.team team).claims ea.toNat w = true

/-- The trap's cause: the first of ADDR, ALIGN, XLATE and PROT that some lane met (R85). -/
def FirstCause (lanes : LaneMask) (bad : Nat → Cause) (cause : Cause) : Prop :=
  let met := fun (x : Cause) => ∃ l, lanes.getLsbD l = true ∧ bad l = x
  (cause = .addr ∧ met .addr) ∨ (cause = .align ∧ met .align ∧ ¬ met .addr) ∨
  (cause = .xlate ∧ met .xlate ∧ ¬ met .addr ∧ ¬ met .align) ∨
  (cause = .prot ∧ met .prot ∧ ¬ met .addr ∧ ¬ met .align ∧ ¬ met .xlate)

/-- No earlier operation of the group holds an access to these places (R107, R115, R119 to R121, R124). -/
def Idle (e : Env) (lanes : LaneMask) (place : Nat → Place) : Prop :=
  e.accessHeld = false ∧ ∀ l, lanes.getLsbD l = true →
    lineBusy e.s e.gid (place l) = false ∧ regionBusy e.s e.gid (place l) = false ∧
    ((place l).apart e.s = true → syncOpen e.s e.gid = false)

/-- The state in which some lanes of the gang in turn take no part. -/
def without (s : State) (e : Env) (m : LaneMask) : State :=
  s.setCore e.core ((s.core e.core).setPort e.port { (s.core e.core).port e.port with
    issue := some { e.is with only := some ((match e.is.only with | some o => o | none => BitVec.allOnes 128) &&& ~~~ m) } })

/-- `u` is as the state after an instruction retired, but that its group has not retired and its port still holds it. -/
structure BeforeRetiring (e : Env) (u t : State) : Prop where
  machine : u = { t with cores := u.cores, groups := u.groups }
  cores : ∀ c, u.core c = { t.core c with ports := (e.s.core c).ports }
  groups : ∀ g, g ≠ e.gid → u.group g = t.group g
  group : u.group e.gid = { e.g with
    flags := (t.group e.gid).flags, sync := (t.group e.gid).sync, quads := (u.group e.gid).quads }
  quads : ∀ q x, aget? e.g.quads q = some x → ∃ y, aget? (u.group e.gid).quads q = some y ∧ y = { x with stamp := y.stamp }

/-- No load of the group is in flight. -/
def Quiet (e : Env) : Prop := ∀ f ∈ e.s.flights, f.2.gid = e.gid → f.2.kind ≠ .load

/-- Every read of the group has taken its value: its writes wait for none (R109). -/
def Settled (e : Env) : Prop := Quiet e ∧ readsOpen e.s e.gid e.s.nextId = false

/-- A core's L1 has room for `n` more lines: none is evicted for them (R3). -/
def HasRoom (s : State) (c n : Nat) : Prop := (s.core c).l1.length + n ≤ l1Lines

/-- No dirty line of a core lags its release count so far that one of `n` releases writes it back (R112). -/
def NoneLags (s : State) (c n : Nat) : Prop :=
  ∀ x ∈ (s.core c).l1, x.2.state = .d → ((s.core c).release - x.2.efirst).toNat + n < 2 ^ 30

/-- The home slices have room for `n` more lines with records: none is evicted for them (R3, R113). -/
def RecordRoom (s : State) (n : Nat) : Prop := s.hallmarks.length + n ≤ sliceLines

/-- The group of an operation is there and waits for no HMLOST of the operation's gang (R306). -/
def GroupReady (s : State) (f : Flight) : Prop :=
  (aget? s.groups f.gid).isSome = true ∧ lostLanes (s.group f.gid) f.quads = 0

/-- No core holds an update-only copy of a line (R118). -/
def NoPartials (s : State) (line : Nat) : Prop :=
  ∀ k ∈ s.cores, ∀ x, aget? k.2.l1 line = some x → x.state ≠ .u

/-- What a core reads at a place of device memory: its line's bytes where the line serves them, else its dirty bytes over
the home's (R90). -/
def coreView (s : State) (c pa n : Nat) : List Byte :=
  let x := (s.core c).line (lineOf pa)
  if x.serves (pa % 256) n then readBytes x.bytes (pa % 256) n
  else (List.range n).map (fun i =>
    if x.dirty.getLsbD (pa % 256 + i) then Store.get x.bytes (pa % 256 + i) else Store.get s.mem (pa + i))

/-- One lane's access of an operation. -/
def pieceAt (w : Nat) (l : Nat) (p : Place) (b k : Nat) (va pbits : Nat) (agg : Bool := false) : Piece :=
  { lane := l, pa := p, w, b, k, got := none, bad := false, va, pbits, agg }

/-- The lanes of an ascending list whose `w` bytes from a place take in a byte, the last one first. -/
def writersOf (lanes : List Nat) (at_ : Nat → Nat) (w a : Nat) : List Nat :=
  (lanes.filter (fun l => decide (at_ l ≤ a ∧ a < at_ l + w))).reverse

/-- Registers of a destination hold their parts of the values landed by lane, unless a later write overtook them; an S
destination the supplying lane's; every other register is as it was (R27, R61). -/
def Lands (s t : State) (f : Flight) (d : RegCode) (vals : List (Nat × Nat)) : Prop :=
  let n := (f.width + 3) / 4
  if d.toNat < 96 then
    (∀ l v k, (l, v) ∈ vals → k < n → 128 * l + (d.toNat + k) ∉ f.skip →
      readReg (t.group f.gid) l (d.toNat + k) = BitVec.ofNat 32 (v / 2 ^ (32 * k))) ∧
    (∀ l r, (r < d.toNat ∨ d.toNat + n ≤ r ∨ 128 * l + r ∈ f.skip ∨ ∀ v, (l, v) ∉ vals) →
      readReg (t.group f.gid) l r = readReg (s.group f.gid) l r)
  else
    (∀ l v k, f.args.head? = some l → (l, v) ∈ vals → k < n → d.toNat + k ∉ f.skip →
      readReg (t.group f.gid) 0 (d.toNat + k) = BitVec.ofNat 32 (v / 2 ^ (32 * k))) ∧
    (∀ l r, (r < d.toNat ∨ d.toNat + n ≤ r) → readReg (t.group f.gid) l r = readReg (s.group f.gid) l r)

/-- The destination of an operation in flight stays within the V or the S registers, and its lanes are distinct. -/
def DstOk (f : Flight) (d : RegCode) (lanes : List Nat) : Prop :=
  (d.toNat < 96 → d.toNat + (f.width + 3) / 4 ≤ 96) ∧ lanes.Nodup

/-- An operation has completed: it is no longer in flight, its flag fell (R60), and of its group only registers,
predicates, that flag, and what waits for a header of it changed; no other group did. -/
structure Completes (s t : State) (op : Nat) (f : Flight) : Prop where
  gone : aget? t.flights op = none
  others : ∀ n, n ≠ op → (aget? t.flights n).isSome = (aget? s.flights n).isSome
  flag : ∀ m, Store.get (t.group f.gid).flags m =
    if f.flag = some m ∧ Store.get (s.group f.gid).flags m ≠ 0 then Store.get (s.group f.gid).flags m - 1
    else Store.get (s.group f.gid).flags m
  group : t.group f.gid = { s.group f.gid with
    v := (t.group f.gid).v, p := (t.group f.gid).p, sr := (t.group f.gid).sr, flags := (t.group f.gid).flags,
    pend := (t.group f.gid).pend }
  groups : ∀ g, g ≠ f.gid → t.group g = s.group g

/-- The atomic steps of some lanes on memory, in order: the values read, by lane, and memory after (R183 to R185). -/
def atomicRun (op : Nat) (ty : Ty) : List Piece → Memory → List (Nat × Nat) × Memory
  | [], m => ([], m)
  | p :: ps, m =>
    let old := ofBytes (readBytes m p.pa.addr p.w)
    let m' := match atomicNew op ty old p.b p.k with
      | some v => writeBytes m p.pa.addr (toBytes v p.w)
      | none => m
    let r := atomicRun op ty ps m'
    ((p.lane, old) :: r.1, r.2)

/-- A place of device memory that no cache holds in a way the home does not see: no update-only copy anywhere, no dirty
bytes in one core's line. -/
def CleanFor (s : State) (c : Nat) (pa : Nat) : Prop :=
  NoPartials s (lineOf pa) ∧ ∀ x, aget? (s.core c).l1 (lineOf pa) = some x → x.state ≠ .d

/-- An acquire by a core on a line pulls nothing and loses nothing: the record names no other core and no stale one
(R115). -/
def NothingToPull (s : State) (c line : Nat) : Prop :=
  ∀ x ∈ (s.hallmark line).pend, x.2.core = c ∧ x.2.inc = (s.core c).incarnation

/-- The bytes of an object or ring at its home or in its scratchpad. -/
def bytesAt (s : State) (p : Place) (n : Nat) : List Byte :=
  match p with
  | .glob a => readBytes s.mem a n
  | .pad t off => readBytes (s.team t).pad off n

/-- A barrier instruction's object passes its checks and nothing of the group or of the caches stands in the way
(R179, R192). -/
structure ObjReady (e : Env) (p pa : Place) (n : Nat) : Prop where
  check : e.objCheck p n = none
  phys : e.phys p = pa
  free : e.accessHeld = false
  idle : lineBusy e.s e.gid pa = false
  order : pa.apart e.s = true → syncOpen e.s e.gid = false
  quiet : Quiet e
  clean : ∀ a, pa = .glob a → CleanFor e.s e.core a
  team : ∀ t o, pa = .pad t o → (aget? e.s.teams t).isSome = true

/-- TRYCOMPLETE (R191): with every expected arrival and byte in, the next phase begins with ERR, ARR, BEXP and LANDED 0. -/
def completed (o : BarObj) : BarObj :=
  if o.exp ≠ 0 ∧ o.arr = o.exp ∧ o.landed = o.bexp then ⟨(o.phase + 1) % 2 ^ 32, o.exp, false, 0, 0, 0⟩ else o

/-- Phase `p` has passed at phase `q` (R196). -/
def Passed (q p : Nat) : Prop := (q + 2 ^ 32 - p) % 2 ^ 32 ≠ 0 ∧ (q + 2 ^ 32 - p) % 2 ^ 32 < 2 ^ 31

/-- No launch waits for a dependence, no MMAT for a trigger: a phase's completion passes none (R272, R341). -/
def NothingWaits (s : State) : Prop :=
  (∀ l ∈ s.launches, l.2.deps = []) ∧ ∀ c ∈ s.clusters, ∀ r ∈ c.2.table, r.trigger = none

/-! ## Ports -/

/-- The earlier ready stamp, then the lower slot, then the lower quad (R21, R22). -/
def Older (y z : Gang) : Prop :=
  y.stamp < z.stamp ∨ (y.stamp = z.stamp ∧ (y.slot < z.slot ∨ (y.slot = z.slot ∧ y.low < z.low)))

/-- Steps 2 to 5 of R21: an urgent group's gang first, then the older one. -/
def Prefers (s : State) (y z : Gang) : Prop :=
  (isUrgent s y.gid = true ∧ isUrgent s z.gid = false) ∨ (isUrgent s y.gid = isUrgent s z.gid ∧ Older y z)

/-- A gang's rotation key: its GROUPID, then its lowest quad (R279). -/
def rotationKey (s : State) (y : Gang) : Nat := (s.group y.gid).idx * 32 + y.low

/-- Of the ready gangs of `x`'s team, `y` has the key that comes next after that of the team's gang issued last on the port,
cyclically and ascending (R279). -/
def RotatesTo (s : State) (port : Nat) (gs : List Gang) (x y : Gang) : Prop :=
  let team := fun (z : Gang) => (s.group z.gid).team
  let rank := fun (z : Gang) => match aget? (s.team (team x)).rotation port with
    | none => rotationKey s z
    | some last => if last < rotationKey s z then rotationKey s z else rotationKey s z + 1024
  y ∈ gs ∧ team y = team x ∧ ∀ z ∈ gs, team z = team x → z ≠ y → rank y < rank z

/-- The gang a port issues: the preferred one, of a DET team the one its rotation puts in its place, unless the stamp of
either exceeds another ready gang's by more than 64; then the oldest (R21, R22, R279). -/
def Chosen (s : State) (port : Nat) (gs : List Gang) (y : Gang) : Prop :=
  y ∈ gs ∧ ∃ x ∈ gs, (∀ z ∈ gs, z ≠ x → Prefers s x z) ∧ ∃ x' ∈ gs,
    (if (s.launch (s.team (s.group x.gid).team).launch).det = true then RotatesTo s port gs x x' else x' = x) ∧
    if ∀ z ∈ gs, x.stamp ≤ z.stamp + 64 ∧ x'.stamp ≤ z.stamp + 64 then y = x' else ∀ z ∈ gs, z ≠ y → Older y z

/-- Only the issue of one port of one core changed, and one group. -/
structure PortOnly (s t : State) (core port gid : Nat) : Prop where
  machine : t = { s with cores := t.cores, groups := t.groups }
  others : ∀ c, c ≠ core → t.core c = s.core c
  here : t.core core = { s.core core with ports := (t.core core).ports }
  ports : ∀ p, p ≠ port → (t.core core).port p = (s.core core).port p
  count : ((t.core core).port port).count = ((s.core core).port port).count
  groups : ∀ g, g ≠ gid → t.group g = s.group g

/-! ## Launches -/

/-- One event of a context waits for its partition's function, and none of another function (R371, R372). -/
def Posted (s t : State) (ctx type data : Nat) : Prop :=
  let f := (s.part (partOf ctx)).func
  t.func f = { s.func f with waiting := (s.func f).waiting ++ [⟨type, 0, ctx % 1024, 0, data⟩] } ∧
  ∀ g, g ≠ f → t.func g = s.func g

/-- An instruction whose answer is written when its operation completes: the operation is in flight with its flag marked,
and the instruction has retired; no register, and no other operation, changed. -/
structure Answers (e : Env) (t : State) (id : Nat) (f : Flight) : Prop where
  flight : aget? t.flights id = some f
  others : ∀ n, n ≠ id → aget? t.flights n = aget? e.s.flights n
  flags : ∀ n, Store.get (t.group e.gid).flags n = Store.get e.g.flags n + if f.flag = some n then 1 else 0
  group : t.group e.gid = { e.g with
    flags := (t.group e.gid).flags, lclk := (t.group e.gid).lclk, retired := (t.group e.gid).retired,
    quads := (t.group e.gid).quads }
  groups : ∀ g, g ≠ e.gid → t.group g = e.s.group g
  counted : Counted e e.g (t.group e.gid)
  moves : MovesOn e t

/-- A record was refused with a reason (R339, R372). -/
def Refused (s t : State) (ctx reason : Nat) (byLnch : Bool) : Prop :=
  t.launches = s.launches ∧ Posted s t ctx 3 (reason * 2 ^ 32 + (if byLnch then 2 ^ 40 else 0))

/-- The dependences an extension block names: object and phase (R336, R341). -/
def depsOf (x : List Byte) : List (Nat × Word) :=
  [(recField x 63 0, BitVec.ofNat 32 (recField x 95 64)), (recField x 191 128, BitVec.ofNat 32 (recField x 127 96))].filter
    (fun d => d.1 != 0)

/-- The state in which an admitted record's dependences are tested: the status block holds its LAUNCHID, and its hint table
is read (R94, R339, R346). -/
def admitted (s : State) (ctx : Nat) (x : List Byte) (id : Word) : State :=
  (takeHints (statusSet (s.setCtx ctx { s.ctx ctx with lastid := id }) ctx 0 id.toNat) ctx (recField x 319 256)).2

/-- The object at a virtual address of a context, at its home. -/
def objectOf (s : State) (ctx va : Nat) : BarObj :=
  match physOf s ctx (.glob va) with
  | some p => parseBar (bytesAt s p 16)
  | none => ⟨0, 0, false, 0, 0, 0⟩

/-- The objects a record's dependences name are readable at their homes, and no core has yet to be pulled for them. -/
def DepsReady (w : State) (ctx : Nat) (x : List Byte) : Prop :=
  ∀ d ∈ depsOf x, ∃ l pa, walk w ctx d.1 = .ok l ∧ l.r = true ∧ l.place w ctx d.1 = some pa ∧
    (w.hallmark (lineOf pa)).pend = [] ∧ NoPartials w (lineOf pa)

/-- The hints a launch takes from its table: none when its report area fails its check (R333); an entry with a nonzero
reserved field, or one that overlaps an earlier one, is dropped (R94; log 53). -/
def HintsTaken (s : State) (ctx va : Nat) (hints : List HintUse) : Prop :=
  let report := checkSpan s noCore ctx false .write noRegion 16 (va + 256) 272
  (va = 0 ∨ report ≠ none → hints = []) ∧
  ∀ bs u, va ≠ 0 → report = none → readCtx s ctx va 16 = some (bs, u) →
    let field := fun (i hi lo : Nat) => bits (ofBytes ((bs.drop (16 * i)).take 16)) hi lo
    let first := fun (i : Nat) => field i 48 12 * 4096
    let past := fun (i : Nat) => first i + field i 95 64 * 4096
    let meets := fun (i j : Nat) => field i 97 96 ≠ 0 ∧ field j 97 96 ≠ 0 ∧ first i < past j ∧ first j < past i
    hints.length = 16 ∧ ∀ i, i < 16 → ∃ h, hints[i]? = some h ∧ h = {
      cls := field i 97 96, pages := field i 95 64, base := first i, dropped := h.dropped } ∧
      (h.dropped = true ↔ field i 127 98 ≠ 0 ∨ field i 63 49 ≠ 0 ∨ field i 11 0 ≠ 0 ∨ ∃ j, j < i ∧ meets i j)

/-- A record entered its queue: LAUNCHIDs advance by one, skipping 0 and those of live launches (R339). The launch waits
for the dependences that have not passed; one passed by force cancels it (R341). -/
def Queued (s t : State) (ctx : Nat) (r x : List Byte) (key : Nat) (id : Word) : Prop :=
  let next := (s.ctx ctx).lastid + 1
  let w := admitted s ctx x id
  let obj := fun (d : Nat × Word) => objectOf w ctx d.1
  id ≠ 0 ∧ (t.ctx ctx).lastid = id ∧
  (next ≠ 0 → (∀ l ∈ s.launches, l.2.ctx = ctx → l.2.id ≠ next) → id = next) ∧
  (∀ n, n ≠ key → aget? t.launches n = aget? s.launches n) ∧
  (DepsReady w ctx x →
    let forced := ∃ d ∈ depsOf x, (obj d).err = true ∧ (obj d).phase = (d.2.toNat + 1) % 2 ^ 32
    (¬ forced → (∃ deps hints,
      aget? t.launches key = some { ctx, id, record := r, ext := x, age := key, deps, hints } ∧
      (∀ d, d ∈ deps ↔ d ∈ depsOf x ∧ ¬ Passed (obj d).phase d.2.toNat) ∧
      HintsTaken (statusSet (s.setCtx ctx { s.ctx ctx with lastid := id }) ctx 0 id.toNat) ctx (recField x 319 256) hints) ∧
      ∀ f, t.func f = s.func f) ∧
    (forced → aget? t.launches key = none ∧ Posted s t ctx 4 id.toNat))

/-- The identifier a new record takes: the next one, skipping 0 and those the host has yet to answer (R372). -/
def NamesNext (last : Word) (used : List Word) (name : Word) : Prop :=
  ∃ k : Nat, k < used.length + 2 ∧ name = last + BitVec.ofNat 32 (k + 1) ∧ name ≠ 0 ∧ name ∉ used ∧
    ∀ j, j < k → last + BitVec.ofNat 32 (j + 1) = 0 ∨ last + BitVec.ofNat 32 (j + 1) ∈ used

/-- A record waits for the host's approval (R315), under an identifier that names no other one unanswered (R372). -/
def HeldBack (s t : State) (ctx : Nat) (r x : List Byte) (flight : Option Nat) : Prop :=
  ∃ hid, ((s.ctx ctx).held.length + 2 < 2 ^ 32 →
      NamesNext (s.ctx ctx).hid ((s.ctx ctx).held.map (fun h => h.hid)) hid) ∧
    t.launches = s.launches ∧ (t.ctx ctx).hid = hid ∧
    (t.ctx ctx).held = (s.ctx ctx).held ++ [⟨hid, r, x, flight⟩] ∧
    Posted s t ctx 7 (hid.toNat + recField r 319 317 * 2 ^ 32 + (if flight.isSome then 2 ^ 35 else 0))

/-- A virtual address of a context leads to a place, and does so whatever some spans of memory hold. -/
def MapsFirm (s : State) (ctx va pa : Nat) (write : Bool) (spans : List (Nat × Nat)) : Prop :=
  ∀ u : State, u.parts = s.parts → u.ctxs = s.ctxs → u.links = s.links → (∀ line, NoPartials u line) →
    (∀ k ∈ u.poison, k ∈ s.poison) →
    (∀ x, (∀ z ∈ spans, x < z.1 ∨ z.1 + z.2 ≤ x) → Store.get u.mem x = Store.get s.mem x) →
    ∃ l, walk u ctx va = .ok l ∧ (write = true → l.w = true) ∧ l.place u ctx va = some pa

/-- A hint's miss ratio lies in its class's band (R95). -/
def inBand (h : HintUse) : Bool :=
  let ratio : ℚ := h.misses / (4 * h.accesses)
  match h.cls with
  | 1 => decide (1 / 2 < ratio)
  | 2 => decide (1 / 64 ≤ ratio ∧ ratio ≤ 1 / 2)
  | _ => decide (ratio < 1 / 64)

/-- The hint report, as the numbers of its 16-byte parts: the header, then the dropped and the contradicted entries, in
ascending index, the last check among their checks (R95, R334). -/
def reportOf (l : Launch) : List Nat :=
  let hint := fun (i : Nat) => l.hints.getD i {}
  let contradicted := fun (i : Nat) => (hint i).contradicted || ((hint i).accesses != 0 && !inBand (hint i))
  let named := (List.range l.hints.length).filter (fun i => (hint i).dropped || ((hint i).cls != 0 && contradicted i))
  (named.length + l.id.toNat * 2 ^ 32) :: named.map (fun i => i + (hint i).cls * 16 +
    if (hint i).dropped then 2 * 2 ^ 6
    else 2 ^ 6 + min (hint i).accesses (2 ^ 32 - 1) * 2 ^ 64 + min (hint i).misses (2 ^ 32 - 1) * 2 ^ 96)

/-! ## Fatal errors -/

/-- A context met its first fatal error: it is killed, or stopped under TRIAGE, none of its launches and operations is left,
and the host is told the cause and the record's flags (R312, R313, R315, R372, R382); only a kill is logged (R374). -/
def Killed (s t : State) (ctx cause flags : Nat) (triage : Bool) : Prop :=
  (t.ctx ctx).erred = true ∧ (t.ctx ctx).state = (if triage then .stopped else .killed) ∧
  (∀ l ∈ t.launches, l.2.ctx ≠ ctx) ∧ (∀ f ∈ t.flights, f.2.ctx ≠ ctx) ∧
  Posted s t ctx 5 (cause + (flags + (if triage then 0 else 4)) * 2 ^ 8 + (s.ctx ctx).err % 2 ^ 49 * 2 ^ 64) ∧
  (triage = true → t.iluic = s.iluic) ∧
  (triage = false → ∃ e, t.iluic.log.getLast? = some e ∧ e.kind = 5 ∧ e.unit = 7 ∧ e.part = partOf ctx ∧ e.ctx = ctx % 1024)

/-- The partition's TRIAGE bit (R314). -/
def triageOf (s : State) (ctx : Nat) : Bool := (s.part (partOf ctx)).split.getLsbD 3

/-- A core holds no dirty line and no update-only copy. -/
def Written (t : State) (c : Nat) : Prop :=
  ∀ line x, aget? (t.core c).l1 line = some x → x.state ≠ .d ∧ x.state ≠ .u

/-- No operation, command or request of a context is in flight. -/
def NothingOut (s : State) (ctx : Nat) : Prop :=
  (∀ f ∈ s.flights, f.2.ctx ≠ ctx) ∧
  (∀ c, (∀ x ∈ (s.core c).swageQueue, x.ctx ≠ ctx) ∧ (∀ x ∈ (s.core c).swage, x.2.ctx ≠ ctx) ∧
    (∀ x ∈ (s.core c).crucible, x.ctx ≠ ctx) ∧ ∀ x ∈ (s.core c).drains, x.2.ctx ≠ ctx) ∧
  ∀ c, ∀ r ∈ (s.cluster c).table, r.ctx ≠ ctx

/-! ## Regions -/

/-- Two spans of bytes share none. -/
def Apart (a n b m : Nat) : Prop := a + n ≤ b ∨ b + m ≤ a

/-- The places of a region's leaf and of an entry of its shadow (R202, R204). -/
def leafAt (r : Region) (i : Nat) : Nat := spanAt r.leaves (r.leafBytes * i)
def entryAt (r : Region) (k j : Nat) : Nat := spanAt r.shadow (r.off k j)

/-- A region as ADECL takes it: 2^4 to 2^30 leaves of a kind of R201; no two of its leaves and entries, padding ones
among them, share a byte. -/
structure RegionPlaced (r : Region) : Prop where
  size : 4 ≤ r.log2n ∧ r.log2n ≤ 30 ∧ r.kindNo ≤ 3 ∧ r.ty ∈ [.i32, .n32, .i64, .f32, .fx64]
  found : ∀ i, i < r.n → spanOff r.leaves (leafAt r i) = some (r.leafBytes * i)
  leaves : ∀ i j, i < r.n → j < r.n → i ≠ j → Apart (leafAt r i) r.leafBytes (leafAt r j) r.leafBytes
  entries : ∀ k j k' j', (1 ≤ k ∧ k ≤ r.levels ∧ j < max (r.count k) 4) → (1 ≤ k' ∧ k' ≤ r.levels ∧ j' < max (r.count k') 4) →
    (k, j) ≠ (k', j') → Apart (entryAt r k j) r.entryBytes (entryAt r k' j') r.entryBytes
  both : ∀ i k j, i < r.n → 1 ≤ k → k ≤ r.levels → j < max (r.count k) 4 →
    Apart (leafAt r i) r.leafBytes (entryAt r k j) r.entryBytes

/-- A place outside a region's leaves and shadow entries. -/
def OutsideRegion (r : Region) (a : Nat) : Prop :=
  (∀ i, i < r.n → a < leafAt r i ∨ leafAt r i + r.leafBytes ≤ a) ∧
  ∀ k j, 1 ≤ k → k ≤ r.levels → j < max (r.count k) 4 → a < entryAt r k j ∨ entryAt r k j + r.entryBytes ≤ a

/-- The contributions of the leaves from `lo` to below `hi` (R202). -/
def contribs (s : State) (r : Region) (lo hi : Nat) : List Int :=
  (List.range (hi - lo)).map (fun i =>
    (r.contribution (ofBytes (readBytes s.mem (leafAt r (lo + i)) r.leafBytes))).1)

/-- A number is the largest, or the smallest, of some. -/
def IsMax (vs : List Int) (m : Int) : Prop := m ∈ vs ∧ ∀ v ∈ vs, v ≤ m
def IsMin (vs : List Int) (m : Int) : Prop := m ∈ vs ∧ ∀ v ∈ vs, m ≤ v

/-- CLAMP (R205). -/
def clamped (x : Int) : Int := max (-(2 ^ 63 - 1)) (min (2 ^ 63 - 1) x)

/-- The bytes of an entry over leaves of some contributions (R204, R205). -/
def EntryHolds (r : Region) (vs : List Int) (bs : List Byte) : Prop :=
  let val := fun (x : List Byte) => sgn 64 (ofBytes x)
  match r.kindNo with
  | 0 => val bs = clamped vs.sum
  | 1 => IsMax vs (val bs)
  | 2 => IsMin vs (val bs)
  | _ => val (bs.take 8) = clamped vs.sum ∧ IsMax vs (val (bs.drop 8))

/-- The leaves an entry covers, through the levels below it (R203). -/
def coverOf (r : Region) (k j : Nat) : Nat × Nat := (j * 4 ^ k, min ((j + 1) * 4 ^ k) r.n)

/-- Every entry of a region's tree holds what R205 says of its leaves. -/
def TreeOk (s : State) (r : Region) : Prop :=
  ∀ k j, 1 ≤ k → k ≤ r.levels → j < r.count k →
    EntryHolds r (contribs s r (coverOf r k j).1 (coverOf r k j).2) (readBytes s.mem (entryAt r k j) r.entryBytes)

/-- No sum over a range of leaves reaches CLAMP's bounds. -/
def Unclamped (s : State) (r : Region) : Prop :=
  ∀ lo hi, lo ≤ hi → hi ≤ r.n → |(contribs s r lo hi).sum| < 2 ^ 63 - 1

/-- A leaf's bits after a leaf step (R208). -/
def leafAfter (r : Region) (red : Bool) (old b : Nat) : Nat :=
  if !red then b
  else match r.ty with
    | .i32 | .n32 => (old + b) % 2 ^ 32
    | .f32 => combine 0 .f32 old b
    | _ => wrapN 64 (clamped (sgn 64 old + sgn 64 b))

/-- The leaves' bits after the steps of some lanes, in order (R209). -/
def leafRun (r : Region) (red : Bool) : List Piece → (Nat → Nat) → Nat → Nat
  | [], m => m
  | p :: ps, m => leafRun r red ps (fun i => if p.pa = .glob (leafAt r i) then leafAfter r red (m i) p.b else m i)

/-- Predicates of a destination landed by lane, unless a later write overtook them; every other predicate is as it
was (R61). -/
def PredLands (s t : State) (f : Flight) (pd : PredCode) (preds : List (Nat × Bool)) : Prop :=
  let key := fun (l : Nat) => 2 ^ 14 + 16 * l + pd.toNat
  (pd.toNat < 12 → ∀ l b, (l, b) ∈ preds → key l ∉ f.skip → readPred (t.group f.gid) l pd = b) ∧
  ∀ l q, (12 ≤ pd.toNat ∨ q ≠ pd ∨ key l ∈ f.skip ∨ ∀ b, (l, b) ∉ preds) →
    readPred (t.group f.gid) l q = readPred (s.group f.gid) l q

/-- What a range query returns for the contributions it covers, not none: their exact sum or an extreme one; over F32
leaves rounded, unless a sum is asked for raw (R215, R216). -/
def RangeHolds (r : Region) (fn : Nat) (fx : Bool) (vs : List Int) (v : Nat) : Prop :=
  ∃ x : Int, (fn = 0 → x = vs.sum) ∧ (fn = 1 → IsMax vs x) ∧ (fn = 2 → IsMin vs x) ∧
    if r.ty = .f32 ∧ ¬ (fn = 0 ∧ fx = true) then Rounds .f32 .rne (.num (decide (x < 0)) (x * 2 ^ r.q)) v
    else v = wrapN 64 x

/-- What a range query over no leaf returns (R216). -/
def emptyOf (ty : Ty) (fn : Nat) : Nat :=
  if fn = 0 then 0
  else if fn = 1 then
    if ty = .i32 then 0xFFFFFFFF80000000 else if ty = .n32 then 0 else if ty = .f32 then 0xFF800000 else 2 ^ 63
  else if ty = .i32 then 0x7FFFFFFF else if ty = .n32 then 0xFFFFFFFF else if ty = .f32 then 0x7F800000 else 2 ^ 63 - 1

/-- What a descent returns: the number of leaves and false when the target is not below the total; else a leaf and true,
over non-negative contributions the first whose prefix sum exceeds the target (R217). -/
def DescendHolds (s : State) (r : Region) (target : Int) (out : Nat × Bool) : Prop :=
  if (contribs s r 0 r.n).sum ≤ target then out = (r.n, false)
  else out.2 = true ∧ out.1 < r.n ∧
    ((∀ v ∈ contribs s r 0 r.n, 0 ≤ v) → 0 ≤ target →
      (contribs s r 0 out.1).sum ≤ target ∧ target < (contribs s r 0 (out.1 + 1)).sum)

/-! ## Crucible tables -/

/-- HOME (R224). -/
def homeOf (t : Table) (k : Nat) : Nat :=
  (if t.layout < 2 then k else (k % 2 ^ 32) ^^^ (k / 2 ^ 32 % 2 ^ 32 * 0x85EBCA77 % 2 ^ 32)) * 0x9E3779B1 % 2 ^ 32 /
    2 ^ (32 - t.b)

/-- WINDOW: the slots of four buckets from the home bucket on (R222, R224). -/
def windowOf (t : Table) (k : Nat) : List Nat :=
  (List.range (4 * t.perBucket)).map (fun n =>
    t.base + 64 * ((homeOf t k + n / t.perBucket) % 2 ^ t.b) + t.slotBytes * (n % t.perBucket))

/-- The first of a list's members that have a property. -/
def FirstIn (xs : List Nat) (P : Nat → Prop) (x : Nat) : Prop :=
  ∃ n : Nat, xs[n]? = some x ∧ P x ∧ ∀ (m : Nat) y, m < n → xs[m]? = some y → ¬ P y

/-- A claim record keeps R221 and R223. -/
def ClaimWellFormed (w : Nat → Word) : Prop :=
  (∃ q vty op full lay b, (w 0).toNat = q * 2 ^ 24 + vty * 2 ^ 19 + op * 2 ^ 16 + full * 2 ^ 15 + lay * 2 ^ 10 + b * 2 ^ 6 ∧
    q < 256 ∧ (q = 0 ∨ vty = 26) ∧ op ≤ 5 ∧ full < 2 ∧ lay < 4 ∧ 4 ≤ b ∧ b ≤ 13 ∧
    vty ∈ (if lay % 2 = 0 then [3, 7, 17] else [4, 8, 26]) ∧ (op = 3 → vty ≠ 17)) ∧
  (w 1).toNat < 2 ^ 20 ∧ (w 1).toNat % 64 = 0 ∧ (w 2).toNat + (w 3).toNat * 2 ^ 32 < 2 ^ 49

/-- The bytes of a team's scratchpad from `off` on are some, and every other byte of it is as it was. -/
def PadPut (s t : State) (team off : Nat) (bs : List Byte) : Prop :=
  readBytes (t.team team).pad off bs.length = bs ∧
  ∀ x, x < off ∨ off + bs.length ≤ x → Store.get (t.team team).pad x = Store.get (s.team team).pad x

/-- The drain's records: one for each key of a live slot or a spilled record, keys ascending, the values of a key merged in
order, the slot's first (R235). -/
def DrainHolds (t : Table) (pad : Store 8) (spilled recs : List (Nat × Nat)) : Prop :=
  let live := fun (o : Nat) => o ∈ t.slots ∧ t.keyAt pad o ≠ t.empty ∧ t.keyAt pad o ≠ t.tomb
  recs.Pairwise (fun (x y : Nat × Nat) => x.1 < y.1) ∧
  (∀ k, (∃ m, (k, m) ∈ recs) ↔ (∃ o, live o ∧ t.keyAt pad o = k) ∨ ∃ v, (k, v) ∈ spilled) ∧
  ∀ k m, (k, m) ∈ recs →
    let later := (spilled.filter (fun x => x.1 == k)).map Prod.snd
    ((∀ o, live o → t.keyAt pad o ≠ k) → ∃ v vs, later = v :: vs ∧ m = vs.foldl (comb t) v) ∧
    ∀ o, live o → t.keyAt pad o = k → (∀ o', live o' → t.keyAt pad o' = k → o' = o) →
      m = later.foldl (comb t) (t.valAt pad o)

/-! ## Handles and copies -/

/-- A token passes R101: it carries the team's check value, and its slot is valid at the generation it names. -/
def TokenNames (t : Team) (tok : Word) (slot : Nat) (desc : List Byte) : Prop :=
  slot = tok.toNat % 16 ∧ tok.toNat / 2 ^ 16 = t.check.toNat ∧ (t.handle slot).valid = true ∧
  tok.toNat / 16 % 2 ^ 12 = (t.handle slot).gen.toNat ∧ (t.handle slot).desc = desc

/-- The address or offset of an element of a handle, rank and extents as R97 and R244 have them; none out of bounds. -/
def addrOf (h : List Byte) (i : List Nat) : Option Nat :=
  let word := fun (n : Nat) => ofBytes ((h.drop (4 * n)).take 4)
  let rank := word 0 / 2 ^ 16 % 4 + 1
  let inside := (List.range 4).all (fun k => decide (i.getD k 0 < if k < rank then word (4 + k) else 1))
  if inside then
    some (word 2 + 2 ^ 32 * word 3 + i.getD 0 0 * dBits h / 8 + i.getD 1 0 * word 8 + i.getD 2 0 * word 9 + i.getD 3 0 * word 10)
  else none

/-- A unit of a plan copies element `i` of one handle from element `j` of another, as zero out of the source's bounds. -/
def CopiesElem (d src : List Byte) (i j : List Nat) (u : Planned) : Prop :=
  u.dst = addrOf d i ∧ u.half = none ∧ u.src = match addrOf src j with
    | some a => .at (.glob a)
    | none => .zero

/-- The first indices of a handle's units in one dimension: every element, or every other one of 4 bits. -/
def FirstOfUnit (d : List Byte) (n i : Nat) : Prop := i < n ∧ (dBits d = 4 → i % 2 = 0)

/-- The value a copied unit takes from memory as it stands (R99, R246). -/
def sourceValue (s : State) (x : SwageCmd) (u : CopyUnit) : Nat :=
  let get := fun (p : Place) (n : Nat) => ofBytes (bytesAt s p n)
  match u.src with
  | .zero => 0
  | .at p => get p u.n
  | .csr r i =>
    let word := fun (n : Nat) => ofBytes ((x.snapS.drop (4 * n)).take 4)
    let w := dBits x.snapS
    let p := get (x.arrayAt x.rptr (4 * r)) 4 + i
    let col := get (x.arrayAt x.cidx (4 * p)) 4
    if word 4 ≤ r ∨ get (x.arrayAt x.rptr (4 * r + 4)) 4 ≤ p ∨ word 6 ≤ p ∨ word 5 ≤ col then 0xFFFFFFFF
    else
      let v := get (x.arrayAt x.val (p * w / 8)) (dBytes x.snapS)
      col + (if w = 4 then v / 16 ^ (p % 2) % 16 else v) * 2 ^ 32

/-- The bytes a unit leaves at its destination: its value, added to what stands there under RADD, or one half of a byte. -/
def unitBytes (s : State) (x : SwageCmd) (u : CopyUnit) : List Byte :=
  let v := sourceValue s x u
  let old := ofBytes (bytesAt s u.dst u.n)
  if x.fn = 5 ∧ x.w2.getLsbD 1 = true then toBytes (combine 0 (dTy x.snapD) old v) u.n
  else match u.half with
    | none => toBytes v u.n
    | some (hs, hd) =>
      let nib := (if hs then v / 16 else v) % 16
      toBytes (if hd then old % 16 + 16 * nib else old / 16 * 16 + nib) 1

/-- A place that an engine of a core reads and writes without a cache in between, and outside the declared regions. -/
def PlainPlace (s : State) (p : Place) (n : Nat) : Prop :=
  (∀ a, p = .glob a → a % 256 + n ≤ 256 ∧ s.isPoisoned a = false ∧ noRegion (regionHit s a) = true ∧
    ∀ c ∈ s.cores, aget? c.2.l1 (lineOf a) = none) ∧
  ∀ m a, p = .pad m a → (aget? s.teams m).isSome = true ∧ (s.team m).padBad a n = false

/-- A core holds an update-only copy of a place with one partial gathered there: an operation's identity combined with a
value (R118). -/
def Gathered (t : State) (core pa : Nat) (k : RedKind) (v : Nat) : Prop :=
  let x := (t.core core).line (lineOf pa)
  x.state = .u ∧ x.red = some k ∧ pa % 256 ∈ x.held ∧
    Store.get x.partials (pa % 256) = BitVec.ofNat 64 (combine k.op k.ty (identityOf k) v)

/-- The places a unit reads, with how many bytes of each. -/
def readsOf (s : State) (x : SwageCmd) (u : CopyUnit) : List (Place × Nat) :=
  let get := fun (p : Place) => ofBytes (bytesAt s p 4)
  match u.src with
  | .zero => []
  | .at p => [(p, u.n)]
  | .csr r i =>
    let word := fun (n : Nat) => ofBytes ((x.snapS.drop (4 * n)).take 4)
    let lo := x.arrayAt x.rptr (4 * r)
    let hi := x.arrayAt x.rptr (4 * r + 4)
    let p := get lo + i
    let col := x.arrayAt x.cidx (4 * p)
    if word 4 ≤ r then []
    else if get hi ≤ p ∨ word 6 ≤ p then [(lo, 4), (hi, 4)]
    else if word 5 ≤ get col then [(lo, 4), (hi, 4), (col, 4)]
    else [(lo, 4), (hi, 4), (col, 4), (x.arrayAt x.val (p * dBits x.snapS / 8), dBytes x.snapS)]

/-! ## Anvil -/

/-- A request but for the clock since which it is eligible. -/
def unclocked (r : Request) : Request := { r with since := none }

/-- An instruction entered requests into its cluster's table, each with a flight and a mark of its flag, and retired; no
register, byte of memory or team changed. -/
structure Enters (e : Env) (t : State) (c : Ctl) (rs : List Request) : Prop where
  table : (t.cluster (e.core / 4)).table.map unclocked = (e.s.cluster (e.core / 4)).table.map unclocked ++
    rs.mapIdx (fun n r => { r with id := e.s.nextId + n, flight := e.s.nextId + n })
  running : (t.cluster (e.core / 4)).running = (e.s.cluster (e.core / 4)).running
  flights : ∀ n, aget? t.flights n =
    if e.s.nextId ≤ n ∧ n < e.s.nextId + rs.length then
      (rs[n - e.s.nextId]?).map (fun r => { e.flight .anvil c with origin := r.origin })
    else aget? e.s.flights n
  flags : ∀ n, Store.get (t.group e.gid).flags n =
    Store.get e.g.flags n + if e.is.flag c.fs = some n then BitVec.ofNat 6 rs.length else 0
  group : t.group e.gid = { e.g with
    flags := (t.group e.gid).flags, lclk := (t.group e.gid).lclk, retired := (t.group e.gid).retired,
    quads := (t.group e.gid).quads }
  groups : ∀ g, g ≠ e.gid → t.group g = e.s.group g
  mem : t.mem = e.s.mem
  teams : ∀ m, t.team m = { e.s.team m with rotation := (t.team m).rotation }
  counted : Counted e e.g (t.group e.gid)
  moves : MovesOn e t

/-- A request has left a cluster's table: its flag fell for it, and the flags it raised are in its group's STICKY (R80,
R256); of the group nothing else changed. -/
structure LeftTable (s t : State) (cl : Nat) (r : Request) (f : Flight) (ovf inv : Bool) : Prop where
  table : (t.cluster cl).table.map unclocked = ((s.cluster cl).table.filter (fun x => x.id != r.id)).map unclocked
  idle : ∀ u, (t.cluster cl).running = some u → u.req ≠ r.id
  flight : aget? t.flights r.flight = none
  flags : ∀ m, Store.get (t.group r.gid).flags m =
    if f.flag = some m ∧ Store.get (s.group r.gid).flags m ≠ 0 then Store.get (s.group r.gid).flags m - 1
    else Store.get (s.group r.gid).flags m
  group : t.group r.gid = { stickyOr (s.group r.gid) { ovf, inv } with flags := (t.group r.gid).flags }
  groups : ∀ g, g ≠ r.gid → t.group g = s.group g

/-- A request stands in its table as any does that no abort concerns, and its flight names its group. -/
structure Queues (s : State) (cl : Nat) (r : Request) (f : Flight) : Prop where
  here : r ∈ (s.cluster cl).table
  unique : ((s.cluster cl).table.map (fun x => x.id)).Nodup
  flight : aget? s.flights r.flight = some f
  gid : f.gid = r.gid
  plain : r.revokers = [] ∧ r.suspended = false ∧ r.aborted = false
  alive : (aget? s.groups r.gid).isSome = true ∧ (aget? s.teams r.team).isSome = true

/-- Fields of a status word (R255). -/
def statusK (v : BitVec 128) : Nat := (v.extractLsb' 96 32).toNat
def statusPc (v : BitVec 128) : Nat := (v.extractLsb' 49 47).toNat
def statusCause (v : BitVec 128) : Nat := (v.extractLsb' 41 8).toNat
def statusFlt (v : BitVec 128) : Bool := v.getLsbD 40
def statusAbt (v : BitVec 128) : Bool := v.getLsbD 39

/-- Tiles of a mask that a team has mapped. -/
def mappedOf (t : Team) (m : Word) : List Nat :=
  (List.range 8).filter (fun i => m.getLsbD i && (t.tile i).mapped)

/-- The bytes an operand of a step is read through: the team's scratchpad, or global memory where its pages lie. -/
def operandReader (s : State) (r : Request) (h : List Byte) : Reader :=
  readerAt s r.core r.team (dSpace h) (streamPlace s r)

/-! ## Placement -/

/-- A unit of a launch may be placed: its context is live, with no pre-emption in progress, its dependences have passed, and
a unit is left (R340, R341, R347). -/
def Placeable (s : State) (part : Nat) (l : Launch) : Prop :=
  partOf l.ctx = part ∧ (s.ctx l.ctx).state = .live ∧ (s.ctx l.ctx).stopping = none ∧ l.deps = [] ∧
  l.next < recField l.record 351 320 + 1

/-- Placement order of two launches: the higher PRIO, then the older (R343). -/
def Before (l m : Launch) : Prop := m.prio < l.prio ∨ (m.prio = l.prio ∧ l.age < m.age)

/-- Where a unit of `n` teams may go: a core, or for a gang a cluster's first, of the partition and in service (R342). -/
def SpotOk (s : State) (part n b : Nat) : Prop :=
  b < 128 ∧ (1 < n → b % 4 = 0) ∧
  ∀ i, i < n → (s.part part).clusters.getLsbD ((b + i) / 4) = true ∧ (s.core (b + i)).service = .inService

/-- Every core of a spot has room for a team of the launch: slots, registers and scratchpad (R342). -/
def RoomAt (s : State) (l : Launch) (n b : Nat) : Prop :=
  ∀ i, i < n → l.ngroups ≤ (roomOf s (b + i)).slots ∧ 512 * l.ngroups * l.vregs ≤ (roomOf s (b + i)).rf ∧
    l.padBytes ≤ (roomOf s (b + i)).pad

/-- Free residency slots of a spot. -/
def freeAt (s : State) (n b : Nat) : Nat := ((List.range n).map (fun i => (roomOf s (b + i)).slots)).sum

/-- R343's spot: among those with room the one with the most free residency slots, then the lowest. -/
def BestSpot (s : State) (part : Nat) (l : Launch) (n b : Nat) : Prop :=
  SpotOk s part n b ∧ RoomAt s l n b ∧
  ∀ c, SpotOk s part n c → RoomAt s l n c → freeAt s n c < freeAt s n b ∨ (freeAt s n c = freeAt s n b ∧ b ≤ c)

/-- A group at its start (R25): S0 to S7 from the record, every other register and predicate zero, the stack and flags
empty, the quads of its present lanes at the entry. -/
structure Started (l : Launch) (idx : Nat) (x : Group) : Prop where
  regs : ∀ lane r, readReg x lane r =
    if 96 ≤ r ∧ r < 104 then BitVec.ofNat 32 (recField l.record (32 * (r - 96) + 31) (32 * (r - 96))) else 0
  preds : ∀ lane p, readPred x lane p = decide (p = 15)
  quads : ∀ q, q < 32 → aget? x.quads q = some (if 4 * q + 128 * idx < l.nlanes then
    { kind := .header, pc := BitVec.ofNat 49 (recField l.record 304 256), mask := 0xF } else {})
  rest : x.sticky = BitVec.ofNat 32 (recField l.record 313 309 * 2 ^ 8) ∧
    x.seed = BitVec.ofNat 64 (recField l.record 447 384) ∧ x.lclk = 0 ∧ x.frame = {} ∧ x.flags = [] ∧ x.stop = none ∧
    x.park = false

/-- A suspension may be performed: the context is resident and stopped, and what it waits for has completed (R354). -/
def Suspendable (s : State) (ctx : Nat) : Prop :=
  (s.ctx ctx).state = .live ∧ suspending s ctx = true ∧ residents s ctx ≠ [] ∧ unfinished s ctx = false

/-! ## Errors and the host's side -/

/-- The module log took a new entry: its newest one, stamped with the time, from a unit at a site (R374). -/
def Logged (s t : State) (unit site kind : Nat) : Prop :=
  t.iluic.total = min (s.iluic.total + 1) (2 ^ 32 - 1) ∧
  ∃ e, t.iluic.log.getLast? = some e ∧ e.unit = unit ∧ e.site = site ∧ e.kind = kind ∧ e.time = s.nanos ∧ e.count = 1

/-- The same, for a unit of a context: the entry names it and its partition (R374). -/
def LoggedFor (s t : State) (unit site kind ctx : Nat) : Prop :=
  t.iluic.total = min (s.iluic.total + 1) (2 ^ 32 - 1) ∧
  ∃ e, t.iluic.log.getLast? = some e ∧ e.unit = unit ∧ e.site = site ∧ e.kind = kind ∧ e.time = s.nanos ∧ e.count = 1 ∧
    e.ctx = ctx % 1024 ∧ e.part = partOf ctx

/-- An event of the module waits for the physical function (R372). -/
def Notified (t : State) (type data : Nat) : Prop := (⟨type, 0, 0xFFFF, 0, data⟩ : HostEvent) ∈ (t.func 0).waiting

/-- Where a strike stands: the unit and site of its log entry (R374). -/
def strikeAt (s : State) (x : Strike) : Nat × Nat :=
  match x with
  | .hbm pa => (0, pa / 2 ^ 36)
  | .homeSlice pa => (1, homeCluster s pa)
  | .l1 core _ _ => (2, core / 4)
  | .scratchpad team _ => (3, (s.team team).core / 4)
  | .regFile core => (4, core / 4)
  | .tile team _ => (5, (s.team team).core / 4)
  | .apexNode stack _ => (6, stack)
  | .coreState core => (7, core / 4)
  | .anvilCtl cluster => (8, cluster)
  | .apexCtl stack => (8, stack)

/-- A context has a group on a core, or a store-origin entry in use there (R381). -/
def UsesCore (s : State) (core ctx : Nat) : Prop :=
  (∃ x ∈ s.groups, x.2.core = core ∧ ctxOf s x.2 = ctx) ∨ ∃ o ∈ (s.core core).origins, o.2.ctx = ctx

/-- The incarnation and service of a quarantined core (R381). -/
def afterQuarantine (inc : Nat) : Nat × Service := if 15 ≤ inc then (inc, .out) else (inc + 1, .testing)

/-- A core has been quarantined: it is reset with its incarnation advanced, or out of service; the contexts that used it
are killed, or stopped under TRIAGE; the sectors of its dirty bytes are poisoned (R125, R381). -/
structure Quarantined (s t : State) (core : Nat) : Prop where
  reset : t.core core = { incarnation := (afterQuarantine (s.core core).incarnation).1,
                          service := (afterQuarantine (s.core core).incarnation).2 }
  killed : ∀ ctx, UsesCore s core ctx → (s.ctx ctx).erred = false →
    (t.ctx ctx).erred = true ∧ (t.ctx ctx).state = (if triageOf s ctx then .stopped else .killed) ∧
    ∀ f ∈ t.flights, f.2.ctx ≠ ctx
  others : ∀ ctx, ¬ UsesCore s core ctx → t.ctx ctx = s.ctx ctx
  dirty : (∀ f ∈ s.flights, f.2.kind ≠ .through) → ∀ line x k, aget? (s.core core).l1 line = some x → x.state = .d → k < 4 →
    x.dirty.extractLsb' (64 * k) 64 ≠ 0 → 4 * line + k ∈ t.poison
  partials : (∀ ctx, ¬ UsesCore s core ctx) → ∀ line x k, aget? (s.core core).l1 line = some x → x.state = .u → k < 4 →
    4 * line + k ∈ t.poison
  notified : Notified t 0xB (core + (afterQuarantine (s.core core).incarnation).1 * 2 ^ 8 +
    if 15 ≤ (s.core core).incarnation then 2 ^ 12 else 0)

/-- A place lies in the peer window of a link (R378). -/
def InWindow (link : Nat) (p : Place) : Prop :=
  ∃ pa, p = .glob pa ∧ 2 ^ 65 + link * 2 ^ 45 ≤ pa ∧ pa < 2 ^ 65 + (link + 1) * 2 ^ 45

/-- Bytes have been written from an interleaved offset of device memory on, where it lies in a partition's extents; no
other byte and no copy in a cache changed (R118, R366). -/
def LandsInside (s t : State) (p : Part) (d : Nat) (bs : List Byte) : Prop :=
  t = { s with mem := t.mem, poison := t.poison } ∧
  (∀ i b, bs[i]? = some b → memInRange p 0 (d + i) = true → Store.get t.mem (devPlace (d + i)) = b) ∧
  ∀ a, (∀ i, i < bs.length → memInRange p 0 (d + i) = true → devPlace (d + i) ≠ a) →
    Store.get t.mem a = Store.get s.mem a

/-- A function's registers hold values of their widths (R370). -/
def RegsOk (f : Func) : Prop :=
  f.cqbase < 2 ^ 64 ∧ f.eqbase < 2 ^ 64 ∧ f.cqlog2 < 2 ^ 32 ∧ f.eqlog2 < 2 ^ 32 ∧ f.cqtail < 2 ^ 32 ∧ f.cqhead < 2 ^ 32 ∧
  f.eqhead < 2 ^ 32 ∧ f.eqtail < 2 ^ 32

/-- The module exposes a function: in recovery the physical one alone (R383). -/
def Exposed (s : State) (func : Nat) : Prop := func < 32 ∧ (s.iluic.recovery = true → func = 0) ∧ s.iluic.stopped = false

/-- Secure boot of stages in order: each accepted one extends MEAS by its digest, to the first refused one (R383). -/
inductive Boots : Iluic → List Nat → Iluic → Prop where
  | done {u : Iluic} : Boots u [] u
  | next {u w v : Iluic} {n : Nat} {ns : List Nat} : stageOk n (stageOf u n) = true →
      w.meas = Config.sha512 (u.meas ++ Config.sha512
        ((stageOf u n).image.take (64 + numAt (stageOf u n).image 4 4))) →
      w.stages = aset u.stages n { stageOf u n with svn := numAt (stageOf u n).image 2 2, booted := true } →
      w.recovery = u.recovery → Boots w ns v → Boots u (n :: ns) v
  | stop {u v : Iluic} {n : Nat} {ns : List Nat} : stageOk n (stageOf u n) = false → v.meas = u.meas → v.stages = u.stages →
      v.recovery = true → Boots u (n :: ns) v

/-! ## Host commands -/

/-- A command runs (R371, R373): a function that is not exposed takes none; it ends malformed, not permitted or refused by the
checks of every command, or on its partition as its own rule says; DONE tells its status and result. -/
def Commands (i : Instr) (h : Hdr) (op : Nat) (inRange : Prop) (s : State) (rel : Nat → Answer → Prop) : Prop :=
  let ends := fun (a : Answer) => exec i s = .next (a.2.2.setFunc h.func { a.2.2.func h.func with
    waiting := (a.2.2.func h.func).waiting ++ [⟨1, a.1, h.ctx, h.tag, op + a.2.1 * 2 ^ 32⟩] })
  let pf := op = 0x20 ∨ (0x22 ≤ op ∧ op ≤ 0x25)
  (¬ Exposed s h.func → exec i s = .next s) ∧
  (Exposed s h.func →
    (¬ inRange ∨ (h.func ≠ 0 ∧ h.part ≠ 0) ∨ 32 ≤ h.part → ends (2, 0, s)) ∧
    (inRange → (h.func = 0 ∨ h.part = 0) → h.part < 32 →
      (h.func ≠ 0 → pf ∨ partOfFunc s h.func = none → ends (3, 0, s)) ∧
      (s.iluic.recovery = true → op ≠ 0x22 → op ≠ 0x24 → ends (1, 0, s)) ∧
      ∀ p, (if h.func = 0 then p = h.part else ¬ pf ∧ partOfFunc s h.func = some p) →
        (s.iluic.recovery = true → op = 0x22 ∨ op = 0x24) → ∃ a, ends a ∧ rel p a))

/-- A command on a context: refused where its partition is not enabled, and its CTX is in range (R373). -/
def OnContext (h : Hdr) (s : State) (rel : Nat → Answer → Prop) (p : Nat) (a : Answer) : Prop :=
  ((s.part p).enabled = false → a = (1, 0, s)) ∧
  ((s.part p).enabled = true → (s.part p).nctx ≤ h.ctx → a = (if h.func = 0 then 2 else 3, 0, s)) ∧
  ((s.part p).enabled = true → (s.part p).nctx ≤ 1024 → h.ctx < (s.part p).nctx → rel (p * 1024 + h.ctx) a)

/-- A command on a live context. -/
def OnLive (h : Hdr) (s : State) (rel : Nat → Answer → Prop) : Nat → Answer → Prop :=
  OnContext h s (fun n a => ((s.ctx n).state ≠ .live → a = (1, 0, s)) ∧ ((s.ctx n).state = .live → rel n a))

/-- Interleaved device bytes lie in a partition's extents (R366, R369). -/
def DevInside (p : Part) (d n : Nat) : Prop := ∀ i, i < n → memInRange p 0 (d + i) = true

/-- A group is parked under a name (R319). -/
def NamedParked (s : State) (n : Nat) (g : GroupName) (x : Group) : Prop :=
  x.park = true ∧ ctxOf s x = n ∧ (s.launch (s.team x.team).launch).id.toNat = g.launch ∧ (s.team x.team).teamid = g.team ∧
  x.idx = g.group

/-- An ANSWER or a FRAME of a parked group: refused where none is parked under the name. -/
def OnParked (s : State) (g : GroupName) (rel : Nat → Nat → Group → Answer → Prop) (n : Nat) (a : Answer) : Prop :=
  ((∀ x ∈ s.groups, ¬ NamedParked s n g x.2) → a = (1, 0, s)) ∧
  ∀ gid x, aget? s.groups gid = some x → NamedParked s n g x → (∀ y ∈ s.groups, NamedParked s n g y.2 → y.1 = gid) →
    rel n gid x a

/-- A command leaves no translation of an ASID on any core. -/
def NoAsid (s : State) (asid : Nat) : Prop := ∀ k, ∀ x ∈ (s.core k).tlb, x.asid ≠ asid

/-- The device-written word of a context's table entry (R368). -/
def EntryWord (s u : State) (n v : Nat) : Prop :=
  readBytes u.mem (devPlace ((s.part (n / 1024)).ctxtab + 64 * (n % 1024))) 8 = toBytes v 8

/-- PSET refuses an entry (R367). -/
def PsetRefused (s : State) (n : Nat) (x : Part) (b : List Byte) : Prop :=
  let f := fun (hi lo : Nat) => bits (ofBytes b) hi lo
  let others := (s.parts.filter (fun e => e.1 != n && e.2.enabled)).map Prod.snd
  let cores := 4 * ((List.range 32).filter x.clusters.getLsbD).length
  (∃ r ∈ [(431, 384), (383, 382), (375, 374), (367, 366), (359, 358), (351, 350), (343, 342), (335, 334), (327, 326),
    (255, 234), (223, 176), (133, 128), (127, 112), (79, 64), (63, 43)], f r.1 r.2 ≠ 0) ∨
  (∃ y ∈ others, x.clusters &&& y.clusters ≠ 0 ∨ x.func = y.func ∨
    ∃ a ∈ x.ext, ∃ c ∈ y.ext, 0 < a.2 ∧ 0 < c.2 ∧ a.1 < c.1 + c.2 ∧ c.1 < a.1 + a.2) ∨
  (∃ a ∈ x.ext, 0 < a.2 ∧ 48 < a.1 + a.2) ∨
  (x.enabled = true ∧ ∃ i, i < 8 ∧ 256 < x.rquota.getD i 0 + (others.map (fun y => y.rquota.getD i 0)).sum) ∨
  ¬ DevInside x x.ctxtab (64 * x.nctx) ∨ ¬ DevInside x x.pstack (6 * 2 ^ 20 * cores) ∨
  ∃ c ∈ s.ctxs, c.1 / 1024 = n ∧ (c.2.state = .live ∨ (c.2.valid = true ∧ x.enabled = false))

/-- A port keeps an instruction that did not issue, and marks it held (R20): the mark is all it changes. -/
def marked (before after : State) (core port : Nat) : State :=
  match ((before.core core).port port).issue, ((after.core core).port port).issue with
  | some x, some y =>
    if x.gid = y.gid ∧ x.pc = y.pc ∧ x.rem = y.rem ∧ x.quads = y.quads then
      after.setCore core ((after.core core).setPort port { (after.core core).port port with issue := some { y with held := true } })
    else after
  | _, _ => after

/-- A turn has posted an event for which its function's queue has no room, those that wait before it counted (R371). -/
def Overfull (before after : State) : Prop :=
  ∃ n f, (n, f) ∈ after.funcs ∧ (before.func n).waiting.length < f.waiting.length ∧ 4 ≤ f.eqlog2 ∧ f.eqlog2 ≤ 12 ∧
    2 ^ f.eqlog2 < (f.eqtail + 2 ^ 32 - f.eqhead % 2 ^ 32) % 2 ^ 32 + f.waiting.length

/-- A step from `s`, whose turn is taken in `b`, ends as that turn does, but that one of the module's own units waits, in
`held`, where it would post an event to a full queue (R371; log 92). -/
def Ends (s b held : State) (inside : Bool) (o : Host.Outcome State Fault Refusal) : Prop :=
  (∀ u, o = .next u → (inside = true → ¬ Overfull b u) → step s = .next u) ∧
  (∀ u, o = .next u → inside = true → Overfull b u → step s = .next held) ∧
  ((∀ u, o ≠ .next u) → step s = o)

end Sys2Proof.Machine
end

