-- ==== Sys2Proof/Certificates/Slice0/Obligations.lean ====
section
/-!
DEFINITION. The statements for the provers. Each docstring names the rule of spec/ it formalises.
-/
open Sys2Proof Sys2Proof.Machine

/-! ## Register instructions -/

/-- R147: QSWZ, QBC and SHFL give each active lane its source lane's A at issue; the frame holds.
R148: BALLOT, VOTE, MATCH and ELECT gather from the gang's active present lanes; the frame holds.
R148: REDUX combines A over every active present lane, SCAN over those up to the lane, or below it with EXC; the
identity where there is none; the frame holds. -/
def Obligations.ExchangesGatherAndCombine : Prop :=
  (∀ (c : Ctl) (ty : Ty) (d a : RegCode) (s : State) (e : Env),
    (∀ pat, Issues (.qswz c ty d a pat) s e → RunsReg (.qswz c ty d a pat) s e d ty.width (fun l v =>
      v = readSet e.g (4 * (l / 4) + (pat.extractLsb' (2 * (l % 4)) 2).toNat) a ty.width)) ∧
    (∀ src, Issues (.qbc c ty d a src) s e → RunsReg (.qbc c ty d a src) s e d ty.width (fun l v =>
      v = readSet e.g (4 * (l / 4) + src.toNat) a ty.width)) ∧
    (∀ b, Issues (.shflIdx c ty d a b) s e → RunsReg (.shflIdx c ty d a b) s e d ty.width (fun l v =>
      v = readSet e.g (readB e.g l b 32 &&& 127) a ty.width)) ∧
    (∀ b, Issues (.shflUp c ty d a b) s e → RunsReg (.shflUp c ty d a b) s e d ty.width (fun l v =>
      v = readSet e.g (if readB e.g l b 32 ≤ l then l - readB e.g l b 32 else l) a ty.width)) ∧
    (∀ b, Issues (.shflDown c ty d a b) s e → RunsReg (.shflDown c ty d a b) s e d ty.width (fun l v =>
      v = readSet e.g (if l + readB e.g l b 32 ≤ 127 then l + readB e.g l b 32 else l) a ty.width)) ∧
    (∀ b, Issues (.shflXor c ty d a b) s e → RunsReg (.shflXor c ty d a b) s e d ty.width (fun l v =>
      v = readSet e.g (l ^^^ (readB e.g l b 32 &&& 127)) a ty.width))) ∧
  (∀ (c : Ctl) (d : RegCode) (pd p : PredCode) (s : State) (e : Env),
    (Issues (.ballot c .b32 d p) s e → RunsReg (.ballot c .b32 d p) s e d 32 (fun l v =>
      v < 2 ^ 32 ∧ ∀ j, j < 32 → (v.testBit j = true ↔
        32 * (l / 32) + j ∈ presentOf e (.ballot c .b32 d p) ∧ readPred e.g (32 * (l / 32) + j) p = true))) ∧
    (Issues (.ballot c .b128 d p) s e → RunsReg (.ballot c .b128 d p) s e d 128 (fun _ v =>
      v < 2 ^ 128 ∧ ∀ j, j < 128 → (v.testBit j = true ↔
        j ∈ presentOf e (.ballot c .b128 d p) ∧ readPred e.g j p = true))) ∧
    (Issues (.voteAll c pd p) s e → RunsPred (.voteAll c pd p) s e pd (fun _ v =>
      v = true ↔ ∀ j ∈ presentOf e (.voteAll c pd p), readPred e.g j p = true)) ∧
    (Issues (.voteAny c pd p) s e → RunsPred (.voteAny c pd p) s e pd (fun _ v =>
      v = true ↔ ∃ j ∈ presentOf e (.voteAny c pd p), readPred e.g j p = true)) ∧
    (Issues (.voteUni c pd p) s e → RunsPred (.voteUni c pd p) s e pd (fun _ v =>
      v = true ↔ ∀ j ∈ presentOf e (.voteUni c pd p), ∀ k ∈ presentOf e (.voteUni c pd p),
        readPred e.g j p = readPred e.g k p)) ∧
    (∀ ty a, Issues (.matchAny c ty d a) s e → RunsReg (.matchAny c ty d a) s e d 32 (fun l v =>
      let same := fun j => j ∈ presentOf e (.matchAny c ty d a) ∧ readSet e.g j a ty.width = readSet e.g l a ty.width
      (same v ∧ ∀ j, same j → v ≤ j) ∨ ((∀ j, ¬ same j) ∧ v = 0xFFFFFFFF))) ∧
    (Issues (.elect c pd) s e → RunsPred (.elect c pd) s e pd (fun l v =>
      v = true ↔ l ∈ presentOf e (.elect c pd) ∧ ∀ j ∈ presentOf e (.elect c pd), l ≤ j))) ∧
  (∀ (c : Ctl) (ty : Ty) (exc : Bool) (d a : RegCode) (s : State) (e : Env) (op : Nat) (i : Instr),
    ((op, i) ∈ [(0, Instr.reduxAdd c ty d a), (1, .reduxMin c ty d a), (2, .reduxMax c ty d a), (3, .reduxAnd c ty d a),
        (4, .reduxOr c ty d a), (5, .reduxXor c ty d a)] → Issues i s e →
      RunsReg i s e d ty.width (fun _ v =>
        FoldHolds op ty ((presentOf e i).map (fun j => readSet e.g j a ty.width)) v)) ∧
    ((op, i) ∈ [(0, Instr.scanAdd c ty exc d a), (1, .scanMin c ty exc d a), (2, .scanMax c ty exc d a),
        (3, .scanAnd c ty exc d a), (4, .scanOr c ty exc d a), (5, .scanXor c ty exc d a)] → Issues i s e →
      RunsReg i s e d ty.width (fun l v =>
        FoldHolds op ty ((scanLanes e i exc l).map (fun j => readSet e.g j a ty.width)) v)))


/-- R150: the exact result of an integer operation wraps, or saturates with OVF under SAT; IADDC takes and gives a carry;
IMULH gives the high half; IMIN and IMAX choose; the frame holds. -/
def Obligations.IntegerArithmetic : Prop :=
  ∀ (c : Ctl) (ty : Ty) (sat : Bool) (d a : RegCode) (b : SrcB) (k : RegCode) (pd p : PredCode) (s : State) (e : Env),
    let A := fun (l : Nat) => asInt ty (readSet e.g l a ty.width)
    let B := fun (l : Nat) => asInt ty (readB e.g l b ty.width)
    let C := fun (l : Nat) => asInt ty (readSet e.g l k ty.width)
    (Issues (.iadd c ty sat d a b) s e → RunsFlag (.iadd c ty sat d a b) s e d ty.width
      (fun l v => IntHolds ty sat (A l + B l) v) (fun l n => ovfRaised ty sat (A l + B l) n)) ∧
    (Issues (.isub c ty sat d a b) s e → RunsFlag (.isub c ty sat d a b) s e d ty.width
      (fun l v => IntHolds ty sat (A l - B l) v) (fun l n => ovfRaised ty sat (A l - B l) n)) ∧
    (Issues (.imul c ty sat d a b) s e → RunsFlag (.imul c ty sat d a b) s e d ty.width
      (fun l v => IntHolds ty sat (A l * B l) v) (fun l n => ovfRaised ty sat (A l * B l) n)) ∧
    (Issues (.imad c ty sat d a b k) s e → RunsFlag (.imad c ty sat d a b k) s e d ty.width
      (fun l v => IntHolds ty sat (A l * B l + C l) v) (fun l n => ovfRaised ty sat (A l * B l + C l) n)) ∧
    (Issues (.iabs c ty sat d a) s e → RunsFlag (.iabs c ty sat d a) s e d ty.width
      (fun l v => IntHolds ty sat |A l| v) (fun l n => ovfRaised ty sat |A l| n)) ∧
    (Issues (.iaddc c ty d pd a b p) s e →
      let sum := fun (l : Nat) => readSet e.g l a ty.width + readB e.g l b ty.width + (if readPred e.g l p then 1 else 0)
      ∃ t, exec (.iaddc c ty d pd a b p) s = .next t ∧
        RegFrame e t (e.lanes (.iaddc c ty d pd a b p)) (some (d, ty.width)) (some pd) ∧
        DstHolds e t (e.lanes (.iaddc c ty d pd a b p)) d ty.width (fun l v => v = sum l % 2 ^ ty.width) ∧
        PredHolds e t (e.lanes (.iaddc c ty d pd a b p)) pd (fun l v => v = true ↔ 2 ^ ty.width ≤ sum l) ∧
        (t.group e.gid).sticky = e.g.sticky) ∧
    (Issues (.imulh c ty d a b) s e → RunsReg (.imulh c ty d a b) s e d 32
      (fun l v => v < 2 ^ 32 ∧ (v : Int) = (A l * B l / 2 ^ 32) % 2 ^ 32)) ∧
    (Issues (.imin c ty d a b) s e → RunsReg (.imin c ty d a b) s e d ty.width
      (fun l v => v < 2 ^ ty.width ∧ asInt ty v = min (A l) (B l))) ∧
    (Issues (.imax c ty d a b) s e → RunsReg (.imax c ty d a b) s e d ty.width
      (fun l v => v < 2 ^ ty.width ∧ asInt ty v = max (A l) (B l)))

/-- R151: the logic, shift and bit-counting instructions; the frame holds.
R152: BFE extracts a field, zero- or sign-extended, and BFI replaces one; the frame holds. -/
def Obligations.LogicShiftsAndBitFields : Prop :=
  (∀ (c : Ctl) (ty : Ty) (d a : RegCode) (b : SrcB) (k : RegCode) (s : State) (e : Env),
    let w := ty.width
    let A := fun (l : Nat) => readSet e.g l a w
    let N := fun (l : Nat) => readB e.g l b 32
    (Issues (.and c ty d a b) s e → RunsReg (.and c ty d a b) s e d w (fun l v => v = A l &&& readB e.g l b w)) ∧
    (Issues (.or c ty d a b) s e → RunsReg (.or c ty d a b) s e d w (fun l v => v = A l ||| readB e.g l b w)) ∧
    (Issues (.xor c ty d a b) s e → RunsReg (.xor c ty d a b) s e d w (fun l v => v = A l ^^^ readB e.g l b w)) ∧
    (Issues (.not c ty d a) s e → RunsReg (.not c ty d a) s e d w (fun l v =>
      v < 2 ^ w ∧ ∀ i, i < w → v.testBit i = !(A l).testBit i)) ∧
    (Issues (.shl c ty d a b) s e → RunsReg (.shl c ty d a b) s e d w (fun l v =>
      v = if w ≤ N l then 0 else A l * 2 ^ N l % 2 ^ w)) ∧
    (Issues (.shr c ty d a b) s e → RunsReg (.shr c ty d a b) s e d w (fun l v =>
      v = if w ≤ N l then 0 else A l / 2 ^ N l)) ∧
    (Issues (.sar c ty d a b) s e → RunsReg (.sar c ty d a b) s e d w (fun l v =>
      v < 2 ^ w ∧ sgn w v = if w ≤ N l then (if (A l).testBit (w - 1) then -1 else 0) else sgn w (A l) / 2 ^ N l)) ∧
    (Issues (.fshf c d a b k) s e → RunsReg (.fshf c d a b k) s e d 32 (fun l v =>
      v = (readB e.g l b 32 * 2 ^ 32 + readSet e.g l a 32) >>> (readSet e.g l k 32 &&& 31) % 2 ^ 32)) ∧
    (Issues (.popc c ty d a) s e → RunsReg (.popc c ty d a) s e d 32 (fun l v =>
      v = ((Finset.range w).filter (fun i => (A l).testBit i = true)).card)) ∧
    (Issues (.clz c ty d a) s e → RunsReg (.clz c ty d a) s e d 32 (fun l v =>
      if A l = 0 then v = w else v < w ∧ 2 ^ (w - 1 - v) ≤ A l ∧ A l < 2 ^ (w - v))) ∧
    (Issues (.brev c ty d a) s e → RunsReg (.brev c ty d a) s e d w (fun l v =>
      v < 2 ^ w ∧ ∀ i, i < w → v.testBit i = (A l).testBit (w - 1 - i)))) ∧
  (∀ (c : Ctl) (ty : Ty) (d a : RegCode) (b : SrcB) (pos : BitVec 6) (len : BitVec 7) (s : State) (e : Env),
    let w := ty.width
    let F := fun (l : Nat) => readSet e.g l a w >>> pos.toNat % 2 ^ len.toNat
    (Issues (.bfe c ty d a pos len) s e → RunsReg (.bfe c ty d a pos len) s e d w (fun l v =>
      v < 2 ^ w ∧
      if ty.signed then sgn w v = (if len = 0 then 0 else sgn len.toNat (F l)) else v = F l)) ∧
    (Issues (.bfi c ty d a b pos len) s e → RunsReg (.bfi c ty d a b pos len) s e d w (fun l v =>
      v < 2 ^ w ∧ ∀ i, i < w → v.testBit i =
        if pos.toNat ≤ i ∧ i < pos.toNat + len.toNat then (readB e.g l b w).testBit (i - pos.toNat)
        else (readSet e.g l a w).testBit i)))


/-- R153, R156: LEA, MOV, MOVI and SEL; the frame holds.
R155, R157, R168: ISETP, FSETP, DSETP and PLOP write one predicate, FSETP and DSETP that of their condition on the exact
numbers, a NaN leaving the pair unordered; the frame holds. -/
def Obligations.MovesSelectionAndPredicates : Prop :=
  (∀ (c : Ctl) (ty : Ty) (d a : RegCode) (b : SrcB) (sh : BitVec 5) (imm : BitVec 32) (p : PredCode) (s : State)
    (e : Env),
    (Issues (.lea c d a b sh) s e → RunsReg (.lea c d a b sh) s e d 64 (fun l v =>
      (v : Int) = ((readSet e.g l a 64 : Int) + sgn 32 (readB e.g l b 32) * 2 ^ sh.toNat) % 2 ^ 64)) ∧
    (Issues (.mov c ty d a) s e → RunsReg (.mov c ty d a) s e d ty.width (fun l v => v = readSet e.g l a ty.width)) ∧
    (Issues (.movi c d imm) s e → RunsReg (.movi c d imm) s e d 32 (fun _ v => v = imm.toNat)) ∧
    (Issues (.sel c ty d a b p) s e → RunsReg (.sel c ty d a b p) s e d ty.width (fun l v =>
      v = if readPred e.g l p then readSet e.g l a ty.width else readB e.g l b ty.width))) ∧
  (∀ (c : Ctl) (ty : Ty) (cmp : BitVec 4) (pd : PredCode) (a : RegCode) (b : SrcB) (p q r : PredCode) (lut : BitVec 8)
    (s : State) (e : Env),
    (Issues (.isetp c ty cmp pd a b) s e → RunsPred (.isetp c ty cmp pd a b) s e pd (fun l v =>
      v = true ↔ intCmp cmp.toNat (asInt ty (readSet e.g l a ty.width)) (asInt ty (readB e.g l b ty.width)))) ∧
    (Issues (.fsetp c cmp pd a b) s e → RunsPred (.fsetp c cmp pd a b) s e pd (fun l v =>
      v = true ↔ FloatCmp cmp.toNat (exactOf (value .f32 (readSet e.g l a 32))) (exactOf (value .f32 (readB e.g l b 32))))) ∧
    (Issues (.dsetp c cmp pd a b) s e → RunsPred (.dsetp c cmp pd a b) s e pd (fun l v =>
      v = true ↔ FloatCmp cmp.toNat (exactOf (value .f64 (readSet e.g l a 64))) (exactOf (value .f64 (readB e.g l b 64))))) ∧
    (Issues (.plop c pd p q r lut) s e → RunsPred (.plop c pd p q r lut) s e pd (fun l v =>
      v = lut.getLsbD (4 * (if readPred e.g l p then 1 else 0) + 2 * (if readPred e.g l q then 1 else 0)
        + (if readPred e.g l r then 1 else 0)))))

/-- R31, R154, R30: an SPR read gives each selector its value; an SPR write stores STICKY's ARM bits and clears the flags
written as 1, once, with the value of the lowest active present lane; the frame holds. -/
def Obligations.SpecialRegisters : Prop :=
  ∀ (c : Ctl) (ty : Ty) (d : RegCode) (sel : BitVec 7) (b : SrcB) (s : State) (e : Env),
    (Issues (.sprRead c ty d sel) s e → RunsReg (.sprRead c ty d sel) s e d ty.width (fun l v =>
      v = (match sel.toNat with
        | 0 => l
        | 1 => l / 4
        | 2 => 128 * e.g.idx + l
        | 3 => e.g.idx
        | 4 => e.t.teamid
        | 5 => if e.l.isCluster then e.t.cslot else 0
        | 6 => e.l.id.toNat
        | 7 => e.l.nlanes
        | 8 => (e.l.nlanes + 127) / 128
        | 9 => e.core / 4
        | 10 => e.t.teamid * 2048 + (128 * e.g.idx + l)
        | 11 => if e.l.det then e.g.lclk.toNat else s.nanos % 2 ^ 64
        | 12 => e.g.lclk.toNat
        | 13 => (e.g.quad (l / 4)).dix.toNat
        | 14 => e.g.seed.toNat
        | _ => e.g.sticky.toNat) % 2 ^ ty.width)) ∧
    (Issues (.sprWrite c b) s e → ∃ t, exec (.sprWrite c b) s = .next t ∧
      RegFrame e t (e.lanes (.sprWrite c b)) none none ∧
      ∀ k, k < 32 → (t.group e.gid).sticky.getLsbD k =
        match lowestLane (e.lanes (.sprWrite c b) &&& e.pres) with
        | none => e.g.sticky.getLsbD k
        | some l =>
          if 8 ≤ k ∧ k ≤ 12 then (readB e.g l b 32).testBit k
          else if k ≤ 4 then e.g.sticky.getLsbD k && !(readB e.g l b 32).testBit k
          else false)


/-! ## Floating numbers -/

/-- R163, R164, R166: the floating instructions run, with the value of one exact operation rounded (`ExactArithmetic`
says what that value is), the operand FMIN and FMAX choose, and FCLASS's one bit; no flag; the frame holds. -/
def Obligations.FloatInstructionsRun : Prop :=
  ∀ (c : Ctl) (ty : Ty) (rm : Rnd) (d a : RegCode) (b : SrcB) (k : RegCode) (s : State) (e : Env),
    let A := fun (l : Nat) => readSet e.g l a 32
    let B := fun (l : Nat) => readB e.g l b 32
    let K := fun (l : Nat) => readSet e.g l k 32
    let pair := fun (f : Nat → FVal) (v : Nat) => v = roundIEEE ty rm (f 0) + roundIEEE ty rm (f 1) * 2 ^ 16
    let least := fun (flip : Bool) (x y v : Nat) =>
      match value .f32 x, value .f32 y with
      | .nan, .nan => v = 0x7FC00000
      | .nan, _ => v = y
      | _, .nan => v = x
      | _, _ => (v = x ∨ v = y) ∧ (∀ z, z = x ∨ z = y →
          ¬ if flip then (exactOf (value .f32 v)).below (exactOf (value .f32 z))
            else (exactOf (value .f32 z)).below (exactOf (value .f32 v))) ∧
          (x % 2 ^ 31 = 0 → y % 2 ^ 31 = 0 → x ≠ y → v = if flip then 0 else 0x80000000)
    (∀ i f, (i, f) ∈ [(Instr.fadd c rm d a b, addV rm), (.fmul c rm d a b, mulV)] → Issues i s e →
      RunsReg i s e d 32 (fun l v => v = roundIEEE .f32 rm (f (value .f32 (A l)) (value .f32 (B l))))) ∧
    (Issues (.ffma c rm d a b k) s e → RunsReg (.ffma c rm d a b k) s e d 32 (fun l v =>
      v = roundIEEE .f32 rm (addV rm (mulV (value .f32 (A l)) (value .f32 (B l))) (value .f32 (K l))))) ∧
    (∀ i f, (i, f) ∈ [(Instr.dadd c rm d a b, addV rm), (.dmul c rm d a b, mulV)] → Issues i s e →
      RunsReg i s e d 64 (fun l v =>
        v = roundIEEE .f64 rm (f (value .f64 (readSet e.g l a 64)) (value .f64 (readB e.g l b 64))))) ∧
    (Issues (.dfma c rm d a b k) s e → RunsReg (.dfma c rm d a b k) s e d 64 (fun l v =>
      v = roundIEEE .f64 rm (addV rm (mulV (value .f64 (readSet e.g l a 64)) (value .f64 (readB e.g l b 64)))
        (value .f64 (readSet e.g l k 64))))) ∧
    (Issues (.hadd2 c ty rm d a b) s e → RunsReg (.hadd2 c ty rm d a b) s e d 32 (fun l v =>
      pair (fun j => addV rm (half ty (A l) j) (half ty (B l) j)) v)) ∧
    (Issues (.hmul2 c ty rm d a b) s e → RunsReg (.hmul2 c ty rm d a b) s e d 32 (fun l v =>
      pair (fun j => mulV (half ty (A l) j) (half ty (B l) j)) v)) ∧
    (Issues (.hfma2 c ty rm d a b k) s e → RunsReg (.hfma2 c ty rm d a b k) s e d 32 (fun l v =>
      pair (fun j => addV rm (mulV (half ty (A l) j) (half ty (B l) j)) (half ty (K l) j)) v)) ∧
    (Issues (.fscale c rm d a b) s e → RunsReg (.fscale c rm d a b) s e d 32 (fun l v =>
      v = roundIEEE .f32 rm (scaleV (clampScale (sgn 32 (B l))) (value .f32 (A l))))) ∧
    (Issues (.fmin c d a b) s e → RunsReg (.fmin c d a b) s e d 32 (fun l v => least false (A l) (B l) v)) ∧
    (Issues (.fmax c d a b) s e → RunsReg (.fmax c d a b) s e d 32 (fun l v => least true (A l) (B l) v)) ∧
    (Issues (.fclass c ty d a) s e → RunsReg (.fclass c ty d a) s e d 32 (fun l v =>
      let x := readSet e.g l a ty.width
      let (mb, eb) := if ty = .f64 then (52, 11) else (23, 8)
      let normal := decide (x / 2 ^ mb % 2 ^ eb ≠ 0)
      v = match value ty x with
        | .nan => if x.testBit (mb - 1) then 2 ^ 9 else 2 ^ 8
        | .inf neg => if neg then 2 ^ 0 else 2 ^ 7
        | .fin neg m _ =>
          if m = 0 then (if neg then 2 ^ 3 else 2 ^ 4)
          else if normal then (if neg then 2 ^ 1 else 2 ^ 6) else if neg then 2 ^ 2 else 2 ^ 5))

/-- R162, R163, R165: for the types of floating arithmetic, the value computed is that of the exact sum, product, fused
product and sum, or product with a power of two, rounded once.
R82: a K-step adds the exact sum of its terms to the accumulator, with one rounding or, for I32, one saturation. -/
def Obligations.ExactArithmetic : Prop :=
  (∀ (t : Ty) (rm : Rnd) (a b k : Nat) (n : Int), t ∈ [Ty.f64, .f32, .f16, .bf16] → rm ≠ .sr →
    let A := value t a
    let B := value t b
    let K := value t k
    Rounds t rm (exactAdd rm (exactOf A) (exactOf B)) (roundIEEE t rm (addV rm A B)) ∧
    Rounds t rm (exactMul (exactOf A) (exactOf B)) (roundIEEE t rm (mulV A B)) ∧
    Rounds t rm (exactAdd rm (exactMul (exactOf A) (exactOf B)) (exactOf K)) (roundIEEE t rm (addV rm (mulV A B) K)) ∧
    (t = .f32 → Rounds t rm (exactMul (exactOf A) (.num false (2 ^ n))) (roundIEEE t rm (scaleV (clampScale n) A)))) ∧
  (∀ (t : Ty) (acc : Nat) (terms : List FVal),
    (t = .f32 ∨ t = .f64 → (kstep t acc terms).2 = {} ∧
      Rounds t .rne (accumulate (exactOf (value t acc)) (exactSumOf (terms.map exactOf))) (kstep t acc terms).1) ∧
    (t = .i32 → (∀ x ∈ terms, ∃ neg m, x = .fin neg m 0) → ∃ z : Int,
      (z : ℚ) = sgn 32 acc + ((terms.map exactOf).map Exact.number).sum ∧
      IntHolds .i32 true z (kstep t acc terms).1 ∧
      (kstep t acc terms).2 = { ovf := decide (z < -(2 ^ 31) ∨ 2 ^ 31 - 1 < z) }))

/-- R73, R75: a magnitude rounded at a quantum is the integer the mode chooses.
R76, R77: a conversion gives the code and the flags of the table, into FX64 at any exponent Q. -/
def Obligations.RoundingAndConversion : Prop :=
  (∀ (rm : Rnd) (neg : Bool) (m : Nat) (e q : Int) (r : Nat), r < 2 ^ 64 →
    RoundedTo rm r ((ratOf neg m e / 2 ^ q : ℚ) : ℝ)
      (if neg then -(roundAt rm neg m e q r : Int) else roundAt rm neg m e q r)) ∧
  (∀ (dst : Ty) (q : Int) (rm : Rnd) (sat : Bool) (r : Nat) (x : FVal), r < 2 ^ 64 → (q = 0 ∨ dst = .fx64) →
    ConvHolds dst rm sat r (exactMul (exactOf x) (.num false (2 ^ (-q)))) (convQ dst q rm sat r x).1
      (convQ dst q rm sat r x).2)


/-- R170 to R173, R167, R177: the conversions, the seven functions and the dot products run, each with the model's value
of its definition (the statements on conversions, functions and K-steps say what those values are); a conversion or an
I32 dot product raises its flags; the frame holds. -/
def Obligations.ConversionsFunctionsAndDotsRun : Prop :=
  ∀ (c : Ctl) (ty src : Ty) (rm : Rnd) (sat : Bool) (d a : RegCode) (b : SrcB) (k : RegCode) (x : BitVec 3)
    (bs : BitVec 2) (s : State) (e : Env),
    let flagged := fun (i : Instr) (w : Nat) (f : Nat → Nat × Flags) =>
      RunsFlag i s e d w (fun l v => v = (f l).1) (fun l n =>
        n < 5 ∧ [(f l).2.ovf, (f l).2.inv, (f l).2.spill, (f l).2.drop, (f l).2.asat].getD n false = true)
    let draw := fun (l j : Nat) =>
      srBits e.g.seed (e.g.quad (l / 4)).dix (BitVec.ofNat 64 (e.t.teamid * 2048 + 128 * e.g.idx + l)) j
    let scale := fun (sc : Bool) (lane : Nat) =>
      if sc then scaleVal .e8m0 (readSet e.g lane k 32 / 2 ^ (8 * bs.toNat) % 256) else .fin false 1 0
    let terms := fun (n : Nat) (sc : Bool) (l : Nat) => (List.range n).map (fun j =>
      mulV (mulV (elemVal src sc (readSet e.g l a 32 / 2 ^ (src.width * j))) (scale sc (8 * (l / 8))))
        (mulV (elemVal src sc (readB e.g l b 32 / 2 ^ (src.width * j))) (scale sc (8 * (l / 8) + 1))))
    (Issues (.cvt c ty src rm sat d a) s e → flagged (.cvt c ty src rm sat d a) (max 32 ty.width) (fun l =>
      conv ty rm sat (draw l 0) (value src (readSet e.g l a (max 32 src.width))))) ∧
    (Issues (.cvtp c ty src rm sat d a b) s e → flagged (.cvtp c ty src rm sat d a b) 32 (fun l =>
      let lo := conv ty rm sat (draw l 0) (value src (readSet e.g l a 32))
      let hi := conv ty rm sat (draw l 1) (value src (readB e.g l b 32))
      (hi.1 * 2 ^ ty.width + lo.1, lo.2.or hi.2))) ∧
    (Issues (.cvtx c ty src x d a) s e → RunsReg (.cvtx c ty src x d a) s e d 32 (fun l v =>
      let y := value src (readSet e.g l a 32 / 2 ^ (src.width * x.toNat))
      if ty = .f32 then
        match exactOf y with
        | .undef => v = 0x7FC00000
        | .inf neg => v = infCode .f32 neg
        | .num neg z => Codes .f32 neg (|z| : ℚ) v
      else v < 2 ^ 32 ∧ .num (decide (asInt ty v < 0)) (asInt ty v) = exactOf y)) ∧
    (∀ i f, (i, f) ∈ [(Instr.frcp c rm d a, Fn7.rcp), (.frsq c rm d a, .rsq), (.fsqrt c rm d a, .sqrt),
        (.fexp2 c rm d a, .exp2), (.flog2 c rm d a, .log2), (.fsin c rm d a, .sin), (.fcos c rm d a, .cos)] →
      Issues i s e → RunsReg i s e d 32 (fun l v => v = fn7 f rm (readSet e.g l a 32))) ∧
    (Issues (.dot2 c ty src d a b) s e → flagged (.dot2 c ty src d a b) 32 (fun l =>
      kstep ty (readSet e.g l d 32) (terms 2 false l))) ∧
    (∀ sc, Issues (.dot4 c ty src sc bs d a b k) s e → flagged (.dot4 c ty src sc bs d a b k) 32 (fun l =>
      kstep ty (readSet e.g l d 32) (terms 4 sc l))) ∧
    (∀ sc, Issues (.dot8 c ty src sc bs d a b k) s e → flagged (.dot8 c ty src sc bs d a b k) 32 (fun l =>
      kstep ty (readSet e.g l d 32) (terms 8 sc l)))

/-- R167: the special inputs of the seven functions; the reciprocal, the square root and its reciprocal of every other
number, rounded once; 2^a at integers; log2 a at powers of two. -/
def Obligations.FunctionsAreRounded : Prop :=
  ∀ (rm : Rnd) (a : Nat), a < 2 ^ 32 → rm ≠ .sr →
    (match value .f32 a with
      | .nan => ∀ f, fn7 f rm a = 0x7FC00000
      | .inf neg =>
        fn7 .rcp rm a = (if neg then 0x80000000 else 0) ∧
        fn7 .rsq rm a = (if neg then 0x7FC00000 else 0) ∧
        fn7 .sqrt rm a = (if neg then 0x7FC00000 else 0x7F800000) ∧
        fn7 .exp2 rm a = (if neg then 0 else 0x7F800000) ∧
        fn7 .log2 rm a = (if neg then 0x7FC00000 else 0x7F800000) ∧
        fn7 .sin rm a = 0x7FC00000 ∧ fn7 .cos rm a = 0x7FC00000
      | .fin neg m e =>
        (m = 0 →
          fn7 .rcp rm a = (if neg then 0xFF800000 else 0x7F800000) ∧
          fn7 .rsq rm a = (if neg then 0xFF800000 else 0x7F800000) ∧
          fn7 .sqrt rm a = a ∧ fn7 .exp2 rm a = 0x3F800000 ∧ fn7 .log2 rm a = 0xFF800000 ∧
          fn7 .sin rm a = a ∧ fn7 .cos rm a = 0x3F800000) ∧
        (m ≠ 0 → neg = true → ∀ f ∈ [Fn7.rsq, .sqrt, .log2], fn7 f rm a = 0x7FC00000) ∧
        (m ≠ 0 → FloatHolds .f32 rm false 0 neg (1 / (ratOf neg m e : ℝ)) (fn7 .rcp rm a) false) ∧
        (m ≠ 0 → neg = false →
          FloatHolds .f32 rm false 0 false (Real.sqrt (ratOf neg m e : ℝ)) (fn7 .sqrt rm a) false ∧
          FloatHolds .f32 rm false 0 false (1 / Real.sqrt (ratOf neg m e : ℝ)) (fn7 .rsq rm a) false) ∧
        (∀ n : Int, ratOf neg m e = n → FloatHolds .f32 rm false 0 false (2 ^ n) (fn7 .exp2 rm a) false) ∧
        (∀ n : Int, ratOf neg m e = 2 ^ n → Codes .f32 (decide (n < 0)) |(n : ℝ)| (fn7 .log2 rm a)))

/-! ## Control flow and exceptions -/

/-- R134, R135: each quad takes a branch whole, passes it, or pushes PEND entries for the targets that do not run first;
nothing else changes.
R19, R305: with no room for an entry nothing is pushed and ADDR is raised in the active present lanes of the quads that lack
it; where such a quad holds 256 entries, so that it has none for its TRAP entry either, the context ends with STACK, in a
handler with ADDR and DOUBLE. R135, R304: where a present lane that takes a BRX holds an address past 2^49 or a misaligned one,
nothing is pushed, and those lanes trap, each with ADDR or ALIGN and its own address. (The lanes of a full stack, and the
address 0 of their trap, are log 95; that the lanes a re-issued branch does not restart keep to the next clause is log 36,
both the model's choice.) -/
def Obligations.BranchesDivergeByQuad : Prop :=
  ∀ (c : Ctl) (disp : BitVec 32) (a : RegCode) (s : State) (e : Env), HasQuad e → StacksOk e →
    (Issues (.bra c disp) s e →
      let takers := fun (q : Nat) => laneNibble (e.lanes (.bra c disp)) q
      let target := e.is.hdr + disp.signExtend 49
      (∀ q x, e.is.quads.getLsbD q = true → aget? e.g.quads q = some x →
        takers q = 0 ∨ takers q = liveMask x ∨ x.depth < 256) →
      ∃ t, exec (.bra c disp) s = .next t ∧ Steers e t 1 (fun q x z =>
        if takers q = liveMask x then z = x.goto target
        else if takers q = 0 then z = x.goto e.is.after
        else SpillHeld s t e.g q x 1 ∧ z =
          { ((pushedQuad x (stackEntry 2 (takers q) 0 target)).goto e.is.after) with mask := liveMask x &&& ~~~ takers q })) ∧
    (Issues (.bra c disp) s e → ∀ q x, FullQuad e q x → laneNibble (e.lanes (.bra c disp)) q ≠ 0 →
      laneNibble (e.lanes (.bra c disp)) q ≠ liveMask x → EndsContext (.bra c disp) s e .addr) ∧
    (Issues (.brx c a) s e →
      let lanes := e.lanes (.brx c a)
      let good := fun (l : Nat) => readSet e.g l a 64 < 2 ^ 49 ∧ readSet e.g l a 64 % 4 = 0
      let dest := fun (l : Nat) =>
        if lanes.getLsbD l = true ∧ good l then BitVec.ofNat 49 (readSet e.g l a 64) else e.is.after
      let mine := fun (q : Nat) (x : Quad) => lanesOf (nibbleLanes q (liveMask x))
      let lanesTo := fun (q : Nat) (x : Quad) (v : VAddr) => laneNibble (maskOf ((mine q x).filter (fun l => dest l = v))) q
      let targets := fun (q : Nat) (x : Quad) => distinct ((mine q x).map dest)
      (∀ (bad : LaneMask) (cause : Cause), let addr := fun (l : Nat) => readSet e.g l a 64
        let own := fun (l : Nat) => if 2 ^ 49 ≤ addr l then Cause.addr else .align
        bad ≠ 0 → (∀ l, bad.getLsbD l = true ↔ lanes.getLsbD l = true ∧ e.pres.getLsbD l = true ∧ ¬ good l) →
        FirstCause bad own cause →
        (Deliverable e cause bad → TrapsAt (.brx c a) s e cause bad ((lanesOf bad).map (fun l => (l, own l, addr l)))) ∧
        ∀ l, lowestLane bad = some l → e.inh = true → EndsWith (.brx c a) s e cause.code (addr l)) ∧
      ((∀ l, lanes.getLsbD l = true → e.pres.getLsbD l = true → good l) →
      ((∀ q x, e.is.quads.getLsbD q = true → aget? e.g.quads q = some x → x.depth + (targets q x).length ≤ 257) →
        ∃ t, exec (.brx c a) s = .next t ∧ Steers e t 3 (fun q x z =>
          let cur := if e.is.after ∈ targets q x then e.is.after else (targets q x).headD e.is.after
          let pend := ((targets q x).filter (fun v => v ≠ cur)).map (fun v => stackEntry 2 (lanesTo q x v) 0 v)
          SpillHeld s t e.g q x pend.length ∧ z =
            { ((pend.foldr (fun en x => pushedQuad x en) x).goto cur) with mask := lanesTo q x cur })) ∧
      (∀ q x, FullQuad e q x → 1 < (targets q x).length → EndsContext (.brx c a) s e .addr) ∧
      (∀ short : LaneMask, Deliverable e .addr short →
        (∀ l, short.getLsbD l = true ↔ e.pres.getLsbD l = true ∧ ∃ x, e.is.quads.getLsbD (l / 4) = true ∧
          aget? e.g.quads (l / 4) = some x ∧ (liveMask x).getLsbD (l % 4) = true ∧
          257 < x.depth + (targets (l / 4) x).length) →
        TrapsAll (.brx c a) s e .addr short 0)))

/-- R136, R137, R18: CALL and MARK push an entry with each quad's mask; CALL continues at its label, MARK at the next
clause; nothing else changes. R19, R305: a quad's 257th entry ends the context with STACK, in a handler with ADDR and DOUBLE.
R18, R136, R138, R139: JOIN and RET pop each quad's entry and continue there with its live lanes, EXIT removes the
active lanes; a quad left without lanes unwinds its stack. With every quad ended, so is the group. (No quad of the group
waits at a REGANG, and a handler keeps a quad: releases and trap return are stated on their own.)
R18, R136: where a quad's top entry, or for RET its empty stack, is not of the instruction's kind, nothing is popped and
ILLOP is raised; in a handler it ends the context with DOUBLE (R305). -/
def Obligations.CallStackPushesAndPops : Prop :=
  (∀ (disp : BitVec 32) (s : State) (e : Env) (i : Instr), i ∈ [Instr.call disp, .mark disp] → Issues i s e →
    ∀ q x, FullQuad e q x → EndsContext i s e .addr) ∧
  (∀ (s : State) (e : Env) (i : Instr) (kinds : List Nat), (i, kinds) ∈ [(Instr.ret, [3]), (.join, [1, 2])] → Issues i s e →
    (∃ q, e.is.quads.getLsbD q = true ∧ match (e.g.quad q).resident.head? with
      | none => i = .ret
      | some en => entryKind en ∉ kinds) →
    (e.inh = true → EndsContext i s e .illop) ∧
    (Deliverable e .illop (e.lanes i &&& e.pres) → TrapsAll i s e .illop (e.lanes i &&& e.pres) 0)) ∧
  (∀ (disp : BitVec 32) (s : State) (e : Env), HasQuad e → StacksOk e →
    (∀ q x, e.is.quads.getLsbD q = true → aget? e.g.quads q = some x → x.depth < 256) →
    let target := e.is.hdr + disp.signExtend 49
    (Issues (.call disp) s e → ∃ t, exec (.call disp) s = .next t ∧ Steers e t 1 (fun q x z =>
      SpillHeld s t e.g q x 1 ∧ z = (pushedQuad x (stackEntry 3 x.mask 0 e.is.after)).goto target)) ∧
    (Issues (.mark disp) s e → ∃ t, exec (.mark disp) s = .next t ∧ Steers e t 1 (fun q x z =>
      SpillHeld s t e.g q x 1 ∧ z = (pushedQuad x (stackEntry 1 x.mask 0 target)).goto e.is.after))) ∧
  (∀ (c : Ctl) (s : State) (e : Env) (i : Instr) (start : Nat → Quad → Quad),
    (i, start) ∈ [
      (Instr.ret, fun q x => { ((poppedQuad s e.g q x).goto (entryPc (x.resident.headD 0))) with
        mask := entryMask (x.resident.headD 0) &&& ~~~ x.exited }),
      (.join, fun q x => if x.resident = [] then x.goto e.is.after else
        { ((poppedQuad s e.g q x).goto (entryPc (x.resident.headD 0))) with
          mask := entryMask (x.resident.headD 0) &&& ~~~ x.exited }),
      (.exit c, fun q x => { (x.goto e.is.after) with
        exited := x.exited ||| laneNibble (e.lanes (.exit c)) q
        mask := x.mask &&& ~~~ (x.exited ||| laneNibble (e.lanes (.exit c)) q) })] →
    Issues i s e → HasQuad e → StacksOk e → NoneSuspended e →
    (∀ x ∈ e.g.quads, x.2.regang = none) →
    (∀ q x, e.is.quads.getLsbD q = true → aget? e.g.quads q = some x →
      match i with
      | .ret => ∃ en, x.resident.head? = some en ∧ entryKind en = 3
      | .join => (x.resident = [] ∧ x.mask ≠ 0) ∨ ∃ en, x.resident.head? = some en ∧ (entryKind en = 1 ∨ entryKind en = 2)
      | _ => True) →
    (e.inh = true → ∃ q x z, aget? e.g.quads q = some x ∧ z.handler = true ∧ z.handled = false ∧
      if e.is.quads.getLsbD q then Unwinds s e.g q (start q x) z else z = x) →
    ∃ t, exec i s = .next t ∧
      (∀ q x, e.is.quads.getLsbD q = true → aget? e.g.quads q = some x → ∃ y z,
        aget? (t.group e.gid).quads q = some y ∧ SameQuad z y ∧ Unwinds s e.g q (start q x) z) ∧
      ((t.group e.gid).allEnded = false → Steers e t 0 (fun q x z => Unwinds s e.g q (start q x) z)) ∧
      ((t.group e.gid).allEnded = true → (t.team e.g.team).live = e.t.live - 1 ∧ t.mem = s.mem ∧
        ∀ g, g ≠ e.gid → t.group g = s.group g))


/-- R23: REGANG holds the arriving quads, or, when every quad of the group that counts has arrived at its address, sends all
that wait there on together as one gang. (No bound of a REGANG of the group has passed: those releases come first.) -/
def Obligations.RegangGathersAGroup : Prop :=
  ∀ (s : State) (e : Env), Issues .regang s e → e.g.park = false →
    (∃ q x, e.is.quads.getLsbD q = true ∧ aget? e.g.quads q = some x ∧ regangCounts e.inh x = true) →
    (∀ q x, e.is.quads.getLsbD q = true → aget? e.g.quads q = some x → e.inh = true → x.handler = true) →
    let here := fun (q : Nat) (x : Quad) => e.is.quads.getLsbD q = true ∨ ∃ r, x.regang = some r ∧ r.1 = e.is.pc
    let arrived := ∀ q x, (q, x) ∈ e.g.quads → regangCounts e.inh x = true → here q x
    (e.g.quads.map Prod.fst).Nodup → (∀ addr, boundPassed e.l.det e.g addr = false) →
    ∃ t, exec .regang s = .next t ∧ GangFrame e t 0 ∧
      t.group e.gid = { e.g with
        lclk := (t.group e.gid).lclk, retired := (t.group e.gid).retired, quads := (t.group e.gid).quads } ∧
      Counted e e.g (t.group e.gid) ∧
      (¬ arrived → ∀ q x, aget? e.g.quads q = some x → ∃ y, aget? (t.group e.gid).quads q = some y ∧
        if e.is.quads.getLsbD q then
          SameQuad { (x.goto e.is.after) with regang := some (e.is.pc, 0, (t.group e.gid).lclk) } y ∧ y.stamp = none
        else y = x) ∧
      (arrived → ∀ q x, aget? e.g.quads q = some x → ∃ y, aget? (t.group e.gid).quads q = some y ∧
        (e.is.quads.getLsbD q = true → SameQuad { (x.goto e.is.after) with regang := none, freed := false } y) ∧
        (e.is.quads.getLsbD q = false → (here q x ∧ (e.inh = true → x.handler = true) →
          SameQuad { x with regang := none, freed := false } y) ∧ (¬ (here q x ∧ (e.inh = true → x.handler = true)) → y = x)) ∧
        (here q x → (e.inh = true → x.handler = true) → y.stamp = some (freshStamp s e.gid) ∧
          ∀ q' y', aget? (t.group e.gid).quads q' = some y' →
            (∃ x', aget? e.g.quads q' = some x' ∧ here q' x' ∧ (e.inh = true → x'.handler = true)) → y'.det = y.det))

/-- R140, R143, R22: NOP and YIELD retire and change nothing else; YIELD's gang takes its ready stamp afresh; a PPOINT with
no pre-emption pending retires as NOP. R349, R350, R352: with one pending it retires and its group stops, with the liveness
record at A, or, where that cannot be read or is malformed, with full liveness and BADLIVE counted.
R141, R304, R305: TRAP and BRK retire, then trap in their active present lanes, to resume at the instruction after
them; without such a lane they retire as NOP. -/
def Obligations.RetiringAndTrappingInstructions : Prop :=
  (∀ (c : Ctl) (a : RegCode) (s : State) (e : Env),
    (Issues (.nop c) s e → ∃ t, exec (.nop c) s = .next t ∧ Retires e s t) ∧
    (Issues (.yield c) s e → ∃ t, exec (.yield c) s = .next t ∧ Retires e s t ∧
      (e.lanes (.yield c) ≠ 0 → ∀ q x, e.is.quads.getLsbD q = true → aget? (t.group e.gid).quads q = some x →
        x.stamp = some ((s.core e.core).port e.port).count ∨ (e.is.isLast = true ∧ x.stamp = none))) ∧
    (Issues (.ppoint a) s e → e.is.isLast = true → (s.ctx e.ctx).stopping = none →
      ∃ t, exec (.ppoint a) s = .next t ∧ Retires e s t) ∧
    (Issues (.ppoint a) s e → e.is.isLast = true → (s.ctx e.ctx).stopping ≠ none →
      let va := readSet e.g 0 a 64
      ∃ t, Retires e s t ∧
        let record := if va % 8 ≠ 0 then none
          else (readSpan t e.g.core e.ctx e.inh va 96).bind (parseLiveness e.l.vregs e.l.padBytes)
        exec (.ppoint a) s = .next (match record with
          | some r => t.setGroup e.gid { t.group e.gid with stop := some (.record r) }
          | none => statusAdd (t.setGroup e.gid { t.group e.gid with stop := some .full }) e.ctx 28 1))) ∧
  (∀ (c : Ctl) (code : BitVec 8) (s : State) (e : Env) (i : Instr) (cause : Cause) (n : Nat),
    (i, cause, n) ∈ [(Instr.trap c code, Cause.trapn, code.toNat), (.brk c, .brk, 0)] → Issues i s e →
    let lanes := e.lanes i &&& e.pres
    let count := match peekWord s e.core e.ctx e.is.after with
      | some h => if 1 ≤ hdrCount h ∧ hdrCount h ≤ 24 then hdrCount h else 1
      | none => 1
    (lanes = 0 → ∃ t, exec i s = .next t ∧ Retires e s t) ∧
    (Deliverable e cause lanes → ∃ t, exec i s = .next t ∧ Counted e e.g (t.group e.gid) ∧ TrapEntered e t
      { core := e.core, port := e.port, gid := e.gid, gang := e.is.quads, cause, tcode := n, lanes,
        each := (lanesOf lanes).map (fun l => (l, cause, 0)),
        resume := if e.is.isLast then e.is.after + 4 else e.is.after,
        rem := if e.is.isLast then count else e.is.rem - 1, hdr := e.is.isLast, after := true, seta := e.is.seta,
        setb := e.is.setb, hoff := if e.is.isLast then 0 else e.is.hoff + e.is.len, pc := e.is.pc }))

/-- R59, R61, R64, R304, R305, R317: an instruction that fails a check takes the trap at once, precisely, in the gang's active
present lanes, whatever it is: ILLOP for an ill-formed instruction, for a system instruction outside a handler and for a CSR
number that is reserved or, for a write, read-only; then ILLREG for its registers; then DEPMISS under CHECK for a pending
one. Without such a lane the context ends with NOLANE, where a stack is full with STACK, and in a handler with the cause and
DOUBLE. -/
def Obligations.FailedChecksTrap : Prop :=
  ∀ (i : Instr) (s : State) (e : Env), s.env? = some e → isEvent i = false → acquireHolds s e.gid e.is.quads = false →
    let illop := WellFormed i = false ∨ (isSystem i = true ∧ e.inh = false) ∨
      (∃ c d n, i = .csrr c d n ∧ csrNamed n.toNat = false) ∨ ∃ c a n, i = .csrw c a n ∧ csrWritable n.toNat = false
    let lanes := e.lanes i &&& e.pres
    ∀ cause : Cause, ((cause = .illop ∧ illop) ∨ (cause = .illreg ∧ ¬ illop ∧ e.regsOk i = false) ∨
        (cause = .depmiss ∧ ¬ illop ∧ e.regsOk i = true ∧ e.hazard i = true ∧ e.l.check = true)) →
      (Deliverable e cause lanes → TrapsAll i s e cause lanes 0) ∧
      (e.inh = true → EndsWith i s e cause.code 0) ∧
      (e.inh = false → lanes = 0 → EndsWith i s e 0x41 0) ∧
      ∀ q x, FullQuad e q x → laneNibble lanes q ≠ 0 → EndsContext i s e cause


/-- R142, R307: RTT pops each quad's TRAP entry and holds it; with the last handler quad held the group returns: INH clears,
the trapped gang's quads take their trapped lanes and go on at the header or in the remainder, all others are released. On a
quad whose top entry is no TRAP entry RTT raises ILLOP, in a handler context-fatal with DOUBLE. -/
def Obligations.TrapReturnRestores : Prop :=
  (∀ (s : State) (e : Env), Issues .rtt s e →
    (∃ q, e.is.quads.getLsbD q = true ∧ ∀ en, (e.g.quad q).resident.head? = some en → entryKind en ≠ 4) →
    (e.inh = true → EndsContext .rtt s e .illop) ∧
    (Deliverable e .illop (e.lanes .rtt &&& e.pres) → TrapsAll .rtt s e .illop (e.lanes .rtt &&& e.pres) 0)) ∧
  ∀ (s : State) (e : Env), Issues .rtt s e → e.inh = true → StacksOk e → NoneSuspended e → HasQuad e →
    (∀ x ∈ e.g.quads, x.2.regang = none) → (e.g.quads.map Prod.fst).Nodup →
    (∀ q x, aget? e.g.quads q = some x → q < 32 ∧ StackOk x) →
    (∀ q x, e.is.quads.getLsbD q = true → aget? e.g.quads q = some x →
      ∃ en, x.resident.head? = some en ∧ entryKind en = 4) →
    let f := e.g.frame
    let popped := fun (q : Nat) (x : Quad) => if e.is.quads.getLsbD q then poppedQuad s e.g q x else x
    let waits := ∃ q x, aget? e.g.quads q = some x ∧ e.is.quads.getLsbD q = false ∧ x.handler = true ∧ x.handled = false
    let tpc : VAddr := BitVec.ofNat 49 (f.tpcl.toNat + f.tpch.toNat % 2 ^ 17 * 2 ^ 32)
    let back := fun (q : Nat) (x : Quad) =>
      let x := { popped q x with
        mask := laneNibble f.tact q &&& ~~~ x.exited, handler := false, handled := false, trapHeld := false
        waiting := none, freed := false }
      if f.tstate.getLsbD 9 then x.goto (tpc - 4)
      else { x with kind := .remainder, pc := tpc, rem := (f.tstate.extractLsb' 11 5).toNat,
                    seta := (f.tstate.extractLsb' 0 4).toNat, setb := (f.tstate.extractLsb' 4 4).toNat,
                    hoff := (f.tpch.extractLsb' 17 7).toNat,
                    only := if f.tstate.getLsbD 8 then none else some (laneNibble f.tfault q) }
    ∃ t, exec .rtt s = .next t ∧ t.mem = s.mem ∧ (t.group e.gid).v = e.g.v ∧ (t.group e.gid).sr = e.g.sr ∧
      (t.group e.gid).p = e.g.p ∧ (t.group e.gid).lclk = e.g.lclk ∧
      (waits → Steers e t 0 (fun q x z => z = { poppedQuad s e.g q x with handled := true })) ∧
      (¬ waits →
        (t.group e.gid).frame = { f with tstate := f.tstate &&& ~~~ 0x400#32 } ∧ (t.group e.gid).park = false ∧
        ∀ q x, aget? e.g.quads q = some x → x.kind ≠ .absent → x.kind ≠ .ended →
          ∃ y z, aget? (t.group e.gid).quads q = some y ∧ SameQuad z y ∧
            if f.gang.getLsbD q then Unwinds s e.g q (back q x) z
            else z = { popped q x with handled := x.handled || e.is.quads.getLsbD q, trapHeld := false })

/-! ## Memory -/

/-- R61, R83 to R85, R181, R207: LD, LDS and LDC whose lanes pass the checks go in flight with their lanes' places, each with
its own page's AGG bit, their hint, destination and flag, and retire. That an LDS and a load of a region take their values at
once, at issue, is log 25, DESIGN CHOICE; that a flight without lanes is a result is log 38: the model's choice.
R182, R207: PREF changes no register and no memory; with a hint but .NA the sector of each lane's byte of device memory
can be served by L1 afterwards. (L1 has room for the lines: it evicts none.) -/
def Obligations.LoadsAndPrefetchesGoInFlight : Prop :=
  (∀ (c : Ctl) (ty : Ty) (h : Hint) (d a : RegCode) (off : BitVec 32) (slot : BitVec 2) (s : State) (e : Env),
    e.flagFull c = false →
    let w := ty.width / 8
    let row := fun (l : Nat) => ((readReg e.g 0 a.toNat).toNat : Int) + off.toInt + (w * l : Nat)
    let flight := fun (i : Instr) (hint : Hint) (piece : Nat → Piece) =>
      ({ e.flight (if e.lanes i = 0 then .result else .load) c with
        pieces := (lanesOf (e.lanes i)).map piece, dst := some d, width := max 4 w
        sext := decide (ty = .i8 ∨ ty = .i16), vals := [], lanes := e.lanes i
        args := (presentOf e i).take 1, hint } : Flight)
    (∀ pa lf, Issues (.ld c ty h d a off) s e →
      let i := Instr.ld c ty h d a off
      let ea := fun (l : Nat) => (readSet e.g l a 64 : Int) + off.toInt
      GlobalOk e .read (loadRegion ty) w (e.lanes i) ea pa lf → Idle e (e.lanes i) (fun l => .glob (pa l)) →
      ∃ t, exec i s = .next t ∧ Sends e t [flight i h
        (fun l => { pieceAt w l (.glob (pa l)) 0 0 (ea l).toNat (lf l).size (lf l).agg with
          got := if regionHit s (pa l) = .none then none else some (ofBytes (readBytes s.mem (pa l) w))
          bad := if regionHit s (pa l) = .none then false else regionBad s (pa l) })] none) ∧
    (Issues (.lds c ty d a off) s e →
      let i := Instr.lds c ty d a off
      PadOk s e.g.team w (e.lanes i) row → Idle e (e.lanes i) (fun l => .pad e.g.team (row l).toNat) →
      ∃ t, exec i s = .next t ∧ Sends e t [flight i .ca
        (fun l => { pieceAt w l (.pad e.g.team (row l).toNat) 0 0 (row l).toNat 0 with
          got := some (ofBytes (readBytes e.t.pad (row l).toNat w)), bad := e.t.padBad (row l).toNat w })] none) ∧
    (∀ peer, Issues (.ldc c ty d a slot off) s e →
      let i := Instr.ldc c ty d a slot off
      e.l.isCluster = true → peerTeam s e slot.toNat = some peer →
      PadOk s peer w (e.lanes i) row → Idle e (e.lanes i) (fun l => .pad peer (row l).toNat) →
      ∃ t, exec i s = .next t ∧ Sends e t [flight i .ca
        (fun l => pieceAt w l (.pad peer (row l).toNat) 0 0 (row l).toNat 0)] none)) ∧
  (∀ (c : Ctl) (h : Hint) (a : RegCode) (off : BitVec 32) (s : State) (e : Env) (pa : Nat → Nat) (lf : Nat → Leaf),
    let i := Instr.pref c h a off
    Issues i s e → e.accessHeld = false → HasRoom s e.core 128 →
    GlobalOk e .read (fun _ => true) 1 (e.lanes i) (fun l => (readSet e.g l a 64 : Int) + off.toInt) pa lf →
    (∀ l, (e.lanes i).getLsbD l = true → NoPartials s (lineOf (pa l))) →
    ∃ t, exec i s = .next t ∧ Acts e t ∧ t.mem = s.mem ∧ t.teams = s.teams ∧
      ∀ l, (e.lanes i).getLsbD l = true → regionHit s (pa l) = .none → h ≠ .na → (lf l).agg = false →
        isDevice (pa l) = true → ((t.core e.core).line (lineOf (pa l))).serves (pa l % 256) 1 = true)

/-- R27, R61, R87, R90, R180: when a line request of a load returns, each of its lanes' destinations takes the value the
core sees there, sign-extended for a signed type; with the last request the load completes, and until then it holds all its
lanes' destinations. A result computed at issue lands in the same way. (L1 has room for the line: it evicts none.) That the lanes of one line request are read in one event
is log 24, that a present lane's poisoned data is delivered as the bytes held log 29, and that a wide access never tears log
93, all DESIGN CHOICE: the model's choice; a helper lane's poisoned load gives zero (R13). -/
def Obligations.LoadedDataLands : Prop :=
  ∀ (op line : Nat) (s : State) (f : Flight) (d : RegCode), aget? s.flights op = some f → f.dst = some d →
    f.pdst = none → f.preds = [] → DstOk f d ((f.pieces.map (fun p => p.lane)) ++ f.vals.map Prod.fst) →
    (aget? s.groups f.gid).isSome = true → HasRoom s f.core 1 →
    let pres := presentLanes (s.launch (s.team f.team).launch) (s.group f.gid).idx
    let sound := fun (p : Piece) => match p.got, p.pa with
      | some _, _ => True
      | none, .glob pa => s.isPoisoned pa = false ∧ ((s.core f.core).line (lineOf pa)).poison = 0
      | none, .pad t o => (s.team t).padBad o p.w = false
    let ext := fun (w v : Nat) => if f.sext then wrapN 32 (sgn (8 * w) v) else v
    let here := f.pieces.filter (fun p => p.request == line)
    let rest := f.pieces.filter (fun p => p.request != line)
    (f.kind = .result ∨ f.kind = .holding → ∃ t, exec (.loadDataReturn op line) s = .next t ∧ t.mem = s.mem ∧ Completes s t op f ∧
      Lands s t f d f.vals) ∧
    (f.kind = .load → here ≠ [] →
      (∀ p ∈ here, ∀ pa, p.pa = .glob pa → p.got = none → pa % 64 + p.w ≤ 64 ∧ NoPartials s (lineOf pa)) →
      (∀ p ∈ here, pres.getLsbD p.lane = true ∨ sound p) →
      ∃ t, exec (.loadDataReturn op line) s = .next t ∧ t.mem = s.mem ∧
        Lands s t f d (here.map (fun p => (p.lane, if p.got ≠ none ∧ p.bad = true ∧ pres.getLsbD p.lane = false then 0
          else ext p.w (match p.got, p.pa with
          | some x, _ => x
          | none, .glob pa => ofBytes (coreView s f.core pa p.w)
          | none, .pad t o => ofBytes (readBytes (s.team t).pad o p.w)))) ++ if rest = [] then f.vals else []) ∧
        (rest = [] → Completes s t op f) ∧
        (rest ≠ [] → (t.group f.gid).flags = (s.group f.gid).flags ∧ ∃ f', aget? t.flights op = some f' ∧
          f' = { f with pieces := f'.pieces } ∧
          f'.pieces.map (fun p => (p.lane, p.pa)) = rest.map (fun p => (p.lane, p.pa))))

/-- R90, R110, R181: an ST of plain device memory leaves its lanes' bytes dirty in its core's lines, the last lane's where
lanes meet, and every other byte of every line, the home and every register as they were. (A .RO line that an acquire let
stand serves its older bytes no more once a store dirties it: log 80, DEDUCED, the model's choice.)
R119, R181: an STS writes its lanes' bytes in its team's scratchpad, the last lane's where lanes meet, and no other byte
of it, no memory and no register. -/
def Obligations.StoresAtIssue : Prop :=
  (∀ (c : Ctl) (ty : Ty) (h : Hint) (a : RegCode) (b : SrcB) (off : BitVec 32) (s : State) (e : Env) (pa : Nat → Nat)
    (lf : Nat → Leaf),
    let i := Instr.st c ty h a b off
    let w := ty.width / 8
    let lanes := e.lanes i &&& e.pres
    Issues i s e → Settled e → HasRoom s e.core 128 →
    GlobalOk e .write (storeRegion ty) w lanes (fun l => (readSet e.g l a 64 : Int) + off.toInt) pa lf →
    Idle e lanes (fun l => .glob (pa l)) → h ≠ .ro → h ≠ .na →
    (∀ l, lanes.getLsbD l = true → regionHit s (pa l) = .none ∧ (lf l).agg = false ∧ isDevice (pa l) = true ∧
      pa l % 256 + w ≤ 256 ∧ ((s.core e.core).line (lineOf (pa l))).state ≠ .u) →
    ∃ t, exec i s = .next t ∧ Acts e t ∧ t.mem = s.mem ∧ t.teams = s.teams ∧ t.poison = s.poison ∧
      (∀ k, k ≠ e.core → t.core k = s.core k) ∧
      ∀ x, let old := (s.core e.core).line (x / 256)
        let new := (t.core e.core).line (x / 256)
        match writersOf (lanesOf lanes) pa w x with
        | l :: _ => new.state = .d ∧ new.dirty.getLsbD (x % 256) = true ∧
            Store.get new.bytes (x % 256) = (toBytes (readB e.g l b ty.width % 2 ^ (8 * w)) w).getD (x - pa l) 0
        | [] => new.dirty.getLsbD (x % 256) = old.dirty.getLsbD (x % 256) ∧
            (new.valid = if old.kept = true ∧ ∃ l ∈ lanesOf lanes, lineOf (pa l) = x / 256 then 0 else old.valid) ∧
            Store.get new.bytes (x % 256) = Store.get old.bytes (x % 256)) ∧
  (∀ (c : Ctl) (ty : Ty) (a : RegCode) (b : SrcB) (off : BitVec 32) (s : State) (e : Env),
    let i := Instr.sts c ty a b off
    let w := ty.width / 8
    let lanes := e.lanes i &&& e.pres
    let row := fun (l : Nat) => ((readReg e.g 0 a.toNat).toNat : Int) + off.toInt + (w * l : Nat)
    Issues i s e → Settled e → PadOk s e.g.team w lanes row → Idle e lanes (fun l => .pad e.g.team (row l).toNat) →
    ∃ t, exec i s = .next t ∧ Acts e t ∧ t.mem = s.mem ∧ t.poison = s.poison ∧
      (∀ c, (t.core c).l1 = (s.core c).l1) ∧ (∀ n, n ≠ e.g.team → t.team n = s.team n) ∧
      t.team e.g.team = { s.team e.g.team with
        pad := (t.team e.g.team).pad, padPoison := (t.team e.g.team).padPoison } ∧
      ∀ x, Store.get (t.team e.g.team).pad x =
        match writersOf (lanesOf lanes) (fun l => (row l).toNat) w x with
        | l :: _ => (toBytes (readB e.g l b ty.width) w).getD (x - (row l).toNat) 0
        | [] => Store.get e.t.pad x)

/-- R91, R120, R207, R310, R376: a .RO or .NA store, a store to an AGG page, host or peer memory goes in flight to the home,
a store to a declared region's leaves to its apex unit, under one store-origin entry; an STC to its peer's scratchpad.
R91, R120, R310: a store in flight is performed at the home or scratchpad of its pieces, the last one where they meet,
every other byte stays, and its origin's entry counts one write less, or is freed with its last. (That the lanes of an
operation write in one step is log 24, and that a wide write never tears log 93: the model's choice.) -/
def Obligations.StoresGoInFlightAndArrive : Prop :=
  (∀ (c : Ctl) (ty : Ty) (h : Hint) (a : RegCode) (b : SrcB) (off : BitVec 32) (slot : BitVec 2) (s : State) (e : Env)
    (pa : Nat → Nat) (lf : Nat → Leaf), Settled e →
    let w := ty.width / 8
    let val := fun (l : Nat) => readB e.g l b ty.width % 2 ^ (8 * w)
    let origin : Origin := ⟨e.is.pc, e.g.idx, e.t.teamid, e.l.id, e.ctx, true, 1⟩
    (Issues (.st c ty h a b off) s e →
      let i := Instr.st c ty h a b off
      let lanes := e.lanes i &&& e.pres
      let ea := fun (l : Nat) => (readSet e.g l a 64 : Int) + off.toInt
      lanes ≠ 0 → GlobalOk e .write (storeRegion ty) w lanes ea pa lf → Idle e lanes (fun l => .glob (pa l)) →
      (s.core e.core).origins.length < 256 →
      let pieces := (lanesOf lanes).map (fun l =>
        pieceAt w l (.glob (pa l)) (val l) 0 (ea l).toNat (lf l).size (lf l).agg)
      ((∀ l, lanes.getLsbD l = true → regionHit s (pa l) = .none ∧
          (h = .ro ∨ h = .na ∨ (lf l).agg = true ∨ isDevice (pa l) = false)) →
        ∃ t id, exec i s = .next t ∧ Sends e t
          [{ e.flight .through c with flag := none, pieces, origin := some id }] (some (id, origin))) ∧
      (∀ n r, (∀ l, lanes.getLsbD l = true → regionHit s (pa l) = .leaf n r) →
        ∃ t id, exec i s = .next t ∧ n ∈ (t.launch e.t.launch).written ∧ Sends e t
          [{ e.flight (.leaf n false ty) c with flag := none, pieces, origin := some id }] (some (id, origin)))) ∧
    (∀ peer, Issues (.stc c ty a b slot off) s e →
      let i := Instr.stc c ty a b slot off
      let lanes := e.lanes i &&& e.pres
      let row := fun (l : Nat) => ((readReg e.g 0 a.toNat).toNat : Int) + off.toInt + (w * l : Nat)
      lanes ≠ 0 → e.l.isCluster = true → peerTeam s e slot.toNat = some peer → PadOk s peer w lanes row →
      Idle e lanes (fun l => .pad peer (row l).toNat) →
      ∃ t, exec i s = .next t ∧ Sends e t [{ e.flight .through c with
        flag := none
        pieces := (lanesOf lanes).map (fun l => pieceAt w l (.pad peer (row l).toNat) (val l) 0 0 0) }] none)) ∧
  (∀ (op : Nat) (s : State) (f : Flight), aget? s.flights op = some f → f.kind = .through → f.refused = false →
    let counted := fun (t : State) => ∀ n, aget? (t.core f.core).origins n =
      match aget? (s.core f.core).origins n with
      | some o => if f.origin = some n then (if o.count ≤ 1 then none else some { o with count := o.count - 1 }) else some o
      | none => none
    ((∀ p ∈ f.pieces, ∃ pa, p.pa = .glob pa ∧ s.linkLost pa = false ∧ regionHit s pa = .none ∧ NoPartials s (lineOf pa)) →
      ∃ t, exec (.storeAcknowledgement op) s = .next t ∧ t.groups = s.groups ∧ t.teams = s.teams ∧
        t.flights = adel s.flights op ∧ counted t ∧
        ∀ x, Store.get t.mem x =
          match (f.pieces.filter (fun p => match p.pa with
            | .glob pa => decide (pa ≤ x ∧ x < pa + p.w)
            | .pad _ _ => false)).reverse with
          | p :: _ => (match p.pa with | .glob pa => (toBytes p.b p.w).getD (x - pa) 0 | .pad _ _ => 0)
          | [] => Store.get s.mem x) ∧
    (∀ peer y, aget? s.teams peer = some y → (∀ p ∈ f.pieces, ∃ o, p.pa = .pad peer o) →
      ∃ t, exec (.storeAcknowledgement op) s = .next t ∧ t.groups = s.groups ∧ t.mem = s.mem ∧
        t.flights = adel s.flights op ∧ counted t ∧ (∀ n, n ≠ peer → t.team n = s.team n) ∧
        ∀ x, Store.get (t.team peer).pad x =
          match (f.pieces.filter (fun p => decide (p.pa.addr ≤ x ∧ x < p.pa.addr + p.w))).reverse with
          | p :: _ => (toBytes p.b p.w).getD (x - p.pa.addr) 0
          | [] => Store.get y.pad x))



/-- R85, R179, R302: a load, store, prefetch, atomic, acquire, release or RED none of whose lanes passes its checks traps in its
failing present lanes, each with its own cause and address; the trap's cause is the first of ADDR, ALIGN, XLATE and PROT
that some lane met. Where some present lanes fail and some pass, those that pass (and the helper lanes) act as where they
alone are active, and the trap of the others follows. A barrier or ring instruction whose object fails them, and HTDRAIN, THSET and LNCH likewise, traps in
every active present lane. R101, R220, R232: a stale token raises STALEHDL; a table instruction raises PROT on an unclaimed
table and ILLREG where its operands do not fit the table's layout. (Under DET, outside a handler, an atomic waits for its
clock first.) -/
def Obligations.FailingAccessesTrap : Prop :=
  (∀ (c : Ctl) (ty : Ty) (h : Hint) (ord : Ord) (d a k : RegCode) (b : SrcB) (off : BitVec 32) (slot : BitVec 2) (s : State)
    (e : Env) (i : Instr) (w : Nat) (lanes : LaneMask) (ea : Nat → Int) (fails : Nat → Cause → Prop) (late : Bool)
    (bad : Nat → Cause) (cause : Cause),
    let act := fun (i : Instr) => e.lanes i
    let put := fun (i : Instr) => e.lanes i &&& e.pres
    let n := ty.width / 8
    let glob := fun (l : Nat) => (readSet e.g l a 64 : Int) + off.toInt
    let row := fun (l : Nat) => ((readReg e.g 0 a.toNat).toNat : Int) + off.toInt + (n * l : Nat)
    let loc := fun (x : BitVec 32) (l : Nat) =>
      (if a.toNat < 96 then (readSet e.g l a 64 : Int) else (readReg e.g 0 a.toNat).toNat) + x.toInt
    let own := fun (l : Nat) (z : Cause) => PadFails s e.g.team n (row l) z
    let peer := fun (l : Nat) (z : Cause) =>
      if e.l.isCluster = false then z = .prot
      else match peerTeam s e slot.toNat with
        | none => z = .addr
        | some t => PadFails s t n (row l) z
    let at_ := fun (need : Need) (ok : RegionHit → Bool) (x : BitVec 32) (l : Nat) (z : Cause) =>
      if a.toNat < 96 then GlobalFails e need ok n l (loc x l) z else PadFails s e.g.team n (loc x l) z
    (i, w, lanes, ea, fails, late) ∈ ([
        (.ld c ty h d a off, n, act (.ld c ty h d a off), glob, fun l => GlobalFails e .read (loadRegion ty) n l (glob l), false),
        (.st c ty h a b off, n, put (.st c ty h a b off), glob, fun l => GlobalFails e .write (storeRegion ty) n l (glob l), true),
        (.pref c h a off, 1, act (.pref c h a off), glob, fun l => GlobalFails e .read (fun _ => true) 1 l (glob l), false),
        (.lds c ty d a off, n, act (.lds c ty d a off), row, own, false),
        (.sts c ty a b off, n, put (.sts c ty a b off), row, own, true),
        (.ldc c ty d a slot off, n, act (.ldc c ty d a slot off), row, peer, false),
        (.stc c ty a b slot off, n, put (.stc c ty a b slot off), row, peer, true),
        (.atomAdd c ty ord d a b, n, act (.atomAdd c ty ord d a b), loc 0, at_ .both noRegion 0, true),
        (.atomMin c ty ord d a b, n, act (.atomMin c ty ord d a b), loc 0, at_ .both noRegion 0, true),
        (.atomMax c ty ord d a b, n, act (.atomMax c ty ord d a b), loc 0, at_ .both noRegion 0, true),
        (.atomAnd c ty ord d a b, n, act (.atomAnd c ty ord d a b), loc 0, at_ .both noRegion 0, true),
        (.atomOr c ty ord d a b, n, act (.atomOr c ty ord d a b), loc 0, at_ .both noRegion 0, true),
        (.atomXor c ty ord d a b, n, act (.atomXor c ty ord d a b), loc 0, at_ .both noRegion 0, true),
        (.atomExch c ty ord d a b, n, act (.atomExch c ty ord d a b), loc 0, at_ .both noRegion 0, true),
        (.cas c ty ord d a b k, n, act (.cas c ty ord d a b k), loc 0, at_ .both noRegion 0, true),
        (.acq c ty h d a off, n, act (.acq c ty h d a off), loc off, at_ .acquire noRegion off, true),
        (.rel c ty a b off, n, put (.rel c ty a b off), loc off, at_ .localWrite noRegion off, true),
        (.redAdd c ty a b off, n, put (.redAdd c ty a b off), loc off, at_ .localWrite (redRegion 0 ty) off, true),
        (.redMin c ty a b off, n, put (.redMin c ty a b off), loc off, at_ .localWrite (redRegion 1 ty) off, true),
        (.redMax c ty a b off, n, put (.redMax c ty a b off), loc off, at_ .localWrite (redRegion 2 ty) off, true),
        (.redAnd c ty a b off, n, put (.redAnd c ty a b off), loc off, at_ .localWrite (redRegion 3 ty) off, true),
        (.redOr c ty a b off, n, put (.redOr c ty a b off), loc off, at_ .localWrite (redRegion 4 ty) off, true),
        (.redXor c ty a b off, n, put (.redXor c ty a b off), loc off, at_ .localWrite (redRegion 5 ty) off, true)] :
      List (Instr × Nat × LaneMask × (Nat → Int) × (Nat → Cause → Prop) × Bool)) →
    Issues i s e → (late = true → e.l.det = false ∨ e.inh = true) → (∀ l, bad l ≠ .poison) →
    (e.accessHeld = false → (late = true → Settled e) →
      lanes &&& e.pres = lanes → (∀ l, lanes.getLsbD l = true → fails l (bad l)) → FirstCause lanes bad cause →
      Deliverable e cause lanes →
      TrapsAt i s e cause lanes ((lanesOf lanes).map (fun l => (l, bad l, wrapN 49 (ea l))))) ∧
    (∀ (m : LaneMask) (t : State), m ≠ 0 → m &&& (lanes &&& e.pres) = m → (∀ l, m.getLsbD l = true → fails l (bad l)) →
      (∀ l, (lanes &&& e.pres &&& ~~~ m).getLsbD l = true → ∀ z, ¬ fails l z) → lanes &&& e.pres ≠ m →
      FirstCause m bad cause → Deliverable e cause m →
      exec i (without s e m) = .next t → t ≠ without s e m →
      ∃ u v, exec i s = .next v ∧ BeforeRetiring e u t ∧ (v.group e.gid).lclk = e.g.lclk ∧
        TrapEntered { e with s := u, g := u.group e.gid } v {
          core := e.core, port := e.port, gid := e.gid, gang := e.is.quads, cause, lanes := m
          each := (lanesOf m).map (fun l => (l, bad l, wrapN 49 (ea l))), resume := e.is.pc, rem := e.is.rem, hdr := false
          after := false, seta := e.is.seta, setb := e.is.setb, hoff := e.is.hoff, pc := e.is.pc })) ∧
  (∀ (c : Ctl) (gl dgl : Bool) (a k bs d : RegCode) (b : SrcB) (pd : PredCode) (tab : BitVec 2) (hs : BitVec 4) (raw : Bool)
    (disp : BitVec 32) (s : State) (e : Env) (i : Instr) (z : Cause) (ad : Nat),
    let lanes := e.lanes i &&& e.pres
    Issues i s e → e.accessHeld = false → e.flagFull c = false → Deliverable e z lanes → z ≠ .poison →
    (i ∈ [Instr.binit c gl a b, .arrive c gl a, .expect c gl a b, .wait c gl pd a b, .rgive c gl a] →
      e.objCheck (e.object gl a) 16 = some (z, ad) → TrapsAll i s e z lanes (ad % 2 ^ 49)) ∧
    (∀ l, i = .rinit c gl a b k → lowestLane lanes = some l →
      e.objCheck (e.object gl a) (16 + 16 * ringSlots (readB e.g l b 32 % 2 ^ 32)) = some (z, ad) →
      TrapsAll i s e z lanes (ad % 2 ^ 49)) ∧
    (i ∈ [Instr.thset c hs d a, .lnch c d a disp] →
      checkPadSpan s e.g.team 64 (readReg e.g 0 a.toNat).toNat 64 = some (z, ad) → TrapsAll i s e z lanes (ad % 2 ^ 49)) ∧
    (∀ toks, (i, toks) ∈ [(Instr.thdrop c a, [a]), (.thdropRevoke c a, [a]), (.cpy c gl a bs k, [a, bs]),
        (.cpyg c gl a bs k, [a, bs]), (.cpys c gl a bs k, [a, bs]), (.cpysRadd c gl a bs k, [a, bs]),
        (.cpyr c gl a bs k, [a, bs])] → z = .stalehdl →
      (∃ r ∈ toks, ∀ slot desc, ¬ TokenNames e.t (readReg e.g 0 r.toNat) slot desc) → TrapsAll i s e z lanes 0) ∧
    (let t := e.t.table tab.toNat
     let bw := if t.vty = .fx64 ∧ raw = false then 32 else t.vw
     let dw := if t.vw = 32 then 64 else 128
     let breg := match b with | .reg r => [(r, bw)] | _ => []
     (i ∈ [Instr.htins c tab raw d pd a b, .htprobe c tab d pd a, .htdel c tab d a, .htacc c tab raw a b,
          .htaccRes c tab raw d a b, .htdrain c tab dgl gl a bs k] → t.claimed = false → z = .prot → TrapsAll i s e z lanes 0) ∧
     (∀ regs, (i, regs) ∈ [(Instr.htins c tab raw d pd a b, (a, t.kw) :: breg ++ [(d, dw)]),
          (.htprobe c tab d pd a, [(a, t.kw), (d, dw)]), (.htdel c tab d a, [(a, t.kw), (d, 32)]),
          (.htacc c tab raw a b, (a, t.kw) :: breg), (.htaccRes c tab raw d a b, (a, t.kw) :: breg ++ [(d, dw)])] →
        t.claimed = true → (∃ x ∈ regs, regOk e.l.vregs x.1 x.2 = false) → z = .illreg → TrapsAll i s e z lanes 0) ∧
     (i = .htdrain c tab dgl gl a bs k → t.claimed = true →
        let n := 16 + t.recBytes * (readReg e.g 0 bs.toNat).toNat
        (match e.object dgl a with
          | .glob va => checkSpan s e.core e.ctx e.inh .write noRegion 16 va n
          | .pad m o => checkPadSpan s m 16 o n) = some (z, ad) → TrapsAll i s e z lanes (ad % 2 ^ 49))))

/-! ## Synchronisation -/

/-- R183, R184, R187, R310: ATOM, CAS and ACQ outside the minimum-clock rule go in flight with a piece per active present
lane and zero for helper lanes; the writing ones take a store-origin entry. (No HMLOST is pending for the gang. That an
operation without such a lane is a result is log 38: the model's choice.) -/
def Obligations.AtomicsGoInFlight : Prop :=
  ∀ (c : Ctl) (ty : Ty) (ord : Ord) (h : Hint) (d a : RegCode) (b : SrcB) (k : RegCode) (off : BitVec 32) (s : State)
    (e : Env) (pa : Nat → Nat) (lf : Nat → Leaf) (i : Instr) (kind : FlightKind) (shift : BitVec 32) (hint : Hint)
    (writes : Bool) (B K : Nat → Nat),
    let opB := fun (l : Nat) => readB e.g l b ty.width
    let none_ := fun (_ : Nat) => 0
    (i, kind, shift, hint, writes, B, K) ∈ [
      (Instr.atomAdd c ty ord d a b, FlightKind.atomic 0 ty ord, 0, Hint.ca, true, opB, none_),
      (.atomMin c ty ord d a b, .atomic 1 ty ord, 0, .ca, true, opB, none_),
      (.atomMax c ty ord d a b, .atomic 2 ty ord, 0, .ca, true, opB, none_),
      (.atomAnd c ty ord d a b, .atomic 3 ty ord, 0, .ca, true, opB, none_),
      (.atomOr c ty ord d a b, .atomic 4 ty ord, 0, .ca, true, opB, none_),
      (.atomXor c ty ord d a b, .atomic 5 ty ord, 0, .ca, true, opB, none_),
      (.atomExch c ty ord d a b, .atomic 6 ty ord, 0, .ca, true, opB, none_),
      (.cas c ty ord d a b k, .atomic 7 ty ord, 0, .ca, true, opB, fun l => readSet e.g l k ty.width),
      (.acq c ty h d a off, .acquire (h == .ro), off, h, false, none_, none_)] →
    Issues i s e → (e.l.det = false ∨ e.inh = true) → Quiet e → e.flagFull c = false →
    (s.core e.core).origins.length < 256 → lostLanes e.g e.is.quads = 0 →
    let w := ty.width / 8
    let lanes := e.lanes i &&& e.pres
    let ea := fun (l : Nat) => (if a.toNat < 96 then (readSet e.g l a 64 : Int) else (readReg e.g 0 a.toNat).toNat) +
      shift.toInt
    let place := fun (l : Nat) => if a.toNat < 96 then Place.glob (pa l) else .pad e.g.team (ea l).toNat
    (if a.toNat < 96 then GlobalOk e (if writes then .both else .acquire) noRegion w lanes ea pa lf
      else PadOk s e.g.team w lanes ea) → Idle e lanes place →
    let sole := decide (lanes = 0)
    ∃ t id, exec i s = .next t ∧ Sends e t [{ e.flight (if sole then .result else kind) c with
        pieces := (lanesOf lanes).map (fun l =>
          pieceAt w l (place l) (B l) (K l) (ea l).toNat (if a.toNat < 96 then (lf l).size else 0)
            (decide (a.toNat < 96) && (lf l).agg))
        dst := some d, width := max 4 w, vals := (lanesOf (e.lanes i &&& ~~~ e.pres)).map (fun l => (l, 0))
        lanes := e.lanes i, args := [(presentOf e i).headD 128, e.is.seta, e.is.setb, b2n e.inh], hint
        origin := if writes && !sole then some id else none }]
      (if writes && !sole then some (id, ⟨e.is.pc, e.g.idx, e.t.teamid, e.l.id, e.ctx, true, 1⟩) else none)

/-- R183, R184: the values of the atomic operations.
R105, R114, R117, R183 to R187: an ATOM or CAS in flight whose turn has come takes its lanes' atomic steps in order, on
memory or in the scratchpad, an ACQ reads; the old values land and the operation completes. (No dirty or update-only
copy of the lines, none that lags, no releaser to pull and no slice full of records: `PullsPublishAndWriteBack` says what
those do.) That all lanes of an operation take their steps in one event is log 24, DESIGN CHOICE, that a wide access never
tears log 93, DESIGN CHOICE, that after an acquire a dirty line serves its dirty bytes alone log 80, DEDUCED, and that a local
acquire of a core that has not yet self-invalidated for the line's releases does so log 96, DEDUCED: the model's choice. -/
def Obligations.AtomicOperationsAtHome : Prop :=
  (∀ (ty : Ty) (old b k : Nat), ty ∈ [Ty.i32, .n32, .i64, .n64, .b32, .b64, .f32] → old < 2 ^ ty.width → b < 2 ^ ty.width →
    k < 2 ^ ty.width →
    (ty ≠ .f32 → atomicNew 0 ty old b k = some ((old + b) % 2 ^ ty.width)) ∧
    (∃ v, atomicNew 0 .f32 old b k = some v ∧ (ty = .f32 →
      Rounds .f32 .rne (exactAdd .rne (exactOf (value .f32 old)) (exactOf (value .f32 b))) v)) ∧
    (∃ v, atomicNew 1 ty old b k = some v ∧ (ty.isInt = true → v < 2 ^ ty.width ∧
      asInt ty v = min (asInt ty old) (asInt ty b))) ∧
    (∃ v, atomicNew 2 ty old b k = some v ∧ (ty.isInt = true → v < 2 ^ ty.width ∧
      asInt ty v = max (asInt ty old) (asInt ty b))) ∧
    atomicNew 3 ty old b k = some (old &&& b) ∧ atomicNew 4 ty old b k = some (old ||| b) ∧
    atomicNew 5 ty old b k = some (old ^^^ b) ∧ atomicNew 6 ty old b k = some b ∧
    atomicNew 7 ty old b k = if old = b then some k else none) ∧
  (∀ (id : Nat) (s : State) (f : Flight) (d : RegCode), aget? s.flights id = some f → f.dst = some d → f.pdst = none →
    f.preds = [] → f.refused = false → DstOk f d (f.vals.map Prod.fst ++ f.pieces.map (fun p => p.lane)) →
    GroupReady s f → NoneLags s f.core f.pieces.length → RecordRoom s f.pieces.length →
    (∀ p ∈ f.pieces, (∃ a, p.pa = .glob a ∧ a % 256 + p.w ≤ 256 ∧ CleanFor s f.core a ∧
        NothingToPull s f.core (lineOf a)) ∨
      ∃ o, p.pa = .pad f.team o ∧ (aget? s.teams f.team).isSome = true) →
    let global := ∀ p ∈ f.pieces, ∃ a, p.pa = .glob a
    let pad := ∀ p ∈ f.pieces, ∃ o, p.pa = .pad f.team o
    (∀ op ty ord, f.kind = .atomic op ty ord → orderHolds s f.gid id (Ord.rel ord) (Ord.acq ord) = false →
      readsOpen s f.gid id = false →
      (global → ∃ t, exec (.atomicStepAtHome id) s = .next t ∧ Completes s t id f ∧
        Lands s t f d (f.vals ++ (atomicRun op ty f.pieces s.mem).1) ∧
        ∀ x, Store.get t.mem x = Store.get (atomicRun op ty f.pieces s.mem).2 x) ∧
      (pad → ∃ t, exec (.atomicStepAtHome id) s = .next t ∧ Completes s t id f ∧ t.mem = s.mem ∧
        Lands s t f d (f.vals ++ (atomicRun op ty f.pieces (s.team f.team).pad).1) ∧
        ∀ x, Store.get (t.team f.team).pad x = Store.get (atomicRun op ty f.pieces (s.team f.team).pad).2 x)) ∧
    (∀ ro, f.kind = .acquire ro → releaseOpen s f.gid id = false →
      ∃ t, exec (.remoteAcquire id) s = .next t ∧ Completes s t id f ∧ t.mem = s.mem ∧
        Lands s t f d (f.vals ++ f.pieces.map (fun p => (p.lane, ofBytes (bytesAt s p.pa p.w)))) ∧
        (∀ p ∈ f.pieces, ∀ a, p.pa = .glob a →
          acquireLocal s f.core (lineOf a) = false ∨ f.core ∉ (s.hallmark (lineOf a)).synced →
          ∀ y ∈ (t.core f.core).l1, y.2.state ≠ .c ∧ (y.2.state = .d → y.2.valid = 0) ∧
            (ro = true → y.2.state ≠ .r))))


/-- R90, R112, R115: a pull writes back each dirty line of the core whose EFIRST precedes or equals the count: its dirty
bytes stand at the home afterwards and the line is clean; no other line, and no byte that was not dirty there, changes.
R90, R113, R118: an evicted line leaves its core, its dirty bytes at the home; a recall leaves no update-only copy of a
line anywhere, and combines a sole copy's partials into the home; an evicted home line has no record. -/
def Obligations.PullsPublishAndWriteBack : Prop :=
  (∀ (core : Nat) (upTo : Word) (s : State), (∀ x ∈ (s.core core).l1, x.2.state ≠ .u) →
    (∀ x ∈ (s.core core).l1, NoPartials s x.1) → ((s.core core).l1.map Prod.fst).Nodup →
    let covered := fun (x : Line) => x.state = .d ∧ (upTo - x.efirst).toNat < 2 ^ 31
    ∃ t, exec (.pullCore core upTo) s = .next t ∧ t.groups = s.groups ∧ t.flights = s.flights ∧
      (∀ k, k ≠ core → t.core k = s.core k) ∧
      (∀ line x, aget? (s.core core).l1 line = some x →
        (covered x → ∃ y, aget? (t.core core).l1 line = some y ∧ y.state = .c ∧ y.dirty = 0 ∧ y.bytes = x.bytes) ∧
        (¬ covered x → aget? (t.core core).l1 line = some x)) ∧
      ∀ a, Store.get t.mem a =
        match aget? (s.core core).l1 (a / 256) with
        | some x => if covered x ∧ x.dirty.getLsbD (a % 256) = true then Store.get x.bytes (a % 256) else Store.get s.mem a
        | none => Store.get s.mem a) ∧
  (∀ (core line : Nat) (s : State), (s.cores.map Prod.fst).Nodup →
    (∀ x, aget? (s.core core).l1 line = some x → x.state ≠ .u → NoPartials s line →
      ∃ t, exec (.l1Eviction core line) s = .next t ∧ aget? (t.core core).l1 line = none ∧ t.groups = s.groups ∧
        (∀ n, n ≠ line → aget? (t.core core).l1 n = aget? (s.core core).l1 n) ∧
        ∀ a, Store.get t.mem a =
          if x.state = .d ∧ a / 256 = line ∧ x.dirty.getLsbD (a % 256) = true then Store.get x.bytes (a % 256)
          else Store.get s.mem a) ∧
    (∃ t, exec (.updateOnlyRecall line) s = .next t ∧ NoPartials t line ∧ t.groups = s.groups ∧
      (∀ k n, n ≠ line → aget? (t.core k).l1 n = aget? (s.core k).l1 n) ∧
      (NoPartials s line → t = s) ∧
      ∀ k x kind, aget? (s.core k).l1 line = some x → x.state = .u → x.red = some kind → x.held.Nodup →
        (∀ o ∈ x.held, o % (kind.ty.width / 8) = 0) →
        (∀ j ∈ s.cores, j.1 ≠ k → ∀ y, aget? j.2.l1 line = some y → y.state ≠ .u) →
        ∀ o ∈ x.held, readBytes t.mem (256 * line + o) (kind.ty.width / 8) =
          toBytes (combine kind.op kind.ty (ofBytes (readBytes s.mem (256 * line + o) (kind.ty.width / 8)))
            (Store.get x.partials o).toNat) (kind.ty.width / 8)) ∧
    (∃ t, exec (.homeEviction line) s = .next t ∧ aget? t.hallmarks line = none ∧ t.groups = s.groups ∧
      (∀ n, n ≠ line → aget? t.hallmarks n = aget? s.hallmarks n) ∧
      ((s.hallmark line).pend = [] → t = { s with hallmarks := t.hallmarks })))

/-- R112 to R116: what a core wrote before a release, the acquirer reads after it: an acquire on a line whose record names
another core completes only after that core's covered dirty bytes stand at the home, and the acquiring core holds no clean
copy that could hide them. (DEDUCED by joining the steps of the rules: the model's own headline.) -/
def Obligations.AcquirersSeeReleasedBytes : Prop :=
  ∀ (id : Nat) (s : State) (f : Flight) (d : RegCode) (p : Piece) (a : Nat) (ro : Bool) (m : Nat) (x : HmEntry)
    (line : Nat) (y : Line) (i : Nat),
    aget? s.flights id = some f → f.kind = .acquire ro → f.dst = some d → f.pdst = none → f.preds = [] →
    f.pieces = [p] → p.pa = .glob a → releaseOpen s f.gid id = false → CleanFor s f.core a → GroupReady s f →
    (s.hallmark (lineOf a)).pend = [(m, x)] → x.core ≠ f.core → x.inc = (s.core x.core).incarnation →
    aget? (s.core x.core).l1 line = some y → y.state = .d → (x.e - y.efirst).toNat < 2 ^ 31 → i < 256 →
    y.dirty.getLsbD i = true →
    (∀ z ∈ (s.core x.core).l1, z.2.state ≠ .u ∧ NoPartials s z.1) → ((s.core x.core).l1.map Prod.fst).Nodup →
    (∀ z, aget? (s.core f.core).l1 line = some z → z.state = .c) →
    ∃ t, exec (.remoteAcquire id) s = .next t ∧ Completes s t id f ∧
      Store.get t.mem (256 * line + i) = Store.get y.bytes i ∧
      coreView t f.core (256 * line + i) 1 = [Store.get y.bytes i]


/-- R118, R186, R207, R325: a RED on device memory combines its lanes, those that meet at a place one after another, into
the core's update-only copy, from the operation's identity where it holds no partial, and leaves the home as it was; one on an
AGG page, which no L1 holds, and one on the scratchpad act there; one on a declared region goes in flight to its apex unit.
(That the lanes of a scratchpad RED act in one step is log 24, and that no access tears log 93: the model's choice.) -/
def Obligations.RedsGather : Prop :=
  ∀ (c : Ctl) (ty : Ty) (a : RegCode) (b : SrcB) (off : BitVec 32) (s : State) (e : Env) (pa : Nat → Nat) (lf : Nat → Leaf)
    (i : Instr) (op : Nat),
    (i, op) ∈ [(Instr.redAdd c ty a b off, 0), (.redMin c ty a b off, 1), (.redMax c ty a b off, 2),
      (.redAnd c ty a b off, 3), (.redOr c ty a b off, 4), (.redXor c ty a b off, 5)] →
    Issues i s e → Settled e → HasRoom s e.core 128 →
    let w := ty.width / 8
    let lanes := e.lanes i &&& e.pres
    let val := fun (l : Nat) => readB e.g l b ty.width % 2 ^ ty.width
    let ea := fun (l : Nat) => (if a.toNat < 96 then (readSet e.g l a 64 : Int) else (readReg e.g 0 a.toNat).toNat) +
      off.toInt
    (a.toNat < 96 → GlobalOk e .localWrite (redRegion op ty) w lanes ea pa lf → Idle e lanes (fun l => .glob (pa l)) →
      ((∀ l, lanes.getLsbD l = true → regionHit s (pa l) = .none ∧
          (∀ x, aget? (s.core e.core).l1 (lineOf (pa l)) = some x → x.state ≠ .d ∧ (x.state = .u → x.red = some ⟨op, ty⟩)) ∧
          (∀ k ∈ s.cores, ∀ x, aget? k.2.l1 (lineOf (pa l)) = some x → x.state = .u → x.red = some ⟨op, ty⟩)) →
        (∀ l, lanes.getLsbD l = true → (lf l).agg = false) →
        ∃ t, exec i s = .next t ∧ Acts e t ∧ t.mem = s.mem ∧ t.teams = s.teams ∧
          ∀ l, lanes.getLsbD l = true →
            let old := (s.core e.core).line (lineOf (pa l))
            let new := (t.core e.core).line (lineOf (pa l))
            new.state = .u ∧ new.red = some ⟨op, ty⟩ ∧ pa l % 256 ∈ new.held ∧
            Store.get new.partials (pa l % 256) = ((lanesOf lanes).filter (fun m => pa m == pa l)).foldl
              (fun v m => BitVec.ofNat 64 (combine op ty v.toNat (val m)))
              (if old.state = .u ∧ pa l % 256 ∈ old.held then Store.get old.partials (pa l % 256)
                else BitVec.ofNat 64 (identityOf ⟨op, ty⟩))) ∧
      ((∀ l, lanes.getLsbD l = true → regionHit s (pa l) = .none ∧ (lf l).agg = true ∧ CleanFor s e.core (pa l)) →
        ∃ t, exec i s = .next t ∧ Acts e t ∧ t.teams = s.teams ∧
          (∀ k line, aget? (s.core k).l1 line = none → aget? (t.core k).l1 line = none) ∧
          (∀ l, lanes.getLsbD l = true → aget? (t.core e.core).l1 (lineOf (pa l)) = none) ∧
          ∀ x, Store.get t.mem x = Store.get ((lanesOf lanes).foldl (fun m l =>
            writeBytes m (pa l) (toBytes (combine op ty (ofBytes (readBytes m (pa l) w)) (val l)) w)) s.mem) x) ∧
      (∀ n r, (s.core e.core).origins.length < 256 → lanes ≠ 0 →
        (∀ l, lanes.getLsbD l = true → regionHit s (pa l) = .leaf n r) →
        ∃ t id, exec i s = .next t ∧ Sends e t [{ e.flight (.leaf n true ty) c with
            flag := none, origin := some id
            pieces := (lanesOf lanes).map (fun l =>
              pieceAt w l (.glob (pa l)) (val l) 0 (ea l).toNat (lf l).size (lf l).agg) }]
          (some (id, ⟨e.is.pc, e.g.idx, e.t.teamid, e.l.id, e.ctx, true, 1⟩)))) ∧
    (96 ≤ a.toNat → PadOk s e.g.team w lanes ea → Idle e lanes (fun l => .pad e.g.team (ea l).toNat) →
      (aget? s.teams e.g.team).isSome = true →
      ∃ t, exec i s = .next t ∧ Acts e t ∧ t.mem = s.mem ∧
        ∀ x, Store.get (t.team e.g.team).pad x = Store.get ((lanesOf lanes).foldl (fun m l =>
          writeBytes m (ea l).toNat (toBytes (combine op ty (ofBytes (readBytes m (ea l).toNat w)) (val l)) w)) e.t.pad) x)

/-- R114, R188, R121, R189, R310: REL goes in flight under a store-origin entry; once every earlier access of its group has
been performed, and not before, it writes at the home or scratchpad, advances the core's release count and records it in the
line's Hallmark; FENCE makes later accesses wait for every earlier one: while one is open, no memory access of the group
issues. (No slice is full of records. That a wide release never tears is log 93, DESIGN CHOICE, and that it leaves no other
core's acquire of the line local without a self-invalidation log 96, DEDUCED: the model's choice.) -/
def Obligations.ReleasesAndFences : Prop :=
  ∀ (c : Ctl) (ty : Ty) (a : RegCode) (b : SrcB) (off : BitVec 32) (s : State) (e : Env) (pa : Nat → Nat) (lf : Nat → Leaf),
    (Issues (.rel c ty a b off) s e → Quiet e →
      let i := Instr.rel c ty a b off
      let w := ty.width / 8
      let lanes := e.lanes i &&& e.pres
      let ea := fun (l : Nat) => (if a.toNat < 96 then (readSet e.g l a 64 : Int) else (readReg e.g 0 a.toNat).toNat) +
        off.toInt
      let place := fun (l : Nat) => if a.toNat < 96 then Place.glob (pa l) else .pad e.g.team (ea l).toNat
      lanes ≠ 0 → (s.core e.core).origins.length < 256 →
      (if a.toNat < 96 then GlobalOk e .localWrite noRegion w lanes ea pa lf else PadOk s e.g.team w lanes ea) →
      Idle e lanes place →
      ∃ t id, exec i s = .next t ∧ Sends e t [{ e.flight .release c with
          flag := none, origin := some id
          pieces := (lanesOf lanes).map (fun l => pieceAt w l (place l) (readB e.g l b ty.width % 2 ^ (8 * w)) 0
            (ea l).toNat (if a.toNat < 96 then (lf l).size else 0) (decide (a.toNat < 96) && (lf l).agg)) }]
        (some (id, ⟨e.is.pc, e.g.idx, e.t.teamid, e.l.id, e.ctx, true, 1⟩))) ∧
    (∀ id f p, aget? s.flights id = some f → f.kind = .release → f.refused = false → earlierOpen s f.gid id = false →
      f.pieces = [p] →
      (∀ x, p.pa = .glob x → x % 256 + p.w ≤ 256 → CleanFor s f.core x → (s.hallmark (lineOf x)).fullFor f.core = false →
        NoneLags s f.core 1 → RecordRoom s 1 →
        ∃ t y, exec (.releaseAtHome id) s = .next t ∧ t.groups = s.groups ∧ t.flights = adel s.flights id ∧
          (∀ z, Store.get t.mem z = if x ≤ z ∧ z < x + p.w then (toBytes p.b p.w).getD (z - x) 0 else Store.get s.mem z) ∧
          (t.core f.core).release = (s.core f.core).release + 1 ∧
          y ∈ (t.hallmark (lineOf x)).pend ∧
          y.2 = ⟨f.core, (s.core f.core).incarnation, (s.core f.core).release⟩ ∧
          (t.hallmark (lineOf x)).lv = true ∧ (t.hallmark (lineOf x)).lcore = f.core ∧
          ∀ k ∈ (t.hallmark (lineOf x)).synced, k = f.core) ∧
      (∀ n o, p.pa = .pad n o → (aget? s.teams n).isSome = true →
        ∃ t, exec (.releaseAtHome id) s = .next t ∧ t.groups = s.groups ∧ t.mem = s.mem ∧
          t.flights = adel s.flights id ∧
          ∀ z, Store.get (t.team n).pad z =
            if o ≤ z ∧ z < o + p.w then (toBytes p.b p.w).getD (z - o) 0 else Store.get (s.team n).pad z)) ∧
    (∀ id f, aget? s.flights id = some f → f.kind = .release → earlierOpen s f.gid id = true →
      exec (.releaseAtHome id) s = .next s) ∧
    (Issues .fence s e → ∃ t, exec .fence s = .next t ∧ Retires e (s.setGroup e.gid { e.g with fence := s.nextId }) t) ∧
    (∀ h d k slot ord pd gl i, i ∈ [Instr.ld c ty h d a off, .st c ty h a b off, .pref c h a off, .lds c ty d a off,
        .sts c ty a b off, .ldc c ty d a slot off, .stc c ty a b slot off, .atomAdd c ty ord d a b, .atomMin c ty ord d a b,
        .atomMax c ty ord d a b, .atomAnd c ty ord d a b, .atomOr c ty ord d a b, .atomXor c ty ord d a b,
        .atomExch c ty ord d a b, .cas c ty ord d a b k, .acq c ty h d a off, .rel c ty a b off, .redAdd c ty a b off,
        .redMin c ty a b off, .redMax c ty a b off, .redAnd c ty a b off, .redOr c ty a b off, .redXor c ty a b off,
        .binit c gl a b, .arrive c gl a, .expect c gl a b, .wait c gl pd a b, .rinit c gl a b k, .rgive c gl a] →
      Issues i s e → e.lanes i &&& e.pres ≠ 0 → 0 < e.g.fence → earlierOpen s e.gid e.g.fence = true → exec i s = .next s)

/-- R179, R191 to R195: BINIT writes a fresh object, EXPECT adds to BEXP and may complete the phase, in one step on the
object, and retire; ARRIVE with no armed flag sends its lanes' arrivals, which add to ARR and may complete the phase (the
object's phase ends nothing else that waits: no launch's dependence, no MMAT's trigger). R81: with an armed flag ARRIVE raises
SATURATE in its active present lanes. Without an active present lane each of them, WAIT, RINIT and RGIVE retire and do
nothing. -/
def Obligations.BarrierUpdates : Prop :=
  ∀ (c : Ctl) (gl : Bool) (a : RegCode) (b : SrcB) (s : State) (e : Env) (pa : Place),
    let p := e.object gl a
    let B := fun (l : Nat) => readB e.g l b 32 % 2 ^ 32
    let kept := fun (t : State) => Acts e t ∧ (t.group e.gid).lclk = (if e.inh then e.g.lclk else e.g.lclk + 1) ∧
      (∀ n, n ≠ e.g.team → (t.team n).pad = (s.team n).pad) ∧
      (∀ x, (∀ o, pa = .glob o → x < o ∨ o + 16 ≤ x) → Store.get t.mem x = Store.get s.mem x) ∧
      (∀ x, (∀ n o, pa = .pad n o → n ≠ e.g.team ∨ x < o ∨ o + 16 ≤ x) →
        Store.get (t.team e.g.team).pad x = Store.get e.t.pad x)
    (∀ pd k i, i ∈ [Instr.binit c gl a b, .arrive c gl a, .expect c gl a b, .wait c gl pd a b, .rinit c gl a b k,
        .rgive c gl a] → Issues i s e → e.lanes i &&& e.pres = 0 → ∃ t, exec i s = .next t ∧ Retires e s t) ∧
    (Issues (.arrive c gl a) s e → ObjReady e p pa 16 → armedSet e.g.sticky = true →
      let lanes := e.lanes (.arrive c gl a) &&& e.pres
      Deliverable e .saturate lanes → TrapsAll (.arrive c gl a) s e .saturate lanes 0) ∧
    (NothingWaits s →
    (∀ l, readsOpen s e.gid s.nextId = false → Issues (.binit c gl a b) s e → ObjReady e p pa 16 → lowestLane (e.lanes (.binit c gl a b) &&& e.pres) = some l →
      ∃ t, exec (.binit c gl a b) s = .next t ∧ kept t ∧
        bytesAt t pa 16 = barBytes ⟨0, if 1 ≤ B l ∧ B l ≤ 32767 then B l else 0, false, 0, 0, 0⟩) ∧
    (∀ l, readsOpen s e.gid s.nextId = false → Issues (.expect c gl a b) s e → ObjReady e p pa 16 → lowestLane (e.lanes (.expect c gl a b) &&& e.pres) = some l →
      let o := parseBar (bytesAt s pa 16)
      ∃ t, exec (.expect c gl a b) s = .next t ∧ kept t ∧
        bytesAt t pa 16 = barBytes (completed { o with bexp := (o.bexp + readB e.g l b 32) % 2 ^ 32 })) ∧
    (Issues (.arrive c gl a) s e → ObjReady e p pa 16 → e.lanes (.arrive c gl a) &&& e.pres ≠ 0 → armedSet e.g.sticky = false →
      ∃ t, exec (.arrive c gl a) s = .next t ∧ Sends e t [{ e.flight
          (.arrive (presentOf e (.arrive c gl a)).length e.g.lclk) c with
        flag := none, pieces := [pieceAt 16 0 pa 0 0 p.addr (e.pageBits p)] }] none) ∧
    (∀ id f n clk q, aget? s.flights id = some f → f.kind = .arrive n clk → f.refused = false →
      earlierOpen s f.gid id = false → f.pieces = [q] → q.pa = pa →
      (∀ x, pa = .glob x → NothingToPull s f.core (lineOf x) ∧ CleanFor s f.core x ∧ NoneLags s f.core 1 ∧ RecordRoom s 1) →
      (∀ m x, pa = .pad m x → (aget? s.teams m).isSome = true) →
      let o := parseBar (bytesAt s pa 16)
      ∃ t, exec (.releaseAtHome id) s = .next t ∧ t.groups = s.groups ∧ t.flights = adel s.flights id ∧
        bytesAt t pa 16 = barBytes (completed { o with arr := min (o.arr + n) 32767 })))

/-- R20, R115, R196: a WAIT whose phase has passed writes PD in its active lanes, false when the completion was forced and
none has followed, and retires (on a scratchpad object once no release of the group is open, R105); on a global object it
first acquires, in flight; else the gang stands blocked at the WAIT
and its port is free, until the phase passes. (The clock with which a group of a DET team goes on is log 97, DEDUCED; that an
acquire of a core that has not yet self-invalidated does so log 96, DEDUCED: the model's choice.) -/
def Obligations.WaitsBlockAndWake : Prop :=
  ∀ (c : Ctl) (gl : Bool) (pd : PredCode) (a : RegCode) (b : SrcB) (s : State) (e : Env) (pa : Place) (l : Nat),
    let i := Instr.wait c gl pd a b
    let p := e.object gl a
    let ph := readB e.g l b 32 % 2 ^ 32
    let o := parseBar (bytesAt s pa 16)
    let ok := !(o.err && o.phase == (ph + 1) % 2 ^ 32)
    (Issues i s e → ObjReady e p pa 16 → lowestLane (e.lanes i &&& e.pres) = some l →
      (Passed o.phase ph → releaseOpen s e.gid s.nextId = false → (∀ n x, pa = .pad n x →
        ∃ t, exec i s = .next t ∧ PredHolds e t (e.lanes i) pd (fun _ v => v = ok) ∧ t.mem = s.mem ∧
          (∀ n, t.team n = { s.team n with phaseAt := (t.team n).phaseAt }) ∧
          (∀ l r, readReg (t.group e.gid) l r = readReg e.g l r) ∧
          (∀ l q, ¬ (q = pd ∧ (e.lanes i).getLsbD l = true) → readPred (t.group e.gid) l q = readPred e.g l q) ∧
          (t.group e.gid).sticky = e.g.sticky ∧ MovesOn e t ∧
          (∀ g, g ≠ e.gid → t.group g = { s.group g with base := (t.group g).base }))) ∧
      (Passed o.phase ph → ∀ x, pa = .glob x →
        ∃ t f, exec i s = .next t ∧ aget? t.flights s.nextId = some f ∧ f.kind = .waitAcquire ∧ f.pdst = some pd ∧
          f.lanes = e.lanes i ∧ f.flag = none ∧ f.pieces = [pieceAt 16 l pa ph 0 p.addr (e.pageBits p)] ∧ MovesOn e t ∧
          t.mem = s.mem ∧ ∀ l r, readReg (t.group e.gid) l r = readReg e.g l r) ∧
      (¬ Passed o.phase ph → (∀ x ∈ e.g.quads, x.2.regang = none) →
        (∀ x, pa = .glob x → aget? (s.core e.core).l1 (lineOf x) = none) →
        ∃ t, exec i s = .next t ∧ GangFrame e t 0 ∧
          t.group e.gid = { e.g with quads := (t.group e.gid).quads } ∧
          ∀ q x, aget? e.g.quads q = some x → ∃ y, aget? (t.group e.gid).quads q = some y ∧
            if e.is.quads.getLsbD q then y = { x with
              kind := .remainder, pc := e.is.pc, rem := e.is.rem, seta := e.is.seta, setb := e.is.setb, hoff := e.is.hoff
              only := e.is.only.map (fun m => laneNibble m q), waiting := some ⟨p, BitVec.ofNat 32 ph⟩, stamp := none }
            else y = x)) ∧
    (∀ gid q x w o', aget? (s.group gid).quads q = some x → x.waiting = some w →
      peekBar s (ctxOf s (s.group gid)) w.obj = some o' → stopped s (ctxOf s (s.group gid)) (s.group gid) = false →
      (Passed o'.phase w.phase.toNat → ∃ t y, exec (.waitWake gid q) s = .next t ∧
        t = s.setGroup gid { s.group gid with lclk := (t.group gid).lclk, quads := (t.group gid).quads } ∧
        (t.group gid).lclk = (if (s.launch (s.team (s.group gid).team).launch).det = true ∧ (s.group gid).blocked = true ∧
            (s.group gid).frame.tstate.getLsbD 10 = false then BitVec.ofNat 64 (clockOf s (s.group gid))
          else (s.group gid).lclk) ∧
        aget? (t.group gid).quads q = some y ∧
        y = { x with waiting := none, stamp := y.stamp }) ∧
      (¬ Passed o'.phase w.phase.toNat → exec (.waitWake gid q) s = .next s)) ∧
    (∀ id f q x, aget? s.flights id = some f → f.kind = .waitAcquire → f.dst = none → f.pdst = some pd → f.pieces = [q] →
      q.pa = .glob x → releaseOpen s f.gid id = false → CleanFor s f.core x → NothingToPull s f.core (lineOf x) →
      f.vals = [] → f.skip = [] → GroupReady s f →
      let o := parseBar (bytesAt s (.glob x) 16)
      ∃ t, exec (.remoteAcquire id) s = .next t ∧ Completes s t id f ∧ t.mem = s.mem ∧
        (pd.toNat < 12 → ∀ l, f.lanes.getLsbD l = true →
          readPred (t.group f.gid) l pd = !(o.err && o.phase == (q.b + 1) % 2 ^ 32)))

/-- R197 to R199: RINIT writes a ring's header and a fresh barrier for each slot; RGIVE returns one permit when one is out
and nothing otherwise. (The objects' phases end nothing that waits.) -/
def Obligations.RingsAreKept : Prop :=
  ∀ (c : Ctl) (gl : Bool) (a k : RegCode) (b : SrcB) (s : State) (e : Env) (l : Nat),
    (∀ u : Nat → Place, let i := Instr.rinit c gl a b k
      let B := readB e.g l b 32 % 2 ^ 32
      let slots := if 1 ≤ B ∧ B ≤ 1024 then B else 0
      let x := (readReg e.g l k.toNat).toNat
      Issues i s e → lowestLane (e.lanes i &&& e.pres) = some l → NothingWaits s →
      ObjReady e (e.object gl a) (u 0) (16 + 16 * slots) →
      readsOpen s e.gid s.nextId = false →
      (∀ j, j ≤ slots → e.phys ((e.object gl a).plus (16 * j)) = u j ∧ lineBusy s e.gid (u j) = false ∧
        ∀ y, u j = .glob y → CleanFor s e.core y) →
      (∀ j m, j < m → m ≤ slots → (u j).meets 16 (u m) 16 = false) →
      ∃ t, exec i s = .next t ∧ Acts e t ∧
        bytesAt t (u 0) 16 = toBytes slots 16 ∧
        (∀ j, j < slots → bytesAt t (u (j + 1)) 16 = barBytes ⟨0, if 1 ≤ x ∧ x ≤ 32767 then x else 0, false, 0, 0, 0⟩) ∧
        (∀ z, (∀ j y, j ≤ slots → u j = .glob y → z < y ∨ y + 16 ≤ z) → Store.get t.mem z = Store.get s.mem z) ∧
        ∀ m z, (∀ j y, j ≤ slots → u j = .pad m y → z < y ∨ y + 16 ≤ z) →
          Store.get (t.team m).pad z = Store.get (s.team m).pad z) ∧
    (∀ pa, let i := Instr.rgive c gl a
      let v := ofBytes (bytesAt s pa 16)
      let put := v / 2 ^ 64 % 2 ^ 32
      let give := v / 2 ^ 96 % 2 ^ 32
      Issues i s e → lowestLane (e.lanes i &&& e.pres) = some l → ObjReady e (e.object gl a) pa 16 →
      earlierOpen s e.gid s.nextId = false →
      ∃ t, exec i s = .next t ∧ Acts e t ∧
        bytesAt t pa 16 = if put = give then bytesAt s pa 16
          else toBytes (v % 2 ^ 96 + (give + 1) % 2 ^ 32 * 2 ^ 96) 16)

/-! ## Ports -/

/-- R20 to R23, R279, R280, R282, R362: a free port begins the clause of the gang that R21 and R22 choose, of a DET team the
one its rotation puts in its place (its header and code fetched, no event pending for it); with none ready it waits. A
REGANG's bound releases the waiting quads as one gang, and nothing before it is due. The minimum-clock rule lets a held
instruction pass once its condition holds, and until then a lower-clocked ready gang of the team takes the port. (Which group
is urgent is log 82, when waiting quads are released log 27, that arrivals in flight hold the minimum clock log 97, and that
a gang with a poisoned stack entry ends its context log 103: the model's choice.) -/
def Obligations.PortsIssueAndRelease : Prop :=
  ∀ (s : State) (core port : Nat),
    (portFree s core port = true →
      let s0 := stampPort ((portGroups s core port).foldl (fun s x => releaseDue s x.1) s) core port
      let gs := readyGangs s0 core port
      let s1 := mergeStamps s0 gs
      (gs = [] → exec (.clauseIssue core port) s = .next s) ∧
      ∀ (y : Gang) (h : Word) (ws : List Word) (s2 s3 : State),
        (∀ z ∈ gs, z.stamp < 2 ^ 64 ∧ z.slot < 96 ∧ z.low < 32) →
        Chosen s1 port gs y → y.kind = .header → fetchedWaits s1 core y = false →
        let c := countRound s1 core port
        let g := c.group y.gid
        let ctx := ctxOf c g
        let inh := g.frame.tstate.getLsbD 10
        let spoilt := ∃ q ∈ quadsOf y.quads, (g.quad q).badStack = true
        (spoilt → exec (.clauseIssue core port) s = .next (contextFatal c ctx {
          cause := 0xC, double := inh, launchid := (c.launch (c.team g.team).launch).id.toNat
          teamid := (c.team g.team).teamid, groupid := g.idx, core, inc := (c.core core).incarnation, pc := y.pc })) ∧
        (¬ spoilt → fetchWord c core ctx inh y.pc = .ok h s2 → (c.group y.gid).pend = [] → badHeader h = false →
        fetchInstrs s2 core ctx inh (y.pc + 4) (hdrCount h) [] = .ok ws s3 → badEnding ws (hdrCount h) = false →
        ∃ t, exec (.clauseIssue core port) s = .next t ∧
          aget? (t.team g.team).rotation port = some (rotationKey c y) ∧ (t.core core).port port =
          { count := ((s.core core).port port).count + 1, issue := some {
              gid := y.gid, quads := y.quads, hdr := y.pc, pc := y.pc + 4, words := ws, rem := hdrCount h
              seta := hdrSetA h, setb := hdrSetB h, yld := hdrYld h, only := none, held := false, clockHeld := false
              clockPassed := false } } ∧
          (∀ p, p ≠ port → (t.core core).port p = (s.core core).port p) ∧ t.flights = s.flights ∧
          ∀ g l r, readReg (t.group g) l r = readReg (s.group g) l r)) ∧
    (∀ (gid : Nat) (addr : VAddr) (i : Instr) (due : Prop),
      let g := s.group gid
      let det := (s.launch (s.team g.team).launch).det
      let here := fun (x : Quad) => (∃ r, x.regang = some r ∧ r.1 = addr) ∧
        (g.frame.tstate.getLsbD 10 = true → x.handler = true)
      (i, due) ∈ [
        (Instr.regangBoundRelease gid addr, det = false ∧ ∃ q x r, (q, x) ∈ g.quads ∧ here x ∧ x.regang = some r ∧
          64 ≤ r.2.1),
        (.detRegangBound gid addr, det = true ∧ ∃ q x r, (q, x) ∈ g.quads ∧ here x ∧ x.regang = some r ∧
          1536 ≤ (g.lclk - r.2.2).toNat)] →
      (¬ due → exec i s = .next s) ∧
      (due → ∃ t d, exec i s = .next t ∧ t = s.setGroup gid { g with quads := (t.group gid).quads } ∧
        ∀ q x, aget? g.quads q = some x → ∃ y, aget? (t.group gid).quads q = some y ∧
          (here x → y = { x with regang := none, freed := false, det := d, stamp := some (freshStamp s gid) }) ∧ (¬ here x → y = x))) ∧
    (∀ x, ((s.core core).port port).issue = some x → x.clockHeld = true →
      let g := s.group x.gid
      let least := (∀ f ∈ s.flights, f.2.team = g.team → ∀ n clk, f.2.kind = .arrive n clk → g.lclk.toNat < clk.toNat) ∧
        ∀ n h, (n, h) ∈ s.groups → n ≠ x.gid → h.team = g.team → counted s (ctxOf s g) h = true →
        g.lclk.toNat < clockOf s h ∨ (clockOf s h = g.lclk.toNat ∧ g.idx < h.idx)
      let lower := ∃ y ∈ readyGangs s core port, y.gid ≠ x.gid ∧ (s.group y.gid).team = g.team ∧
        ((s.group y.gid).lclk.toNat < g.lclk.toNat ∨ ((s.group y.gid).lclk = g.lclk ∧ (s.group y.gid).idx < g.idx))
      (least → ∃ t, exec (.minClockRelease core port) s = .next t ∧ PortOnly s t core port x.gid ∧
        t.groups = s.groups ∧
        ((t.core core).port port).issue = some { x with clockHeld := false, clockPassed := true }) ∧
      (¬ least → exec (.minClockRelease core port) s = .next s) ∧
      (lower → ∃ t, exec (.detYield core port) s = .next t ∧ PortOnly s t core port x.gid ∧
        ((t.core core).port port).issue = none ∧ t.group x.gid = { g with quads := (t.group x.gid).quads } ∧
        ∀ q z, aget? g.quads q = some z → ∃ y, aget? (t.group x.gid).quads q = some y ∧
          if x.quads.getLsbD q then y = { z with
            kind := .remainder, pc := x.pc, rem := x.rem, seta := x.seta, setb := x.setb, hoff := x.hoff
            only := x.only.map (fun m => laneNibble m q), stamp := some ((s.core core).port port).count }
          else y = z) ∧
      (¬ lower → exec (.detYield core port) s = .next s))

/-! ## Launches -/

/-- R144, R335 to R341: LNCH copies its record from the scratchpad with its kernel address replaced. A malformed record, or
one whose queue holds 64 launches, is refused and D receives 0; else, unless the host is to approve it, it becomes a launch
whose nonzero LAUNCHID D receives, with the hints of its table (R94, R333) and the dependences that have not passed; one
passed by force cancels it. Without an active present lane nothing is submitted. A write of 64 bytes at a live
context's port submits likewise; one of another size, or for a context that is not live, does nothing. An arrival that
completes a dependence's object passes it. (What is malformed in addresses, and which overlapping hints are dropped, is log
53, DEDUCED; through which translations admission reads is log 49, DESIGN CHOICE: the model's choice.) -/
def Obligations.LaunchesAreAdmitted : Prop :=
  (∀ (c : Ctl) (d a : RegCode) (disp : BitVec 32) (s : State) (e : Env),
    let i := Instr.lnch c d a disp
    let lanes := e.lanes i
    let off := (readReg e.g 0 a.toNat).toNat
    let v := ofBytes (readBytes e.t.pad off 64)
    let r := toBytes (v - v / 2 ^ 256 % 2 ^ 49 * 2 ^ 256 + (e.is.hdr + disp.signExtend 49).toNat * 2 ^ 256) 64
    let full := 64 ≤ queued s (partOf e.ctx) (recField r 319 317)
    let asks := (s.part (partOf e.ctx)).split.getLsbD 1
    let ans := fun (v : Nat) => ({ e.flight .result c with
      dst := some d, width := 4, lanes := lanes, args := [(lanesOf (lanes &&& e.pres)).headD 128]
      vals := (lanesOf lanes).map (fun l => (l, v)) } : Flight)
    Issues i s e → e.flagFull c = false →
    (lanes &&& e.pres = 0 → ∃ t, exec i s = .next t ∧ Sends e t [ans 0] none) ∧
    (lanes &&& e.pres ≠ 0 → e.accessHeld = false → off % 64 = 0 → off + 64 ≤ e.l.padBytes → e.t.claims off 64 = false →
      lineBusy s e.gid (.pad e.g.team 0) = false →
      (checkRecord s e.ctx r = none →
        ∃ t, exec i s = .next t ∧ Refused s t e.ctx 1 true ∧ Answers e t s.nextId (ans 0)) ∧
      ∀ x s1, checkRecord s e.ctx r = some (x, s1) →
        (asks = true → ∃ t, exec i s = .next t ∧ HeldBack s t e.ctx r x (some s.nextId) ∧
          Answers e t s.nextId { ans 0 with kind := .lnch }) ∧
        (asks = false → full → ∃ t, exec i s = .next t ∧ Refused s t e.ctx 2 true ∧ Answers e t s.nextId (ans 0)) ∧
        (asks = false → ¬ full → ∃ t id, exec i s = .next t ∧ Queued s1 t e.ctx r x s.nextId id ∧
          Answers e t (s.nextId + 1) (ans id.toNat)))) ∧
  (∀ (func p n : Nat) (data : List Byte) (s : State),
    let ctx := p * 1024 + n
    let i := Instr.launchPortWrite func (0x10000 + 64 * n) data
    let full := 64 ≤ queued s (partOf ctx) (recField data 319 317)
    let asks := (s.part (partOf ctx)).split.getLsbD 1
    partOfFunc s func = some p → n < 1024 →
    ((data.length ≠ 64 ∨ (s.ctx ctx).state ≠ .live) → exec i s = .next s) ∧
    (data.length = 64 → (s.ctx ctx).state = .live →
      (checkRecord s ctx data = none → ∃ t, exec i s = .next t ∧ Refused s t ctx 1 false) ∧
      ∀ x s1, checkRecord s ctx data = some (x, s1) →
        (asks = true → ∃ t, exec i s = .next t ∧ HeldBack s t ctx data x none) ∧
        (asks = false → full → ∃ t, exec i s = .next t ∧ Refused s t ctx 2 false) ∧
        (asks = false → ¬ full → ∃ t id, exec i s = .next t ∧ Queued s1 t ctx data x s.nextId id))) ∧
  ∀ (s : State) (id : Nat) (f : Flight) (n : Nat) (clk : DWord) (q : Piece) (a key : Nat) (l : Launch) (d : Nat × Word),
    aget? s.flights id = some f → f.kind = .arrive n clk → f.refused = false → earlierOpen s f.gid id = false →
    f.pieces = [q] → q.pa = .glob a → NothingToPull s f.core (lineOf a) → (∀ line, NoPartials s line) →
    (∀ x ∈ (s.core f.core).l1, x.2.state ≠ .d) → RecordRoom s 1 → (s.launches.map Prod.fst).Nodup →
    (∀ m ∈ s.launches, m.2.deps = if m.1 = key then [d] else []) →
    (∀ c ∈ s.clusters, ∀ r ∈ c.2.table, r.trigger = none) →
    aget? s.launches key = some l → MapsFirm s l.ctx d.1 a false [(a, 16)] →
    let o := parseBar (readBytes s.mem a 16)
    let o' := completed { o with arr := min (o.arr + n) 32767 }
    ∃ t, exec (.releaseAtHome id) s = .next t ∧ bytesAt t (.glob a) 16 = barBytes o' ∧
      (∀ m, m ≠ key → aget? t.launches m = aget? s.launches m) ∧
      let passes := o'.phase ≠ o.phase ∧ Passed o'.phase d.2.toNat
      (passes → aget? t.launches key = some { l with deps := [] } ∧ (t.hallmark (lineOf a)).pend = []) ∧
      (¬ passes → aget? t.launches key = some l)

/-- R95, R139, R345: a range's ratio is judged by its class's band at each multiple of 4,096 accesses. A team ends once its
groups have and its engines' work is done: it and its groups leave the machine, but for the slots of groups with operations
of a flag in flight, and its launch counts it (that queued table operations and drains hold it back is log 88, DESIGN CHOICE:
the model's choice). A launch ends once its teams have and its writes are acknowledged: its cores hold no dirty line, DONEA
receives one arrival, which no core's release covers, its queue entry is freed and the host is told; the launch unit waits
while an earlier such event does (log 92, DEDUCED). R94, R333, R334: a launch with hints first writes its report where the table's translations lead. (No
launch waits for a dependence then, and no MMAT for a trigger.) -/
def Obligations.TeamsAndLaunchesEnd : Prop :=
  ∀ (s : State),
    (∀ launch idx l h, aget? s.launches launch = some l → l.hints[idx]? = some h →
      (h.accesses = 0 ∨ h.accesses % 4096 ≠ 0 → exec (.hintCheck launch idx) s = .next s) ∧
      (h.accesses ≠ 0 → h.accesses % 4096 = 0 → ∃ t b, exec (.hintCheck launch idx) s = .next t ∧
        t = s.setLaunch launch { l with hints := l.hints.set idx { h with contradicted := b } } ∧
        (b = true ↔ h.contradicted = true ∨ inBand h = false))) ∧
    (∀ n y, aget? s.teams n = some y →
      (y.live ≠ 0 ∨ teamBusy s n y = true → exec (.teamEnd n) s = .next s) ∧
      (y.live = 0 → teamBusy s n y = false → ∃ t, exec (.teamEnd n) s = .next t ∧
        t = { s with teams := adel s.teams n, groups := t.groups, launches := t.launches, ctxs := t.ctxs, cores := t.cores } ∧
        (∀ c, t.core c = { s.core c with ended := (t.core c).ended }) ∧
        (∀ c, c ≠ y.core → t.core c = s.core c) ∧
        (∀ g slot bytes, (g, slot, bytes) ∈ (t.core y.core).ended ↔
          (∃ f ∈ s.flights, f.2.gid = g ∧ f.2.flag.isSome = true) ∧
          ((g, slot, bytes) ∈ (s.core y.core).ended ∨
            ∃ x, (g, x) ∈ s.groups ∧ x.team = n ∧ slot = x.slot ∧ bytes = 512 * (s.launch y.launch).vregs)) ∧
        (∀ g ∈ t.groups, g.2.team ≠ n) ∧ (∀ g x, aget? s.groups g = some x → x.team ≠ n → aget? t.groups g = some x) ∧
        (∀ l, aget? s.launches y.launch = some l → aget? t.launches y.launch = some { l with ended := l.ended + 1 }) ∧
        (∀ m, m ≠ y.launch → aget? t.launches m = aget? s.launches m))) ∧
    (∀ n l, aget? s.launches n = some l →
      let told := ∃ x ∈ (s.func (s.part (partOf l.ctx)).func).waiting, x.type = 2
      (l.ended < l.teams ∨ launchWriting s l = true ∨ told → exec (.launchEnd n) s = .next s) ∧
      (l.teams ≤ l.ended → launchWriting s l = false → ¬ told → NothingWaits s →
        let w := l.cores.foldl writebackAll s
        let done := recField l.ext 255 192
        ∃ t, exec (.launchEnd n) s = .next t ∧ aget? t.launches n = none ∧
          (∀ m, m ≠ n → aget? t.launches m = aget? s.launches m) ∧ t.groups = s.groups ∧
          Posted s t l.ctx 2 l.id.toNat ∧
          (∀ c ∈ l.cores, ∀ line x, aget? (t.core c).l1 line = some x → x.state ≠ .d ∧ x.state ≠ .u) ∧
          let report := reportOf l
          let parts := fun (at_ : Nat → Nat) => (List.range report.length).map (fun i => (at_ i, 16))
          ∀ at_ : Nat → Nat, (l.hints ≠ [] → l.hints.length ≤ 16 ∧ (∀ line, NoPartials w line) ∧
              (∀ i, i < report.length →
                MapsFirm w l.ctx (recField l.ext 319 256 + 256 + 16 * i) (at_ i) true (parts at_)) ∧
              ∀ i j, i < j → j < report.length → Apart (at_ i) 16 (at_ j) 16) →
            (l.hints ≠ [] → done = 0 → ∀ i v, report[i]? = some v → readBytes t.mem (at_ i) 16 = toBytes v 16) ∧
            ∀ p, done ≠ 0 → (l.hints = [] → physOf w l.ctx (.glob done) = some (.glob p)) →
              (l.hints ≠ [] → MapsFirm w l.ctx done p false (parts at_) ∧
                ∀ i, i < report.length → Apart (at_ i) 16 p 16) → NoPartials w (lineOf p) →
              let o := parseBar (readBytes w.mem p 16)
              bytesAt t (.glob p) 16 = barBytes (completed { o with arr := min (o.arr + 1) 32767 }) ∧
              (l.hints ≠ [] → ∀ i v, report[i]? = some v → readBytes t.mem (at_ i) 16 = toBytes v 16) ∧
              ((s.hallmark (lineOf p)).lcore < 128 → (t.hallmark (lineOf p)).lv = false)))

/-! ## System instructions -/

/-- R301, R317: in a handler CSRR writes D from the register its number names, lane-scope ones by lane, and CSRW writes
TVEC or a scratch register once; nothing else changes. -/
def Obligations.ControlRegisters : Prop :=
  ∀ (c : Ctl) (d a : RegCode) (csr : BitVec 12) (s : State) (e : Env), (aget? s.groups e.gid).isSome = true →
    let n := csr.toNat
    let cx := s.ctx e.ctx
    let f := e.g.frame
    (Issues (.csrr c d csr) s e →
      n ∈ [0x000, 0x001, 0x010, 0x011, 0x012, 0x013, 0x014, 0x015, 0x016, 0x017, 0x018, 0x019, 0x01A, 0x020, 0x021, 0x022,
        0x030, 0x031, 0x032, 0x033, 0x040, 0x041, 0x042, 0x043, 0x044] →
      RunsReg (.csrr c d csr) s e d 32 (fun l v => v = (match n with
        | 0x000 => cx.tvec.toNat
        | 0x001 => cx.tvec.toNat / 2 ^ 32
        | 0x010 => f.tstate.toNat
        | 0x011 => f.tpcl.toNat
        | 0x012 => f.tpch.toNat
        | 0x013 => f.tfault.toNat
        | 0x014 => f.tfault.toNat / 2 ^ 32
        | 0x015 => f.tfault.toNat / 2 ^ 64
        | 0x016 => f.tfault.toNat / 2 ^ 96
        | 0x017 => f.tact.toNat
        | 0x018 => f.tact.toNat / 2 ^ 32
        | 0x019 => f.tact.toNat / 2 ^ 64
        | 0x01A => f.tact.toNat / 2 ^ 96
        | 0x020 => (Store.get f.tlcause l).toNat
        | 0x021 => (Store.get f.tladdr l).toNat
        | 0x022 => (Store.get f.tladdr l).toNat / 2 ^ 32
        | 0x030 => (Store.get f.scr 0).toNat
        | 0x031 => (Store.get f.scr 1).toNat
        | 0x032 => (Store.get f.scr 2).toNat
        | 0x033 => (Store.get f.scr 3).toNat
        | 0x040 => (s.part (partOf e.ctx)).split.toNat
        | 0x041 => cx.asid
        | 0x042 => e.ctx % 1024
        | 0x043 => cx.err
        | _ => cx.err / 2 ^ 32) % 2 ^ 32)) ∧
    (Issues (.csrw c a csr) s e → n ∈ [0x000, 0x001, 0x030, 0x031, 0x032, 0x033] →
      let lanes := e.lanes (.csrw c a csr) &&& e.pres
      (lanes = 0 → ∃ t, exec (.csrw c a csr) s = .next t ∧ Retires e s t) ∧
      ∀ l, lowestLane lanes = some l →
        let v := (readReg e.g l a.toNat).toNat
        ∃ t, exec (.csrw c a csr) s = .next t ∧ Retires e
          (if n = 0 then s.setCtx e.ctx { cx with tvec := BitVec.ofNat 49 (cx.tvec.toNat / 2 ^ 32 * 2 ^ 32 + (v - v % 4)) }
           else if n = 1 then
            s.setCtx e.ctx { cx with tvec := BitVec.ofNat 49 (cx.tvec.toNat % 2 ^ 32 + v % 2 ^ 17 * 2 ^ 32) }
           else s.setGroup e.gid { e.g with
            frame := { f with scr := Store.set f.scr (n - 0x030) (readReg e.g l a.toNat) } }) t)

/-- R311, R318, R319: TLBI drops the translations of the context's ASID in its scope on its core, or, with its dirty lines
written back, on every core of the partition; L1WB leaves its core no dirty line; HALT parks its group, its gang to go on
behind it, and tells the host; each does nothing without an active present lane. A write that a shootdown refused kills its
context from its store-origin entry. (Nothing of the context is in flight at the shootdown.) That a shootdown writes back
every dirty line, not those of its pages alone, is log 46, DESIGN CHOICE: the model's choice. -/
def Obligations.SystemInstructions : Prop :=
  ∀ (c : Ctl) (loc : Bool) (a : RegCode) (s : State) (e : Env), (aget? s.groups e.gid).isSome = true →
    (∀ i scope, (i, scope) ∈ [(Instr.tlbiPage c loc a, some (readSet e.g 0 a 64)), (.tlbiAll c loc a, none)] → Issues i s e →
      let hit := fun (x : TlbEntry) => x.asid = (s.ctx e.ctx).asid ∧ ∀ va, scope = some va → x.page = va / 2 ^ x.leaf.size
      (e.lanes i &&& e.pres = 0 → ∃ t, exec i s = .next t ∧ Retires e s t) ∧
      (e.lanes i &&& e.pres ≠ 0 → loc = true → ∃ t, exec i s = .next t ∧ ∃ tlb, Retires e
        (s.setCore e.core { s.core e.core with tlb }) t ∧ ∀ x, x ∈ tlb ↔ x ∈ (s.core e.core).tlb ∧ ¬ hit x) ∧
      (e.lanes i &&& e.pres ≠ 0 → loc = false → NothingOut s e.ctx → ∃ t, exec i s = .next t ∧
        (∀ k, (s.part (partOf e.ctx)).clusters.getLsbD (k / 4) = true →
          Written t k ∧ ∀ x, x ∈ (t.core k).tlb ↔ x ∈ (s.core k).tlb ∧ ¬ hit x) ∧
        t.flights = s.flights ∧ (∀ g, g ≠ e.gid → t.group g = s.group g) ∧
        (∀ l r, readReg (t.group e.gid) l r = readReg e.g l r) ∧ MovesOn e t)) ∧
    (Issues (.l1wb c) s e →
      (e.lanes (.l1wb c) &&& e.pres = 0 → ∃ t, exec (.l1wb c) s = .next t ∧ Retires e s t) ∧
      (e.lanes (.l1wb c) &&& e.pres ≠ 0 → ∃ t, exec (.l1wb c) s = .next t ∧ Retires e (writebackAll s e.core) t ∧
        Written t e.core)) ∧
    (Issues (.halt c) s e →
      (e.lanes (.halt c) &&& e.pres = 0 → ∃ t, exec (.halt c) s = .next t ∧ Retires e s t) ∧
      (e.lanes (.halt c) &&& e.pres ≠ 0 →
        (∀ q x, e.is.quads.getLsbD q = true → aget? e.g.quads q = some x → x.regang = none) →
        ∃ t, exec (.halt c) s = .next t ∧
        t = { s with cores := t.cores, groups := t.groups, funcs := t.funcs } ∧
        ((t.core e.core).port e.port).issue = none ∧ (∀ g, g ≠ e.gid → t.group g = s.group g) ∧
        t.group e.gid = { e.g with
          park := true, retired := (t.group e.gid).retired, quads := (t.group e.gid).quads } ∧
        (∀ q x, e.is.quads.getLsbD q = true → aget? e.g.quads q = some x → ∃ y, aget? (t.group e.gid).quads q = some y ∧
          SameQuad (if e.is.isLast then { (x.goto e.is.after) with freed := false } else { x with
            kind := .remainder, pc := e.is.after, rem := e.is.rem - 1, seta := e.is.seta, setb := e.is.setb
            hoff := e.is.hoff + e.is.len, only := none, freed := false }) y) ∧
        Posted s t e.ctx 6 (e.g.idx + e.t.teamid * 2 ^ 32 + e.l.id.toNat * 2 ^ 64 + e.g.frame.tstate.toNat * 2 ^ 96 +
          (match lowestLane e.g.frame.tfault with
            | some l => (Store.get e.g.frame.tladdr l).toNat
            | none => 0) * 2 ^ 128))) ∧
    (∀ core entry, (refusedUnder s core entry = none → exec (.impreciseStoreFault core entry) s = .next s) ∧
      ∀ ctx va o, refusedUnder s core entry = some (ctx, va) → aget? (s.core core).origins entry = some o →
        (s.ctx o.ctx).erred = false →
        ∃ t, exec (.impreciseStoreFault core entry) s = .next t ∧
          Killed s t o.ctx (if walk s ctx va = .bad .xlate then 7 else 8) (9 + if o.live then 0 else 16) (triageOf s o.ctx))

/-! ## Regions -/

/-- R200, R206, R211, R213: ADECL with well-formed operands is refused, its answer false, when the region meets its shadow
or a region of the context, or no slot is to be had; else it takes the lowest free slot and its build goes in flight, or
the host is asked under REGSLOT. A malformed attribute word, and bytes that are not all in one stack's own memory, raise
AREGION. AFREE frees the region of its base; ASTAT reads a region's status, zero where there is none. Without an active
present lane each performs nothing. A write of the group in flight on the region's lines holds ADECL (R107); a slot taken
has had no leaf store of any launch (R281). (That overlap is judged on physical bytes is log 28, that an instruction without
a lane marks its flag log 38, both DEDUCED; which lanes a trap names, and its address, is log 99, DESIGN CHOICE: the model's
choice.) -/
def Obligations.RegionsAreDeclared : Prop :=
  ∀ (c : Ctl) (pd : PredCode) (d a k : RegCode) (b : SrcB) (lg : BitVec 5) (s : State) (e : Env),
    e.flagFull c = false →
    let none_ := fun (i : Instr) => Issues i s e → e.lanes i &&& e.pres = 0 →
      ∃ t, exec i s = .next t ∧ Sends e t [e.flight .result c] none
    let ans := fun (i : Instr) (v : Bool) => ({ e.flight .holding c with
      pdst := some pd, lanes := e.lanes i, preds := (lanesOf (e.lanes i)).map (fun l => (l, v)) } : Flight)
    let at_ := fun (slot : Nat) (r : Region) => s.regions.find? (fun x => x.2.ctx = e.ctx && x.2.va = readSet e.g 0 a 64) =
      some (slot, r)
    none_ (.adecl c pd a b k lg) ∧ none_ (.afree c pd a) ∧ none_ (.astat c d a) ∧
    (∀ l stack, let i := Instr.adecl c pd a b k lg
      let attr : Word := BitVec.ofNat 32 (readB e.g l b 32)
      let va := readSet e.g l a 64
      let r0 : Region := ⟨e.ctx, va, [], [], lg.toNat, attr, false⟩
      let xs := spansOf s e.core e.ctx va r0.bytes
      let ys := spansOf s e.core e.ctx (readSet e.g l k 64) r0.shadowBytes
      let r : Region := { r0 with leaves := xs.map Prod.fst, shadow := ys.map Prod.fst }
      let meet := fun (us vs : List Span) => ∃ u ∈ us, ∃ v ∈ vs, u.pa < v.pa + v.len ∧ v.pa < u.pa + u.len
      let overlaps := meet r.leaves r.shadow ∨
        ∃ x ∈ s.regions, x.2.ctx = e.ctx ∧ meet (r.leaves ++ r.shadow) (x.2.leaves ++ x.2.shadow)
      let room := (s.regions.filter (fun x => decide (x.1 / 256 = stack ∧ partOf x.2.ctx = partOf e.ctx))).length <
        (s.part (partOf e.ctx)).rquota.getD stack 0
      let build := { e.flight .build c with pdst := some pd, lanes := e.lanes i }
      let host := (s.part (partOf e.ctx)).split.getLsbD 4
      let formed := ∃ ty ∈ [3, 7, 4, 17, 26], ∃ kind q, kind < 4 ∧ q < 256 ∧ attr.toNat = ty + kind * 2 ^ 8 + q * 2 ^ 24 ∧
        (q = 0 ∨ 17 ≤ ty)
      Issues i s e → lowestLane (e.lanes i &&& e.pres) = some l → e.accessHeld = false →
      (¬ formed → Deliverable e .aregion (e.lanes i &&& e.pres) → TrapsAll i s e .aregion (e.lanes i &&& e.pres) 0) ∧
      (formed →
      checkSpan s e.core e.ctx e.inh .both (fun _ => true) 64 va r0.bytes = none →
      checkSpan s e.core e.ctx e.inh .both (fun _ => true) 64 (readSet e.g l k 64) r0.shadowBytes = none →
      xs ≠ [] → (∀ x y, xs.head? = some x → y ∈ xs ++ ys → (y.2.kind ≠ 1 ∨ y.1.pa / 2 ^ 36 ≠ x.1.pa / 2 ^ 36) →
        Deliverable e .aregion (e.lanes i &&& e.pres) →
        TrapsAll i s e .aregion (e.lanes i &&& e.pres) (va % 2 ^ 49)) ∧
      ((∀ x ∈ xs ++ ys, x.2.kind = 1 ∧ x.1.pa / 2 ^ 36 = stack) → Quiet e →
      (e.writesOn r = true → exec i s = .next s) ∧
      (e.writesOn r = false →
      (overlaps ∨ (host = false ∧
          (¬ room ∨ ∀ n, n < 256 → (aget? s.regions (stack * 256 + n)).isSome = true)) →
        ∃ t, exec i s = .next t ∧ Sends e t [ans i false] none) ∧
      (¬ overlaps → host = false → room → ∀ n, n < 256 → aget? s.regions (stack * 256 + n) = none →
        (∀ m, m < n → (aget? s.regions (stack * 256 + m)).isSome = true) →
        ∃ t, exec i s = .next t ∧ Answers e t s.nextId { build with args := [stack * 256 + n] } ∧ t.mem = s.mem ∧
          (∀ x ∈ t.launches, stack * 256 + n ∉ x.2.written) ∧
          ∀ m, aget? t.regions m = if m = stack * 256 + n then some r else aget? s.regions m) ∧
      (¬ overlaps → host = true →
        ∃ t rid, exec i s = .next t ∧ Answers e t s.nextId build ∧ t.mem = s.mem ∧ t.regions = s.regions ∧
          ((s.ctx e.ctx).heldRegions.length + 2 < 2 ^ 32 →
            NamesNext (s.ctx e.ctx).rid ((s.ctx e.ctx).heldRegions.map (fun h => h.rid)) rid) ∧
          t.ctx e.ctx = { s.ctx e.ctx with
            rid, heldRegions := (s.ctx e.ctx).heldRegions ++ [⟨rid, s.nextId, stack, r⟩] } ∧
          Posted s t e.ctx 8 (rid.toNat + stack * 2 ^ 32 + va * 2 ^ 64)))))) ∧
    (
      let i := Instr.afree c pd a
      Issues i s e → e.lanes i &&& e.pres ≠ 0 → e.accessHeld = false →
      ((∀ x ∈ s.regions, ¬ (x.2.ctx = e.ctx ∧ x.2.va = readSet e.g 0 a 64)) →
        ∃ t, exec i s = .next t ∧ Sends e t [ans i false] none) ∧
      (∀ slot r, at_ slot r → Quiet e → slotBusy s slot = false →
        ∃ t, exec i s = .next t ∧ Answers e t s.nextId (ans i true) ∧ t.mem = s.mem ∧
          ∀ m, aget? t.regions m = if m = slot then none else aget? s.regions m)) ∧
    (∀ l, let i := Instr.astat c d a
      let put := fun (v : Nat) => ({ e.flight .result c with
        dst := some d, width := 16, lanes := e.lanes i, args := [l], vals := (lanesOf (e.lanes i)).map (fun l => (l, v)) } : Flight)
      Issues i s e → lowestLane (e.lanes i &&& e.pres) = some l → e.accessHeld = false →
      ((∀ x ∈ s.regions, ¬ (x.2.ctx = e.ctx ∧ x.2.va = readSet e.g 0 a 64)) →
        ∃ t, exec i s = .next t ∧ Sends e t [put 0] none) ∧
      (∀ slot r, at_ slot r → r.log2n ≠ 0 → e.slotHolds slot = false →
        ∃ t, exec i s = .next t ∧ Sends e t [put (r.attr.toNat + r.log2n * 2 ^ 32 + slot % 256 * 2 ^ 40 +
          slot / 256 * 2 ^ 48 + 2 ^ 63 +
          wrapN 64 (sgn 64 (ofBytes (readBytes s.mem (entryAt r r.levels 0) 8))) * 2 ^ 64)] none))

/-- R203 to R205, R208, R209, R211: building a region's tree gives every entry its value under R205 and every padding entry
zero, and ADECL's answer is true; a leaf store or RED gives its leaves their new bits, lane by lane, and keeps every entry
so. No byte outside the region changes. -/
def Obligations.RegionTreesStayTrue : Prop :=
  ∀ (op slot : Nat) (s : State) (f : Flight) (r : Region), aget? s.flights op = some f → aget? s.regions slot = some r →
    RegionPlaced r →
    (∀ pd rest, f.kind = .build → f.args = slot :: rest → f.dst = none → f.pdst = some pd → f.vals = [] →
      (aget? s.groups f.gid).isSome = true →
      (∀ line ∈ r.lines, (s.hallmark line).pend = [] ∧ ∀ c ∈ s.cores, aget? c.2.l1 line = none) →
      ∃ t fl, exec (.regionBuild op) s = .next t ∧ Completes (stickyGroup s f.gid fl) t op f ∧
        PredLands s t f pd ((lanesOf f.lanes).map (fun l => (l, true))) ∧ TreeOk t r ∧
        (∀ i, i < r.n → leafCode t r i = leafCode s r i) ∧ (∀ a, OutsideRegion r a → Store.get t.mem a = Store.get s.mem a) ∧
        (∀ k j, 1 ≤ k → k ≤ r.levels → r.count k ≤ j → j < 4 →
          readBytes t.mem (entryAt r k j) r.entryBytes = List.replicate r.entryBytes 0) ∧
        (fl.inv = true ↔ ∃ i, i < r.n ∧ (r.contribution (leafCode s r i)).2.inv = true) ∧
        (fl.asat = true ↔ (∃ i, i < r.n ∧ (r.contribution (leafCode s r i)).2.asat = true) ∨
          (r.kindNo = 0 ∨ r.kindNo = 3) ∧ ∃ k j, 1 ≤ k ∧ k ≤ r.levels ∧ j < r.count k ∧
            2 ^ 63 - 1 < |(contribs s r (coverOf r k j).1 (coverOf r k j).2).sum|)) ∧
    (∀ red ty, f.kind = .leaf slot red ty → f.refused = false → TreeOk s r →
      (∀ p ∈ f.pieces, p.b < 2 ^ (8 * r.leafBytes) ∧ ∃ i, i < r.n ∧ p.pa = .glob (leafAt r i)) →
      ∃ t, exec (.leafwrite op) s = .next t ∧ TreeOk t r ∧ aget? t.flights op = none ∧
        (∀ i, i < r.n → leafCode t r i = leafRun r red f.pieces (leafCode s r) i) ∧
        (∀ a, OutsideRegion r a → Store.get t.mem a = Store.get s.mem a) ∧ t.regions = s.regions ∧
        (∀ g, t.group g = { s.group g with sticky := (t.group g).sticky }) ∧
        ∀ n, n ≠ op → aget? t.flights n = aget? s.flights n)

/-- R212, R214: a query of a region of its context that has it, with every bound in the region, goes in flight with its
lanes' operands. (Under DET a query of a region the launch wrote takes its step at issue: R281.) A query of no region, of a
kind without it, or with a bound past the leaves in every lane raises AREGION.
R210, R215 to R218: over a tree that holds what R205 says, a range query returns the exact sum or the extreme
contribution of the leaves in its range, and a descent the leaf its target falls in; APICK's target is its share of the
total. (A sum's clause is for sums within CLAMP's bounds.) -/
def Obligations.RegionQueriesRun : Prop :=
  (∀ (c : Ctl) (fx : Bool) (d a k : RegCode) (pd : PredCode) (b : SrcB) (s : State) (e : Env) (slot : Nat) (r : Region),
    s.regions.find? (fun x => x.2.ctx = e.ctx && x.2.va = readSet e.g 0 a 64) = some (slot, r) →
    e.flagFull c = false → e.accessHeld = false → e.slotHolds slot = false →
    (e.l.det = false ∨ slot ∉ e.l.written) →
    ∀ i fn fx' lo hi, (i, fn, fx', lo, hi) ∈ ([
        (.arsum c fx d pd a b k, 0, fx, fun l => readB e.g l b 32, fun l => readSet e.g l k 32),
        (.armax c d pd a b k, 1, false, fun l => readB e.g l b 32, fun l => readSet e.g l k 32),
        (.armin c d pd a b k, 2, false, fun l => readB e.g l b 32, fun l => readSet e.g l k 32),
        (.apfx c d pd a b, 3, false, fun l => readB e.g l b 64, fun _ => 0),
        (.apick c d pd a b, 4, false, fun l => readB e.g l b 32, fun _ => 0)] :
      List (Instr × Nat × Bool × (Nat → Nat) × (Nat → Nat))) →
    r.kindNo ∈ [[0, 3], [1, 3], [2], [0, 3], [0, 3]].getD fn [] → Issues i s e →
    (∀ l, (e.lanes i).getLsbD l = true → hi l % 2 ^ 32 ≤ r.n) →
    ∃ t, exec i s = .next t ∧ Sends e t [{ e.flight (if e.lanes i = 0 then .result else .query fn fx') c with
      dst := some d, width := if fn < 3 then 8 else 4, pdst := some pd, lanes := e.lanes i
      args := [(presentOf e i).headD 128, slot]
      pieces := (lanesOf (e.lanes i)).map (fun l => pieceAt 0 l (.pad 0 0) (lo l) (hi l) 0 0) }] none) ∧
  (∀ (c : Ctl) (fx : Bool) (d a k : RegCode) (pd : PredCode) (b : SrcB) (s : State) (e : Env) (i : Instr) (kinds : List Nat)
    (hi : Nat → Nat),
    let top := fun (l : Nat) => readSet e.g l k 32
    (i, kinds, hi) ∈ ([(.arsum c fx d pd a b k, [0, 3], top), (.armax c d pd a b k, [1, 3], top),
        (.armin c d pd a b k, [2], top), (.apfx c d pd a b, [0, 3], fun _ => 0), (.apick c d pd a b, [0, 3], fun _ => 0)] :
      List (Instr × List Nat × (Nat → Nat))) →
    Issues i s e → e.accessHeld = false → e.lanes i &&& e.pres = e.lanes i →
    (∀ l, (e.lanes i).getLsbD l = true → ∀ slot r,
      s.regions.find? (fun x => x.2.ctx = e.ctx && x.2.va = readSet e.g 0 a 64) = some (slot, r) →
      r.kindNo ∉ kinds ∨ r.n < hi l % 2 ^ 32) →
    Deliverable e .aregion (e.lanes i) → TrapsAll i s e .aregion (e.lanes i) 0) ∧
  (∀ (op fn slot : Nat) (fx : Bool) (s : State) (f : Flight) (d : RegCode) (pd : PredCode) (r : Region),
    aget? s.flights op = some f → f.kind = .query fn fx → f.dst = some d → f.pdst = some pd → f.args.getD 1 0 = slot →
    aget? s.regions slot = some r → r.poisoned = false → RegionPlaced r → TreeOk s r →
    DstOk f d (f.vals.map Prod.fst ++ f.pieces.map (fun p => p.lane)) → (aget? s.groups f.gid).isSome = true →
    (∀ p ∈ f.pieces, (presentLanes (s.launch (s.team f.team).launch) (s.group f.gid).idx).getLsbD p.lane = true ∨
      queryBad s r fn p = false) →
    let ends := fun (t : State) (out : Nat → Nat × Bool) => Completes s t op f ∧ t.mem = s.mem ∧
      Lands s t f d (f.vals ++ f.pieces.map (fun p => (p.lane, (out p.lane).1))) ∧
      PredLands s t f pd (f.preds ++ f.pieces.map (fun p => (p.lane, (out p.lane).2)))
    ((f.preds.map Prod.fst ++ f.pieces.map (fun p => p.lane)).Nodup) →
    (fn < 3 → r.kindNo ∈ [[0, 3], [1, 3], [2]].getD fn [] → (fn = 0 → Unclamped s r) →
      (∀ p ∈ f.pieces, p.k % 2 ^ 32 ≤ r.n) →
      ∃ t out, exec (.rangeStep op) s = .next t ∧ ends t out ∧ ∀ p ∈ f.pieces,
        if p.k % 2 ^ 32 ≤ p.b % 2 ^ 32 then out p.lane = (emptyOf r.ty fn, false)
        else (out p.lane).2 = true ∧ RangeHolds r fn fx (contribs s r (p.b % 2 ^ 32) (p.k % 2 ^ 32)) (out p.lane).1) ∧
    ((fn = 3 ∨ fn = 4) → (r.kindNo = 0 ∨ r.kindNo = 3) → Unclamped s r →
      ∃ t out, exec (.descendStep op) s = .next t ∧ ends t out ∧ ∀ p ∈ f.pieces,
        let total := (contribs s r 0 r.n).sum
        if fn = 3 then DescendHolds s r (sgn 64 p.b) (out p.lane)
        else if total ≤ 0 then out p.lane = (r.n, false)
        else DescendHolds s r ⌊(((p.b % 2 ^ 32 : Nat) : ℚ) / 2 ^ 32 * total)⌋ (out p.lane)))


/-! ## Crucible -/

/-- R220, R221, R223, R234: HTCLAIM answers false to a malformed record, to a table in use and to a range it may not have;
else it claims the table, every slot EMPTY with a zero value, nothing spilled or dropped, and answers true. A well-formed
record past the scratchpad, or with a spill region that fails its checks, traps. HTFREE releases a table named with its base
and answers true, else false. (Which lanes the traps name is log 99, DESIGN CHOICE, and that an instruction without a lane
marks its flag log 38, DEDUCED: the model's choice.) -/
def Obligations.TablesAreClaimed : Prop :=
  ∀ (c : Ctl) (tab : BitVec 2) (pd : PredCode) (a : RegCode) (s : State) (e : Env),
    e.flagFull c = false →
    let ans := fun (i : Instr) (v : Bool) => ({ e.flight .holding c with
      pdst := some pd, lanes := e.lanes i, preds := (lanesOf (e.lanes i)).map (fun l => (l, v)) } : Flight)
    let n := tab.toNat
    let others := fun (t : State) => (∀ m, m ≠ e.g.team → t.team m = s.team m) ∧ t.mem = s.mem ∧
      t.team e.g.team = { e.t with pad := (t.team e.g.team).pad, padPoison := (t.team e.g.team).padPoison,
                                   tables := (t.team e.g.team).tables } ∧
      ∀ m, m ≠ n → (t.team e.g.team).table m = e.t.table m
    (∀ i ∈ [Instr.htclaim c tab pd a, .htfree c tab pd a], Issues i s e → e.lanes i &&& e.pres = 0 →
      ∃ t, exec i s = .next t ∧ Sends e t [e.flight .result c] none) ∧
    (let i := Instr.htclaim c tab pd a
     let words := fun (j : Nat) => readReg e.g 0 (a.toNat + j)
     let tb : Table := { claimed := true, words := (List.range 5).map words }
     Issues i s e → e.lanes i &&& e.pres ≠ 0 → e.accessHeld = false → e.tabHolds = false →
     let spillCheck := checkSpan s e.core e.ctx e.inh .localWrite noRegion 16 tb.spill (16 * tb.cap)
     (¬ ClaimWellFormed words → ∃ t, exec i s = .next t ∧ Sends e t [ans i false] none) ∧
     (∀ z ad, ClaimWellFormed words → z ≠ .poison →
       (if e.l.padBytes < tb.base + 64 * 2 ^ tb.b then some (Cause.addr, tb.base)
         else if tb.cap = 0 then none
         else if tb.spill % 16 ≠ 0 then some (Cause.align, tb.spill) else spillCheck) = some (z, ad) →
       Deliverable e z (e.lanes i &&& e.pres) → TrapsAll i s e z (e.lanes i &&& e.pres) (ad % 2 ^ 49)) ∧
     (ClaimWellFormed words → tb.base + 64 * 2 ^ tb.b ≤ e.l.padBytes →
       (tb.cap = 0 ∨ tb.spill % 16 = 0 ∧ spillCheck = none) →
       let refused := (e.t.table n).claimed = true ∨ e.t.claims tb.base (64 * 2 ^ tb.b) = true ∨
         512 * 1024 < claimedBytes s e.core + 64 * 2 ^ tb.b
       (refused → ∃ t, exec i s = .next t ∧ Sends e t [ans i false] none) ∧
       (¬ refused → Quiet e → (aget? s.teams e.g.team).isSome = true →
         ∃ t, exec i s = .next t ∧ Answers e t s.nextId (ans i true) ∧ others t ∧
           (t.team e.g.team).table n = { tb with spillcnt := 0, drops := 0 } ∧
           (∀ bk j, bk < 2 ^ tb.b → j < tb.perBucket →
             tb.keyAt (t.team e.g.team).pad (tb.base + 64 * bk + tb.slotBytes * j) = 2 ^ tb.kw - 1 ∧
             tb.valAt (t.team e.g.team).pad (tb.base + 64 * bk + tb.slotBytes * j) = 0) ∧
           ∀ x, x < tb.base ∨ tb.base + 64 * 2 ^ tb.b ≤ x →
             Store.get (t.team e.g.team).pad x = Store.get e.t.pad x))) ∧
    (let i := Instr.htfree c tab pd a
     let named := (e.t.table n).claimed = true ∧ (e.t.table n).base = (readReg e.g 0 a.toNat).toNat
     Issues i s e → e.lanes i &&& e.pres ≠ 0 → e.accessHeld = false → e.tabHolds = false →
     (¬ named → ∃ t, exec i s = .next t ∧ Sends e t [ans i false] none) ∧
     (named → ∃ t, exec i s = .next t ∧ Answers e t s.nextId (ans i true) ∧ others t ∧
       (t.team e.g.team).table n = {} ∧ (t.team e.g.team).pad = e.t.pad))

/-- R226, R229, R231, R232: a keyed instruction on a claimed table, its operands fitting the layout, enters its core's queue
with its active present lanes' keys and values, in flight with a store-origin entry where it may spill; so do HTSTAT, and
HTDRAIN when its destination and its barrier pass their checks. (Under DET the operations but HTACC's without results are
applied at issue: R281.) That HTDRAIN checks its barrier at issue is log 30, that a keyed instruction without an active
present lane does nothing even on an unclaimed table is log 32, that one marks its flag log 38, that the spill region is
translated at issue is log 31, and when registers that only the layout makes it use are waited for log 100: the model's
choice. -/
def Obligations.TableOperationsQueue : Prop :=
  ∀ (c : Ctl) (tab : BitVec 2) (raw : Bool) (d a bs k : RegCode) (pd : PredCode) (b : SrcB) (s : State) (e : Env),
    e.flagFull c = false → e.accessHeld = false → Quiet e →
    let t := e.t.table tab.toNat
    let queue := fun (u : State) (o : TabOp) => (u.core e.core).crucible = (s.core e.core).crucible ++ [o] ∧
      u.mem = s.mem ∧ u.teams = s.teams
    let op : TabOp := { flight := s.nextId, gid := e.gid, team := e.g.team, ctx := e.ctx, tab := tab.toNat, fn := 0,
                        raw := false, lanes := [], origin := none, dst := none, spans := [], capd := 0, bar := none,
                        pages := [], refused := false }
    (∀ i fn raw' d' pd' b', (i, fn, raw', d', pd', b') ∈ ([
          (.htins c tab raw d pd a b, 2, raw, some d, some pd, some b), (.htprobe c tab d pd a, 3, false, some d, some pd, none),
          (.htdel c tab d a, 4, false, some d, none, none), (.htacc c tab raw a b, 5, raw, none, none, some b),
          (.htaccRes c tab raw d a b, 8, raw, some d, none, some b)] :
        List (Instr × Nat × Bool × Option RegCode × Option PredCode × Option SrcB)) → Issues i s e →
      let bw := if t.vty = .fx64 ∧ raw' = false then 32 else t.vw
      let dw := if fn = 4 then 32 else if t.vw = 32 then 64 else 128
      let srcs := (a, t.kw) :: (match b' with | some (.reg r) => [(r, bw)] | _ => [])
      let dsts := match d' with | some r => [(r, dw)] | none => []
      let live := presentOf e i
      let helpers := lanesOf (e.lanes i &&& ~~~ e.pres)
      let spills := (fn = 2 ∨ fn = 5 ∨ fn = 8) ∧ t.cap ≠ 0
      let f : Flight := { e.flight .crucible c with
        dst := d', width := dw / 8, pdst := pd', lanes := e.lanes i, args := [live.headD 128]
        vals := helpers.map (fun l => (l, 0)), preds := helpers.map (fun l => (l, false)) }
      (∀ x ∈ srcs ++ dsts, regOk e.l.vregs x.1 x.2 = true) →
      (e.l.check = true ∨ e.l.det = true → e.pendingAny (e.lanes i) srcs dsts = false) →
      (live = [] → ∃ u, exec i s = .next u ∧ Sends e u [{ f with kind := .result }] none) ∧
      (live ≠ [] → t.claimed = true → (e.l.det = false ∨ e.inh = true ∨ fn = 5) →
        (spills → (s.core e.core).origins.length < 256) →
        ∃ u org, exec i s = .next u ∧ Answers e u s.nextId { f with origin := org } ∧ (spills ↔ org.isSome = true) ∧
          queue u { op with
            fn, raw := raw', origin := org
            spill := if spills then e.spillSpans tab.toNat .localWrite false live.length else []
            lanes := live.map (fun l => ⟨l, readSet e.g l a t.kw, match b' with
              | some b => readB e.g l b bw % 2 ^ bw
              | none => 0⟩) })) ∧
    (let i := Instr.htstat c tab d
     Issues i s e → ∃ u, exec i s = .next u ∧
      Answers e u s.nextId { e.flight .crucible c with
        dst := some d, width := 16, lanes := e.lanes i, args := [(presentOf e i).headD 128] } ∧
      queue u { op with fn := 7, lanes := (lanesOf (e.lanes i)).map (fun l => ⟨l, 0, 0⟩) }) ∧
    (∀ dgl bgl, let i := Instr.htdrain c tab dgl bgl a bs k
      let capd := (readReg e.g 0 bs.toNat).toNat
      let n := 16 + t.recBytes * capd
      let dst := e.object dgl a
      Issues i s e →
      (e.lanes i &&& e.pres = 0 → ∃ u, exec i s = .next u ∧ Sends e u [e.flight .result c] none) ∧
      (e.lanes i &&& e.pres ≠ 0 → t.claimed = true → (s.core e.core).origins.length < 256 →
        (∀ va, dst = .glob va → checkSpan s e.core e.ctx e.inh .write noRegion 16 va n = none) →
        (∀ m off, dst = .pad m off → checkPadSpan s m 16 off n = none) → e.objCheck (e.object bgl k) 16 = none →
        ∃ u id pages, exec i s = .next u ∧ Answers e u s.nextId { e.flight .crucible c with origin := some id } ∧
          queue u { op with
            fn := 6, origin := some id, dst := some dst, capd, bar := some (e.phys (e.object bgl k)), pages
            spill := e.spillSpans tab.toNat .read true 0
            spans := match dst with
              | .glob va => (spansOf s e.core e.ctx va n).map Prod.fst
              | .pad _ _ => [] }))

/-- R224, R225, R227, R230, R233, R236: what the oldest operation of a core's queue does. A probe gives each lane its key's
entry. The lanes of an insertion, a deletion or an accumulation that present one key find it, or give it the first EMPTY
or TOMB slot of its window, or spill it, or drop it. A reserved key is refused. HTSTAT reads the table's counts. (A spill
record goes where the translation of the operation's issue puts it, log 31: the model's choice.) -/
def Obligations.TableOperationsApply : Prop :=
  ∀ (core : Nat) (s : State) (o : TabOp) (rest : List TabOp) (f : Flight),
    (s.core core).crucible = o :: rest → aget? s.flights o.flight = some f → f.gid = o.gid →
    (aget? s.teams o.team).isSome = true → (aget? s.groups o.gid).isSome = true → (∀ d, f.dst = some d → DstOk f d (f.vals.map Prod.fst ++ o.lanes.map TabLane.lane)) →
    (f.preds.map Prod.fst ++ o.lanes.map TabLane.lane).Nodup →
    let tm := s.team o.team
    let t := tm.table o.tab
    let ends := fun (u : State) (fl : Flags) (out : Nat → Nat × Bool) =>
      Completes (stickyGroup s o.gid fl) u o.flight f ∧ (u.core core).crucible = rest ∧
      (∀ d, f.dst = some d → Lands s u f d (f.vals ++ o.lanes.map (fun l => (l.lane, (out l.lane).1)))) ∧
      (∀ p, f.pdst = some p → PredLands s u f p (f.preds ++ o.lanes.map (fun l => (l.lane, (out l.lane).2))))
    let same := fun (u : State) => u.mem = s.mem ∧ u.teams = s.teams
    let val := fun (st v : Nat) => if t.vw = 32 then st + v * 2 ^ 32 else st + v * 2 ^ 64
    let hit := fun (k off : Nat) => FirstIn (windowOf t k) (fun x => t.keyAt tm.pad x = k) off
    let miss := fun (k : Nat) => ∀ x ∈ windowOf t k, t.keyAt tm.pad x ≠ k
    let lacks := if t.spillcnt = 0 then 3 else 4
    let go := Instr.crucibleOperationApplied core
    (o.fn = 7 → f.pdst = none → f.preds = [] → ∃ u, exec go s = .next u ∧ same u ∧ ends u {} (fun _ =>
      let count := fun (P : Nat → Bool) => (t.slots.filter (fun x => P (t.keyAt tm.pad x))).length
      (if t.claimed then t.layout * 4 + t.b * 16 + 2 ^ 11 + count (fun k => k == t.tomb) * 2 ^ 12 +
          count (fun k => k != t.tomb && k != t.empty) * 2 ^ 29 + t.drops.toNat * 2 ^ 64 + t.spillcnt.toNat * 2 ^ 96
        else 0, false))) ∧
    (o.fn = 3 → o.origin = none → ∃ u out, exec go s = .next u ∧ same u ∧ ends u {} out ∧ ∀ l ∈ o.lanes,
      if l.key = t.empty ∨ l.key = t.tomb then out l.lane = (val 8 0, false)
      else (∀ off, hit l.key off → out l.lane = (val 2 (t.valAt tm.pad off), true)) ∧
        (miss l.key → out l.lane = (val lacks 0, false))) ∧
    (∀ k low, (∀ l ∈ o.lanes, l.key = k) → o.lanes.head? = some low → o.fn ∈ [2, 4, 5, 8] →
      let slot := fun (v : Nat) => toBytes k (t.slotBytes / 2) ++ toBytes v (t.slotBytes / 2)
      let seen := (if o.fn = 2 then [low] else o.lanes).map (fun l => offered t o.raw l.val)
      let fl := seen.foldl (fun x y => x.or y.2) ({} : Flags)
      let v := match seen.map Prod.fst with
        | [] => 0
        | x :: xs => xs.foldl (comb t) x
      let free := fun (off : Nat) => FirstIn (windowOf t k) (fun x => t.keyAt tm.pad x = t.empty ∨ t.keyAt tm.pad x = t.tomb) off
      let full := ∀ x ∈ windowOf t k, t.keyAt tm.pad x ≠ t.empty ∧ t.keyAt tm.pad x ≠ t.tomb
      let out := fun (st v : Nat) (p : Bool) => (fun (_ : Nat) => ((if o.fn = 4 then st else val st v, p) : Nat × Bool))
      let new := fun (st : Nat) (l : Nat) => if o.fn = 2 ∧ l ≠ low.lane ∧ st ≠ 7 then (val 1 v, false)
        else (val st v, decide (o.fn = 2 ∧ st ≠ 7))
      let counts := fun (u : State) (sp dr : Word) => (u.team o.team).table o.tab = { t with spillcnt := sp, drops := dr }
      (k = t.empty ∨ k = t.tomb → ∃ u, exec go s = .next u ∧ same u ∧ ends u {} (out 8 0 false)) ∧
      (k ≠ t.empty → k ≠ t.tomb → ∀ off, hit k off →
        (o.fn = 2 → ∃ u, exec go s = .next u ∧ same u ∧ ends u fl (out 1 (t.valAt tm.pad off) false)) ∧
        (o.fn = 4 → ∃ u, exec go s = .next u ∧ u.mem = s.mem ∧ ends u {} (out 5 0 false) ∧ counts u t.spillcnt t.drops ∧
          PadPut s u o.team off (toBytes t.tomb (t.kw / 8))) ∧
        (o.fn = 5 ∨ o.fn = 8 → let x := comb t (t.valAt tm.pad off) v
          ∃ u, exec go s = .next u ∧ u.mem = s.mem ∧ ends u fl (out 2 x false) ∧ counts u t.spillcnt t.drops ∧
          PadPut s u o.team off (slot x))) ∧
      (k ≠ t.empty → k ≠ t.tomb → miss k →
        (o.fn = 4 → ∃ u, exec go s = .next u ∧ same u ∧ ends u {} (out lacks 0 false)) ∧
        (o.fn ≠ 4 → ∀ off, free off → ∃ u, exec go s = .next u ∧ u.mem = s.mem ∧ ends u fl (new 0) ∧
          counts u t.spillcnt t.drops ∧ PadPut s u o.team off (slot v)) ∧
        (o.fn ≠ 4 → full → t.spillcnt.toNat < t.cap → ∀ pa,
          o.spillAt s (t.spill + 16 * t.spillcnt.toNat) = .inl pa →
          (∀ c ∈ s.cores, aget? c.2.l1 (lineOf pa) = none) →
          ∃ u, exec go s = .next u ∧ ends u { fl with spill := true } (new 6) ∧ counts u (t.spillcnt + 1) t.drops ∧
            (u.team o.team).pad = tm.pad ∧ readBytes u.mem pa 16 = toBytes k 8 ++ toBytes v 8 ∧
            ∀ x, x < pa ∨ pa + 16 ≤ x → Store.get u.mem x = Store.get s.mem x) ∧
        (o.fn ≠ 4 → full → t.cap ≤ t.spillcnt.toNat →
          ∃ u, exec go s = .next u ∧ u.mem = s.mem ∧ ends u { fl with drop := true } (new 7) ∧
            counts u t.spillcnt (if t.drops.toNat = 2 ^ 32 - 1 then t.drops else t.drops + 1) ∧
            (u.team o.team).pad = tm.pad)))

/-- R235: applying a drain forms its records, has its barrier expect their bytes and the header's, and empties the table;
each piece then lands in its own step and is credited, and the last acknowledges its store-origin entry, which is freed when
no other write stands under it. (Spilled records are read
where the translation of the drain's issue puts them, log 31: the model's choice.) -/
def Obligations.DrainsLand : Prop :=
  (∀ (core : Nat) (s : State) (o : TabOp) (rest : List TabOp) (f : Flight) (bar : Place) (pa : Nat → Nat),
    (s.core core).crucible = o :: rest → o.fn = 6 → o.bar = some bar → aget? s.flights o.flight = some f → f.gid = o.gid →
    f.dst = none → f.pdst = none → f.preds = [] → (aget? s.teams o.team).isSome = true → NothingWaits s →
    let tm := s.team o.team
    let t := tm.table o.tab
    (∀ j, j < t.spillcnt.toNat → o.spillAt s (t.spill + 16 * j) = .inl (pa j) ∧ s.isPoisoned (pa j) = false ∧
      ∀ c ∈ s.cores, aget? c.2.l1 (lineOf (pa j)) = none) → (∀ x ∈ t.slots, tm.padBad x t.slotBytes = false) →
    (∀ a, bar = .glob a → NoPartials s (lineOf a)) →
    (∀ m a, bar = .pad m a → (aget? s.teams m).isSome = true ∧
      (m = o.team → a + 16 ≤ t.base ∨ t.base + 64 * 2 ^ t.b ≤ a)) →
    ∃ u recs, exec (.crucibleOperationApplied core) s = .next u ∧
      let written := min recs.length o.capd
      let b := parseBar (bytesAt s bar 16)
      DrainHolds t tm.pad ((List.range t.spillcnt.toNat).map (fun j =>
        let bs := readBytes s.mem (pa j) 16
        (ofBytes (bs.take 8) % 2 ^ t.kw, ofBytes (bs.drop 8) % 2 ^ t.vw))) recs ∧
      Completes (stickyGroup s o.gid { drop := decide (written < recs.length) }) u o.flight f ∧
      (u.core core).crucible = rest ∧
      bytesAt u bar 16 = barBytes (completed { b with bexp := (b.bexp + 16 + t.recBytes * written) % 2 ^ 32 }) ∧
      (u.team o.team).table o.tab = { t with
        spillcnt := 0, drops := BitVec.ofNat 32 (min (t.drops.toNat + (recs.length - written)) (2 ^ 32 - 1)) } ∧
      (∀ x ∈ t.slots, t.keyAt (u.team o.team).pad x = t.empty ∧ t.valAt (u.team o.team).pad x = 0) ∧
      aget? (u.core core).drains o.flight = some ⟨o.gid, o.ctx, o.flight, o.origin, bar,
        (o.dstAt 0, toBytes (recs.length + written * 2 ^ 32) 16) ::
          (List.range written).map (fun j =>
            let x := recs.getD j (0, 0)
            let w := if t.layout = 0 then 4 else 8
            (o.dstAt (16 + t.recBytes * j), toBytes x.1 w ++ toBytes x.2 w)), o.pages, o.refused, o.refusedAt⟩) ∧
  (∀ (core op n : Nat) (s : State) (d : Drain) (p : Place) (bs : List Byte),
    aget? (s.core core).drains op = some d → (∀ c ∈ s.cores, c.1 ≠ core → aget? c.2.drains op = none) → d.refused = false →
    d.moves[n]? = some (p, bs) → NothingWaits s →
    (∀ q m, (q, m) ∈ [(p, bs.length), (d.bar, 16)] → PlainPlace s q m) → p.meets bs.length d.bar 16 = false →
    let b := parseBar (bytesAt s d.bar 16)
    ∃ u, exec (.drainCredit op n) s = .next u ∧ bytesAt u p bs.length = bs ∧
      bytesAt u d.bar 16 = barBytes (completed { b with landed := (b.landed + bs.length) % 2 ^ 32 }) ∧
      u.groups = s.groups ∧ u.flights = s.flights ∧
      (d.moves.length = 1 → aget? (u.core core).drains op = none ∧
        ∀ k o, d.origin = some k → aget? (s.core core).origins k = some o → aget? (u.core core).origins k =
          if o.count ≤ 1 then none else some { o with count := o.count - 1 }) ∧
      (d.moves.length ≠ 1 → aget? (u.core core).drains op = some { d with moves := d.moves.eraseIdx n }))

/-! ## Swage -/

/-- R100, R101, R240 to R242: THSET installs the descriptor it reads, when it is well formed, at the slot's next generation
and answers its token, else 0 and no change; THGET answers a slot's status; THDROP invalidates a slot and advances its
generation, and with REVOKE also ends the copies that use the slot, forcing each barrier they would credit, and aborts
the Anvil requests that use it; no other core's release covers a forced barrier then (R122). (That THGET acts once, writes
its value in every active lane, and does nothing without a present one is log 42, that without one they mark their flag log
38, and which bases and strides a well-formed descriptor has log 17, all DEDUCED; that THSET ignores poison, what INFLIGHT
counts, and that a queued command of no bytes has its barrier forced is log 102, DESIGN CHOICE: the model's choice.) -/
def Obligations.HandlesAreInstalledAndDropped : Prop :=
  ∀ (c : Ctl) (slot : BitVec 4) (d a : RegCode) (s : State) (e : Env),
    e.flagFull c = false →
    let x := readReg e.g 0 a.toNat
    let ans := fun (i : Instr) (w v : Nat) => ({ e.flight .result c with
      dst := some d, width := w, lanes := e.lanes i, args := [(presentOf e i).headD 128]
      vals := (lanesOf (e.lanes i)).map (fun l => (l, v)) } : Flight)
    let hs := fun (t : State) (n : Nat) (h : Handle) => t.mem = s.mem ∧ (∀ m, m ≠ e.g.team → t.team m = s.team m) ∧
      t.team e.g.team = { e.t with handles := (t.team e.g.team).handles } ∧
      ∀ m, (t.team e.g.team).handle m = if m = n then h else e.t.handle m
    let token := fun (n : Nat) (g : BitVec 12) => e.t.check.toNat * 2 ^ 16 + g.toNat * 16 + n
    (∀ i ∈ [Instr.thset c slot d a, .thget c d a, .thdrop c a, .thdropRevoke c a], Issues i s e →
      e.lanes i &&& e.pres = 0 → ∃ t, exec i s = .next t ∧ Sends e t [e.flight .result c] none) ∧
    (let i := Instr.thset c slot d a
     let bs := readBytes e.t.pad x.toNat 64
     let g := (e.t.handle slot.toNat).gen + 1
     Issues i s e → e.lanes i &&& e.pres ≠ 0 → e.accessHeld = false → x.toNat % 64 = 0 → x.toNat + 64 ≤ e.l.padBytes →
     e.t.claims x.toNat 64 = false → lineBusy s e.gid (.pad e.g.team 0) = false →
     (wellDesc bs = true → ∃ t, exec i s = .next t ∧ Answers e t s.nextId (ans i 4 (token slot.toNat g)) ∧
       hs t slot.toNat ⟨true, g, bs⟩) ∧
     (wellDesc bs = false → ∃ t, exec i s = .next t ∧ Sends e t [ans i 4 0] none)) ∧
    (let i := Instr.thget c d a
     let n := x.toNat % 16
     let h := e.t.handle n
     let out := min 64 (((s.core e.core).swageQueue ++ (s.core e.core).swage.map Prod.snd).filter (fun y =>
       decide (y.team = e.g.team ∧ (y.slotD = n ∨ y.slotS = n)))).length
     Issues i s e → e.lanes i &&& e.pres ≠ 0 → e.accessHeld = false →
     ∃ t, exec i s = .next t ∧ Sends e t [ans i 16 (out * 2 ^ 64 + if h.valid then
       2 ^ 72 + ofBytes (h.desc.take 4) * 2 ^ 32 + token n h.gen else 0)] none) ∧
    (∀ n bs, TokenNames e.t x n bs → e.accessHeld = false →
      let h : Handle := { e.t.handle n with valid := false, gen := (e.t.handle n).gen + 1 }
      (Issues (.thdrop c a) s e → e.lanes (.thdrop c a) &&& e.pres ≠ 0 →
        ∃ t, exec (.thdrop c a) s = .next t ∧ Answers e t s.nextId (e.flight .result c) ∧ hs t n h) ∧
      (let i := Instr.thdropRevoke c a
       let uses := fun (y : SwageCmd) => decide (y.team = e.g.team ∧ (y.slotD = n ∨ y.slotS = n))
       let cl := e.core / 4
       let reqs := fun (r : Request) => decide (r.team = e.g.team ∧ (r.slotA = n ∨ r.slotB = n))
       let bars := revokedBars s e.core e.g.team n
       Issues i s e → e.lanes i &&& e.pres ≠ 0 → NothingWaits s →
       (∀ b ∈ bars, lineBusy s e.gid b.1 = false ∧ PlainPlace s b.1 16 ∧
         ∀ b' ∈ bars, b'.1 ≠ b.1 → b.1.meets 16 b'.1 16 = false) →
       (∀ y y', y ∈ (s.core e.core).commands → y' ∈ (s.core e.core).commands → uses y = true → y.core = e.core ∧
         (y'.flight = y.flight → uses y' = true)) → ((s.cluster cl).table.map (fun r => r.id)).Nodup →
       (∀ r ∈ (s.cluster cl).table, reqs r = true → r.revokers = [] ∧ r.suspended = false ∧ r.flight < s.nextId) →
       ∃ t f, exec i s = .next t ∧ MovesOn e t ∧ (t.team e.g.team).handle n = h ∧
         (∀ m, m ≠ n → (t.team e.g.team).handle m = e.t.handle m) ∧
         (∀ l r, readReg (t.group e.gid) l r = readReg e.g l r) ∧
         aget? t.flights s.nextId = some f ∧ f.flag = e.is.flag c.fs ∧
         (f.kind = .anvil ↔ ∃ r ∈ (s.cluster cl).table, reqs r = true ∧ (s.cluster cl).runs r = true) ∧
         (t.core e.core).swageQueue = (s.core e.core).swageQueue.filter (fun y => !uses y) ∧
         (t.core e.core).swage = (s.core e.core).swage.filter (fun y => !uses y.2) ∧
         (∀ b ∈ bars, bytesAt t b.1 16 =
           let o := parseBar (bytesAt s b.1 16)
           barBytes ⟨(o.phase + 1) % 2 ^ 32, o.exp, true, 0, 0, 0⟩) ∧
         (∀ b ∈ bars, ∀ y, b.1 = .glob y → (s.hallmark (lineOf y)).lcore ≠ e.core → (t.hallmark (lineOf y)).lv = false) ∧
         (∀ r ∈ (t.cluster cl).table, reqs r = true → (s.cluster cl).runs r = true ∧ r.aborted = true) ∧
         ∀ r ∈ (s.cluster cl).table, reqs r = false → ∃ r' ∈ (t.cluster cl).table, { r' with since := r.since } = r))

/-- R244 to R248: what a copy command covers. CPY copies every element inside the destination's extents from the same index
of its source; CPYG the rows an index vector names into consecutive rows, a CSR source's by record; CPYS consecutive rows
to the rows named, discarding those outside; CPYR into one index of the destination's top dimension.
R101, R238, R239, R243, R248, R249: a copy command that passes its checks is snapshotted into its core's queue, in flight
with a store-origin entry, with the moves and the byte total of its plan; a CPYR waits for its permit. Without an active
present lane nothing is issued. (Its object lies in no line its core holds. That NSLOT is read at issue is log 40, that an
odd number of 4-bit elements counts a whole byte in the total is log 41, which R249 does not settle, and that an instruction
without a lane marks its flag log 38: the model's choice.) -/
def Obligations.CopiesAreIssuedAndCover : Prop :=
  (∀ (d src : List Byte) (idx : List Nat) (t : Nat) (u : Planned),
    let dim := fun (k : Nat) => if k < dRank d then ofBytes ((d.drop (16 + 4 * k)).take 4) else 1
    (u ∈ planFor 3 d src [] false 0 ↔ ∃ i0 i1 i2 i3, FirstOfUnit d (dim 0) i0 ∧ i1 < dim 1 ∧ i2 < dim 2 ∧ i3 < dim 3 ∧
      CopiesElem d src [i0, i1, i2, i3] [i0, i1, i2, i3] u) ∧
    (dType src ≠ 2 → (u ∈ planFor 4 d src idx true 0 ↔ ∃ j i0, j < min idx.length (dim 1) ∧ FirstOfUnit d (dim 0) i0 ∧
      CopiesElem d src [i0, j, 0, 0] [i0, idx.getD j 0, 0, 0] u)) ∧
    (dType src = 2 → (u ∈ planFor 4 d src idx true 0 ↔ ∃ j i0, j < min idx.length (dim 1) ∧ FirstOfUnit d (dim 0) i0 ∧
      u.dst = addrOf d [i0, j, 0, 0] ∧ u.half = none ∧ u.src = .csr (idx.getD j 0) i0)) ∧
    (u ∈ planFor 5 d src idx true 0 ↔ ∃ j i0, j < idx.length ∧ FirstOfUnit d (dim 0) i0 ∧
      if idx.getD j 0 < dim 1 then CopiesElem d src [i0, idx.getD j 0, 0, 0] [i0, j, 0, 0] u
      else u.dst = none ∧ u.half = none ∧ u.src = .zero) ∧
    (dRank d = 3 → (u ∈ planFor 6 d src idx false t ↔ ∃ i0 i1, FirstOfUnit d (dim 0) i0 ∧ i1 < dim 1 ∧
      CopiesElem d src [i0, i1, t, 0] [i0, i1, 0, 0] u)) ∧
    (dType src ≠ 2 → (u ∈ planFor 6 d src idx true t ↔ ∃ j i0, j < min idx.length (dim 1) ∧ FirstOfUnit d (dim 0) i0 ∧
      CopiesElem d src [i0, j, t, 0] [i0, idx.getD j 0, 0, 0] u))) ∧
  (∀ (c : Ctl) (bgl : Bool) (a bs k : RegCode) (s : State) (e : Env) (slotD slotS : Nat) (d src : List Byte) (pa : Place),
    e.flagFull c = false →
    ∀ i fn radd, (i, fn, radd) ∈ [(Instr.cpy c bgl a bs k, 3, false), (.cpyg c bgl a bs k, 4, false),
        (.cpys c bgl a bs k, 5, false), (.cpysRadd c bgl a bs k, 5, true), (.cpyr c bgl a bs k, 6, false)] → Issues i s e →
    let p := e.object bgl k
    let iw := if fn = 3 then 0 else (readReg e.g 0 ((if fn = 5 then a else bs).toNat + 1)).toNat
    let count := iw / 2 ^ 20
    let off := iw % 2 ^ 20
    let nslot := if fn = 6 then ofBytes (bytesAt s pa 16) % 2 ^ 11 else 0
    let gathers := fn = 4 ∨ fn = 5 ∨ (fn = 6 ∧ count ≠ 0)
    let index := if gathers then (List.range count).map (fun j =>
      (BitVec.ofNat 32 (ofBytes (readBytes e.t.pad (off + 4 * j) 4)) : Word)) else []
    let plan := copyPlan s e.core e.ctx e.g.team e.inh fn radd d src (index.map BitVec.toNat) (decide gathers) nslot
    (e.lanes i &&& e.pres = 0 → ∃ t, exec i s = .next t ∧ Sends e t [e.flight .result c] none) ∧
    (e.lanes i &&& e.pres ≠ 0 → e.accessHeld = false → TokenNames e.t (readReg e.g 0 a.toNat) slotD d →
      TokenNames e.t (readReg e.g 0 bs.toNat) slotS src → lineBusy s e.gid (.pad e.g.team 0) = false →
      (s.core e.core).origins.length < 256 → Quiet e → e.phys p = pa → PlainPlace s pa 16 →
      e.objCheck p 16 = none → e.objCheck p (16 + 16 * nslot) = none →
      (gathers → off % 4 = 0 ∧ (count ≠ 0 → off + 4 * count ≤ e.l.padBytes ∧ e.t.claims off (4 * count) = false)) →
      plan.trap = none →
      ∃ t id x, exec i s = .next t ∧ Answers e t s.nextId { e.flight .swage c with origin := some id } ∧
        t.mem = s.mem ∧ t.teams = s.teams ∧ (t.core e.core).swageQueue = (s.core e.core).swageQueue ++ [x] ∧
        x.flight = s.nextId ∧ x.gid = e.gid ∧ x.team = e.g.team ∧ x.ctx = e.ctx ∧ x.core = e.core ∧ x.fn = fn ∧
        x.snapD = d ∧ x.snapS = src ∧ x.slotD = slotD ∧ x.slotS = slotS ∧ x.index = BitVec.ofNat 32 iw :: index ∧
        x.origin = some id ∧ x.pbar = pa ∧ x.slotBars = (List.range nslot).map (fun n => e.phys (p.plus (16 + 16 * n))) ∧
        x.permit = none ∧ x.accepted = false ∧ x.refused = false ∧ x.total = plan.total ∧
        (if fn = 6 then x.waiting = true ∧ x.alts = plan.alts ∧ x.moves = []
          else x.waiting = false ∧ x.alts = [] ∧ x.moves = plan.alts.headD [])))


/-- R122, R238, R247 to R249: the Swage accepts commands in their order into its lowest free slot, and their flags clear;
a CPYR takes permit PUT once the ring has one, and its slot's barrier expects its bytes; the units of a move land, and
then, in a step of its own, their bytes are credited; with its last credit a command leaves, a CPYR with one arrival. RADD's
units on device memory are gathered as a RED's, or combined at the home on an AGG page (R325), and those on the scratchpad land
move by move, in ascending j. A refused command takes no permit and lands nothing (R328). (Places no cache holds. That the
units of one 64-byte block land together, and are credited together, is log 39, that the CPYRs of one core take a ring's
permits first in first out is log 40, and that a command without a store-origin entry takes one when it is accepted log 60:
the model's choice.) -/
def Obligations.CopiesLand : Prop :=
  ∀ (core : Nat) (s : State),
    (∀ x rest f n, (s.core core).swageQueue = x :: rest → x.core = core → aget? s.flights x.flight = some f → n < 64 →
      aget? (s.core core).swage n = none → (∀ m, m < n → (aget? (s.core core).swage m).isSome = true) →
      (∀ y ∈ rest, y.flight ≠ x.flight) → (∀ y ∈ (s.core core).swage, y.2.flight ≠ x.flight) →
      (x.origin.isSome = true ∨ (s.core core).origins.length < 256) →
      ∃ t, exec (.swageAccept core) s = .next t ∧ Completes s t x.flight f ∧ (t.core core).swageQueue = rest ∧
        t.mem = s.mem ∧ (x.moves = [] → x.waiting = false → (t.core core).swage = (s.core core).swage) ∧
        (¬ (x.moves = [] ∧ x.waiting = false) → ∃ org, (∀ o, x.origin = some o → org = o) ∧
          (aget? (t.core core).origins org).isSome = (x.origin.isNone || (aget? (s.core core).origins org).isSome) ∧
          ∀ m, aget? (t.core core).swage m =
            if m = n then some { x with accepted := true, origin := some org } else aget? (s.core core).swage m)) ∧
    (∀ n x, aget? (s.core core).swage n = some x → x.waiting = true →
      (∀ y ∈ (s.core core).swage, y.2.waiting = true → y.2.pbar = x.pbar → x.flight ≤ y.2.flight) →
      PlainPlace s x.pbar 16 → NothingWaits s →
      let v := ofBytes (bytesAt s x.pbar 16)
      let put := v / 2 ^ 64 % 2 ^ 32
      let give := v / 2 ^ 96 % 2 ^ 32
      let nslot := v % 2 ^ 11
      let bar := x.slotBars.getD (put % nslot) x.pbar
      let o := parseBar (bytesAt s bar 16)
      x.alts.length = nslot → x.slotBars.length = nslot → nslot ≠ 0 → PlainPlace s bar 16 → bar.meets 16 x.pbar 16 = false →
      (x.refused = true → exec (.cpyrPermit core n) s = .next s) ∧
      (x.refused = false → (put + 2 ^ 32 - give) % 2 ^ 32 < nslot → ∃ t, exec (.cpyrPermit core n) s = .next t ∧
        bytesAt t x.pbar 16 = toBytes (v % 2 ^ 64 + (put + 1) % 2 ^ 32 * 2 ^ 64 + give * 2 ^ 96) 16 ∧
        bytesAt t bar 16 = barBytes (completed { o with bexp := (o.bexp + x.total) % 2 ^ 32 }) ∧
        t.groups = s.groups ∧ t.flights = s.flights ∧ aget? (t.core core).swage n = some { x with
          waiting := false, permit := some (BitVec.ofNat 32 put), alts := [], moves := x.alts.getD (put % nslot) [] }) ∧
      (nslot ≤ (put + 2 ^ 32 - give) % 2 ^ 32 → exec (.cpyrPermit core n) s = .next s)) ∧
    (∀ n m x mv, aget? (s.core core).swage n = some x → x.core = core → x.moves[m]? = some mv → x.waiting = false →
      let radd := x.fn = 5 ∧ x.w2.getLsbD 1 = true
      let waits := radd ∧ dSpace x.snapD = 1 ∧ mv.landed = false ∧ ∃ k y, k < m ∧ x.moves[k]? = some y ∧ y.landed = false
      let gathers := fun (u : CopyUnit) => radd ∧ u.dst.global = true ∧ u.agg = false
      let kept := fun (t : State) (outside : Place → Prop) => t.groups = s.groups ∧ t.flights = s.flights ∧
        (∀ a, outside (.glob a) → Store.get t.mem a = Store.get s.mem a) ∧
        ∀ w a, outside (.pad w a) → Store.get (t.team w).pad a = Store.get (s.team w).pad a
      (x.refused = true ∨ writesOpen s x.gid x.flight = true ∨ waits → exec (.swageCredit core n m) s = .next s) ∧
      (x.refused = false → writesOpen s x.gid x.flight = false →
      (mv.landed = false → ¬ waits → (∀ u ∈ mv.units, radd → u.agg = true → u.n = (dTy x.snapD).width / 8) →
        (∀ u ∈ mv.units, PlainPlace s u.dst u.n ∧ 0 < u.n ∧ (u.half.isSome = true → u.n = 1) ∧
          ∀ y ∈ readsOf s x u, PlainPlace s y.1 y.2 ∧ (radd → y.1.global = false) ∧
            ∀ u' ∈ mv.units, u'.dst.meets u'.n y.1 y.2 = false) →
        mv.units.Pairwise (fun (u u' : CopyUnit) => u.dst.meets u.n u'.dst u'.n = false) →
        (radd → HasRoom s core mv.units.length) →
        ∃ t, exec (.swageCredit core n m) s = .next t ∧
          kept t (fun p => ∀ u ∈ mv.units, ¬ gathers u → u.dst.meets u.n p 1 = false) ∧
          (∀ u ∈ mv.units, ¬ gathers u → bytesAt t u.dst u.n = unitBytes s x u) ∧
          (∀ u b, u ∈ mv.units → gathers u → u.dst = .glob b →
            Gathered t core b ⟨0, dTy x.snapD⟩ (sourceValue s x u)) ∧
          aget? (t.core core).swage n = some { x with moves := x.moves.set m { mv with landed := true } }) ∧
      (mv.landed = true → NothingWaits s → aget? s.flights x.flight = none →
        ((s.core core).swage.map Prod.fst).Nodup → (∀ y ∈ (s.core core).swage, y.1 ≠ n → y.2.flight ≠ x.flight) →
        PlainPlace s x.credits 16 →
        let last := x.moves.length = 1
        let o := parseBar (bytesAt s x.credits 16)
        ∃ t, exec (.swageCredit core n m) s = .next t ∧ kept t (fun p => x.credits.meets 16 p 1 = false) ∧
          bytesAt t x.credits 16 = barBytes (completed { o with
            landed := (o.landed + mv.credit) % 2 ^ 32
            arr := min (o.arr + if x.fn = 6 ∧ last then 1 else 0) 32767 }) ∧
          (last → aget? (t.core core).swage n = none) ∧
          (¬ last → aget? (t.core core).swage n = some { x with moves := x.moves.eraseIdx m }))))

/-! ## Anvil -/

/-- R254, R266 to R270: MRSV maps the tiles of its mask, zeroed, and answers true when the mask is not empty, none of them
is mapped and enough physical tiles are free that no waiting unit has reserved (R344), else it answers false and maps none; MREL releases the mapped tiles of its
mask, aborting the requests on them, all of which its second mask names; MPRI sets their priority; MZERO enters a request
for each, as far as its core's 16 entries and its flag have room (R60, R256), and the rest as they free. Without an active
present lane they do nothing. (That an MZERO which a deadline stopped enters all its tiles again is log 104, DESIGN CHOICE:
the model's choice.) -/
def Obligations.TilesAreMappedAndReleased : Prop :=
  ∀ (c : Ctl) (wide : Bool) (pd : PredCode) (a b : RegCode) (s : State) (e : Env), (aget? s.teams e.g.team).isSome = true →
    let mask := readReg e.g 0 a.toNat
    let arg := readReg e.g 0 b.toNat
    let ts := mappedOf e.t mask
    let cl := e.core / 4
    let kept := fun (i : Instr) (t : State) => MovesOn e t ∧ t.mem = s.mem ∧ (∀ m, m ≠ e.g.team → (t.team m).tiles = (s.team m).tiles) ∧
      (∀ l r, readReg (t.group e.gid) l r = readReg e.g l r) ∧
      ∀ l p, ¬ (i = .mrsv c wide pd a b ∧ p = pd ∧ (e.lanes i).getLsbD l = true) →
        readPred (t.group e.gid) l p = readPred e.g l p
    let tile := fun (t : State) (n : Nat) => (t.team e.g.team).tile n
    let status := BitVec.ofNat 128 ((if wide then 2 ^ 38 else 0) + arg.toNat % 8 * 2 ^ 35 + 2 ^ 34)
    let fresh : Tile := { mapped := true, wide, prio := arg.toNat % 8, status }
    (∀ i ∈ [Instr.mrsv c wide pd a b, .mrel c a b, .mpri c a b, .mzero c a], Issues i s e → e.lanes i &&& e.pres = 0 →
      ∃ t, exec i s = .next t ∧ Retires e s t) ∧
    (let i := Instr.mrsv c wide pd a b
     let named := fun (n : Nat) => n < 8 ∧ mask.getLsbD n = true
     let ok := (∃ n, named n) ∧ (∀ n, named n → (e.t.tile n).mapped = false) ∧
       ((List.range 8).filter mask.getLsbD).length * (if wide then 2 else 1) ≤ openTiles s cl
     Issues i s e → e.lanes i &&& e.pres ≠ 0 →
     (ok → ∃ t, exec i s = .next t ∧ kept i t ∧ PredHolds e t (e.lanes i) pd (fun _ v => v = true) ∧
       ∀ n, (named n → tile t n = fresh) ∧ (¬ named n → tile t n = e.t.tile n)) ∧
     (¬ ok → RunsPred i s e pd (fun _ v => v = false))) ∧
    (let i := Instr.mrel c a b
     Issues i s e → e.lanes i &&& e.pres ≠ 0 → ((s.cluster cl).table.map (fun r => r.id)).Nodup →
     (∀ r ∈ (s.cluster cl).table, r.team = e.g.team → r.tile ∈ ts → arg.getLsbD r.tile = true ∧ r.revokers = [] ∧
       (s.cluster cl).detached r = false) →
     ∃ t, exec i s = .next t ∧ kept i t ∧ (∀ n ∈ ts, tile t n = {}) ∧ (∀ n, n ∉ ts → tile t n = e.t.tile n) ∧
       (∀ r ∈ (t.cluster cl).table, r.team = e.g.team → r.tile ∈ ts →
         (s.cluster cl).runs r = true ∧ r.aborted = true ∧
         ∃ u tl, (t.cluster cl).running = some u ∧ u.gone = some tl ∧ tl = { e.t.tile r.tile with status := tl.status }) ∧
       ∀ r ∈ (s.cluster cl).table, ¬ (r.team = e.g.team ∧ r.tile ∈ ts) →
         ∃ r' ∈ (t.cluster cl).table, unclocked r' = unclocked r) ∧
    (let i := Instr.mpri c a b
     Issues i s e → e.lanes i &&& e.pres ≠ 0 → ∃ t, exec i s = .next t ∧ kept i t ∧
       (∀ n, n ∉ ts → tile t n = e.t.tile n) ∧
       ∀ n ∈ ts, tile t n = { e.t.tile n with prio := arg.toNat % 8, status := (tile t n).status } ∧
         ∀ k, (tile t n).status.getLsbD k =
           if 35 ≤ k ∧ k < 38 then arg.getLsbD (k - 35) else (e.t.tile n).status.getLsbD k) ∧
    (let i := Instr.mzero c a
     let left := ts.filter (fun n => !e.is.entered.contains n)
     let reqs := left.map (fun n => e.request c .mzero n)
     let room := min (16 - ((s.cluster cl).table.filter (fun r => r.core == e.core)).length)
       (match e.is.flag c.fs with | some f => 63 - (Store.get e.g.flags f).toNat | none => 16)
     Issues i s e → e.lanes i &&& e.pres ≠ 0 → Quiet e →
     (e.accessHeld = true ∨ (room = 0 ∧ left ≠ []) → exec i s = .next s) ∧
     (e.accessHeld = false → left.length ≤ room → ∃ t, exec i s = .next t ∧ Enters e t c reqs) ∧
     (e.accessHeld = false → 0 < room → room < left.length → ∃ t, exec i s = .next t ∧
       (t.cluster cl).table.map unclocked = (s.cluster cl).table.map unclocked ++
         (reqs.take room).mapIdx (fun n r => { r with id := s.nextId + n, flight := s.nextId + n }) ∧
       t.group e.gid = { e.g with flags := (t.group e.gid).flags, quads := (t.group e.gid).quads } ∧
       (∀ q, QuadKeeps (e.g.quad q) ((t.group e.gid).quad q) ∧ ((t.group e.gid).quad q).dix = (e.g.quad q).dix) ∧
       (∀ n, Store.get (t.group e.gid).flags n =
         Store.get e.g.flags n + if e.is.flag c.fs = some n then BitVec.ofNat 6 room else 0) ∧ t.mem = s.mem ∧ t.teams = s.teams ∧
       ((t.core e.core).port e.port).issue = some { e.is with entered := e.is.entered ++ left.take room }))

/-- R101, R263, R266, R271 to R273: an MMA, MMAT, MLD or MST that passes its checks enters its request with its handles'
snapshots and its record, an MMAT waiting for its trigger unless that has passed; when a forced completion passed it, the
request is discarded at issue and its tile's ABT is set, its PC only while no other request of the tile has begun (R255).
R123: a trigger that has passed pulls what happens-before that completion first. Without an active present lane they do
nothing. -/
def Obligations.RequestsAreEntered : Prop :=
  ∀ (c : Ctl) (tile : BitVec 3) (bgl : Bool) (acct : BitVec 2) (a b k : RegCode) (s : State) (e : Env),
    let rec_ := fun (n : Nat) => (List.range n).map (fun j => readReg e.g 0 (k.toNat + j))
    let tl := e.t.tile tile.toNat
    let tokA := readReg e.g 0 a.toNat
    let tokB := readReg e.g 0 b.toNat
    (∀ i ∈ [Instr.mma c tile a b k, .mmat c tile bgl a b k, .mld c tile acct a b k, .mst c tile acct a b k],
      Issues i s e → e.lanes i &&& e.pres = 0 → ∃ t, exec i s = .next t ∧ Retires e s t) ∧
    (∀ sa sb ha hb,
      let w := fun (n : Nat) => (readReg e.g 0 (k.toNat + n)).toNat
      let r : Request := { e.request c .mma tile.toNat with
        snapA := ha, snapB := hb, slotA := sa, slotB := sb, record := rec_ 4, k := w 2 }
      tl.mapped = true → TokenNames e.t tokA sa ha → TokenNames e.t tokB sb hb → (mmaAcc ha hb tl.wide).isSome = true →
      w 2 % (passRate ha hb).1 = 0 → operandCheck s e.g.team ha (w 0) (w 2) (w 3) = none →
      (dSpace hb = 1 → operandCheck s e.g.team hb (w 1) (w 2) (w 3) = none) → Quiet e → e.anvilHeld c = false →
      (let i := Instr.mma c tile a b k
       Issues i s e → e.lanes i &&& e.pres ≠ 0 → ∃ t, exec i s = .next t ∧ Enters e t c [r]) ∧
      (let i := Instr.mmat c tile bgl a b k
       let trig : Place := if bgl then .glob (w 4 + w 5 * 2 ^ 32) else .pad e.g.team (w 4)
       let o := parseBar (bytesAt s (e.phys trig) 16)
       let r := fun (passed : Bool) => ({ r with
         kind := .mmat, record := rec_ 8, trigger := some (trig, readReg e.g 0 (k.toNat + 6)), passed } : Request)
       Issues i s e → e.lanes i &&& e.pres ≠ 0 → e.objCheck trig 16 = none → PlainPlace s (e.phys trig) 16 →
       (aget? s.teams e.g.team).isSome = true →
       (¬ Passed o.phase (w 6) → ∃ t, exec i s = .next t ∧ Enters e t c [r false]) ∧
       (Passed o.phase (w 6) → ¬ (o.err = true ∧ o.phase = (w 6 + 1) % 2 ^ 32) →
         ∃ t, exec i s = .next t ∧ Enters { e with s := pullPending s (e.phys trig) } t c [r true]) ∧
       (Passed o.phase (w 6) → o.err = true → o.phase = (w 6 + 1) % 2 ^ 32 → ∃ t, exec i s = .next t ∧ MovesOn e t ∧
         t.mem = s.mem ∧ t.flights = s.flights ∧ t.clusters = s.clusters ∧
         (∀ l r, readReg (t.group e.gid) l r = readReg e.g l r) ∧
         let tl' := (t.team e.g.team).tile tile.toNat
         tl' = { tl with status := tl'.status } ∧ statusAbt tl'.status = true ∧
         let begun := ∃ x ∈ (s.cluster (e.core / 4)).table, x.id ≠ s.nextId ∧ x.team = e.g.team ∧ x.tile = tile.toNat ∧
           (x.ran = true ∨ x.suspended = true ∨ (s.cluster (e.core / 4)).runs x = true)
         (¬ begun → statusPc tl'.status = e.is.pc.toNat / 4) ∧ (begun → statusPc tl'.status = statusPc tl.status) ∧
         statusK tl'.status = statusK tl.status))) ∧
    (∀ i kind, (i, kind) ∈ [(Instr.mld c tile acct a b k, ReqKind.mld), (.mst c tile acct a b k, .mst)] → ∀ sa h,
      let m0 := readReg e.g 0 b.toNat
      let n0 := readReg e.g 0 (b.toNat + 1)
      let runs := moveRuns h m0.toNat n0.toNat
      Issues i s e → e.lanes i &&& e.pres ≠ 0 → tl.mapped = true → TokenNames e.t tokA sa h → (acct = 2 ↔ tl.wide = true) →
      dType h = 0 → dRank h = 2 → ¬ (9 ≤ dEty h ∧ dEty h ≤ 13) →
      (∀ x ∈ runs, if dSpace h = 1 then checkPadSpan s e.g.team x.2.2 x.1 x.2.1 = none
        else checkSpan s e.core e.ctx e.inh (if kind = .mst then .write else .read) noRegion x.2.2 x.1 x.2.1 = none) →
      Quiet e → e.anvilHeld c = false → (s.core e.core).origins.length < 256 →
      ∃ t id spans pages, exec i s = .next t ∧ Enters e t c [{ e.request c kind tile.toNat with
        snapA := h, slotA := sa, record := [m0, n0, readReg e.g 0 k.toNat], spans, pages, origin := some id }])

/-- R258, R259, R263, R272: with no unit running the Anvil grants the next unit to the eligible request of the highest
effective priority, the first entered among equals; one without a pass left completes at the head of its tile. An
observed completion passes an MMAT's trigger, or discards the request when it was forced. (That the status word takes PC at
the grant of a unit of any kind, and K at that of passes alone, is log 44, and that a request waits for its group's earlier
writes is log 43: the model's choice. An MLD or MST of a resumed group takes a store-origin entry at its grant, log 60.) -/
def Obligations.AnvilGrantsByPriority : Prop :=
  ∀ (cl : Nat) (s : State) (r : Request) (f : Flight), Queues s cl r f →
    let c := s.cluster cl
    let eff := fun (x : Request) => ((s.team x.team).tile x.tile).prio + min 7 ((s.clock - x.since.getD s.clock) / 256)
    let clocks := match r.kind with
      | .mzero => 1
      | .mld | .mst => 16
      | _ =>
        let half := fun (n : Nat) => if dType r.snapA = 3 then n / 2 else n
        if dTy r.snapA = .tf32 then 4
        else match max (dTy r.snapA).width (dTy r.snapB).width with
          | 4 => half 2
          | 8 => half 4
          | 16 => half 8
          | 32 => 16
          | _ => 64
    let spent := fun (x : Request) => (x.kind = .mma ∨ x.kind = .mmat) ∧ (x.record.getD 3 0).toNat ≤ x.k
    ((∀ x ∈ c.table, c.eligible x = true → ¬ spent x) → c.running = none → s.iluic.stopped = false →
      grantable s cl r = true → (∀ x ∈ c.table, grantable s cl x = true → eff x ≤ eff r) → eff r ≤ 64 →
      (∃ n : Nat, c.table[n]? = some r ∧
        ∀ (m : Nat) x, m < n → c.table[m]? = some x → grantable s cl x = true → eff x < eff r) →
      ∃ t, exec (.anvilGrant cl) s = .next t ∧ t.mem = s.mem ∧ t.groups = s.groups ∧ t.flights = s.flights ∧
        (∃ org, (r.lacksOrigin = false → org = r.origin) ∧ (r.lacksOrigin = true → org.isSome = true) ∧
          t.cluster cl = { c with
            running := some ⟨r.id, s.clock + clocks, none⟩
            table := c.table.map (fun x => if x.id = r.id then { x with origin := org } else x) }) ∧
        let tl := (s.team r.team).tile r.tile
        let tl' := (t.team r.team).tile r.tile
        tl' = { tl with status := tl'.status } ∧ statusPc tl'.status = r.pc.toNat / 4 ∧
        statusK tl'.status = if r.kind = .mma ∨ r.kind = .mmat then r.k % 2 ^ 32 else statusK tl.status) ∧
    (c.table.find? (fun x => c.eligible x && x.spent) = some r →
      ∃ t, exec (.anvilGrant cl) s = .next t ∧ LeftTable s t cl r f r.ovf r.inv ∧ t.teams = s.teams ∧ t.mem = s.mem) ∧
    ((∀ x ∈ c.table, c.eligible x = true → ¬ spent x) →
      (c.running ≠ none ∨ ∀ x ∈ c.table, grantable s cl x = false) → exec (.anvilGrant cl) s = .next s) ∧
    (r.passed = false →
      (r.seen = none → exec (.mmatTrigger cl r.id) s = .next s) ∧
      (r.seen = some false → ∃ t, exec (.mmatTrigger cl r.id) s = .next t ∧ t = { s with clusters := t.clusters } ∧
        (t.cluster cl).running = c.running ∧ (t.cluster cl).table.map unclocked =
          c.table.map (fun x => unclocked (if x.id = r.id then { x with passed := true } else x))) ∧
      (r.seen = some true → c.running = none → ∃ t, exec (.mmatTrigger cl r.id) s = .next t ∧
        LeftTable s t cl r f r.ovf r.inv ∧ t.mem = s.mem ∧ statusAbt ((t.team r.team).tile r.tile).status = true))

/-- R82, R264, R270, R271, R273, R275: what a unit does at its end. A pass gives every element of its tile the K-step of
its row and column; MZERO zeroes its tile; MLD converts in-bound elements into it, zero elsewhere; MST writes its
in-bound elements' codes, two of 4 bits to a byte. A request leaves with its last unit. R380: a poisoned operand, a poisoned
tile that MST writes from, is fatal to the context. A pass whose streamed operand faults suspends its request
at that step, and its group is to take MMAFAULT. (That a pass reads its operands when it commits is log 43: the model's
choice.) -/
def Obligations.AnvilUnitsCommit : Prop :=
  ∀ (cl : Nat) (s : State) (r : Request) (f : Flight) (ends : Nat), Queues s cl r f →
    (s.cluster cl).running = some ⟨r.id, ends, none⟩ → ends ≤ s.clock → r.refused = false →
    let tl := (s.team r.team).tile r.tile
    let after := fun (t : State) => (t.team r.team).tile r.tile
    let w := fun (n : Nat) => (r.record.getD n 0).toNat
    let acct : Ty := match r.w2.toNat / 8 % 4 with
      | 0 => .f32
      | 1 => .i32
      | _ => .f64
    let sx := (r.record.getD 2 0).toInt
    let scaled := fun (v : FVal) => match v with
      | .fin neg m x => FVal.fin neg m (x + sx)
      | y => y
    let exited := match r.origin with
      | none => (s.group r.gid).allEnded
      | some k => match aget? (s.core r.core).origins k with
        | some o => !o.live
        | none => false
    let owned := ∀ k o, r.origin = some k → aget? (s.core r.core).origins k = some o → o.ctx = r.ctx
    let fatal := fun (i : Instr) => owned → (s.ctx r.ctx).erred = false →
      ∃ t, exec i s = .next t ∧ Killed s t r.ctx 0xC (if exited then 25 else 9) (triageOf s r.ctx)
    let cleared := fun (v v' : BitVec 128) => statusK v' = 0 ∧ statusCause v' = 0 ∧ statusFlt v' = false ∧
      statusAbt v' = false ∧ ∀ k, k < 39 ∨ (49 ≤ k ∧ k < 96) → v'.getLsbD k = v.getLsbD k
    (∀ acc, (r.kind = .mma ∨ r.kind = .mmat) → stepFault s r = none → mmaAcc r.snapA r.snapB tl.wide = some acc →
      let n := (passRate r.snapA r.snapB).1
      let pad : Reader := fun a n => (readBytes (s.team r.team).pad a n, (s.team r.team).padBad a n)
      let row := fun (i : Nat) => stepLine pad r.snapA (w 0 + i) r.k n (w 3)
      let col := fun (i : Nat) => stepLine (operandReader s r r.snapB) r.snapB (w 1 + i) r.k n (w 3)
      (dSpace r.snapB = 1 ∨ ∀ c ∈ s.cores, c.2.l1 = []) →
      ((∃ i, i < 128 ∧ ((row i).2 = true ∨ (col i).2 = true)) → fatal (.passStep cl)) ∧
      ((∀ i, i < 128 → (row i).2 = false ∧ (col i).2 = false) →
      let step := fun (i j : Nat) => kstep acc (Store.get tl.elems (128 * i + j)).toNat (products (row i).1 (col j).1)
      let ovf := r.ovf || (List.range 128).any (fun i => (List.range 128).any (fun j => (step i j).2.ovf))
      ∃ t, exec (.passStep cl) s = .next t ∧ t.mem = s.mem ∧ statusK (after t).status = (r.k + n) % 2 ^ 32 ∧
        (∀ i j, i < 128 → j < 128 → Store.get (after t).elems (128 * i + j) = BitVec.ofNat 64 (step i j).1) ∧
        (w 3 ≤ r.k + n → LeftTable s t cl r f ovf r.inv) ∧
        (r.k + n < w 3 → t.flights = s.flights ∧ t.groups = s.groups ∧ (t.cluster cl).running = none ∧
          (t.cluster cl).table = (s.cluster cl).table.map (fun x =>
            if x.id = r.id then { r with k := r.k + n, ran := true, ovf, since := some s.clock } else x)))) ∧
    (r.kind = .mzero → ∃ t, exec (.unitEnd cl) s = .next t ∧ LeftTable s t cl r f r.ovf r.inv ∧ t.mem = s.mem ∧
      after t = { tl with elems := [], poisoned := false, status := (after t).status } ∧
      cleared tl.status (after t).status) ∧
    (r.kind = .mld →
      let rd := readerAt s r.core r.team (dSpace r.snapA) (spanAt r.spans)
      let inside := fun (i j : Nat) => i < 128 ∧ j < 128 ∧ w 0 + i < dDim r.snapA 1 ∧ w 1 + j < dDim r.snapA 0
      let code := fun (i j : Nat) => elemCode rd r.snapA (w 0 + i) (w 1 + j)
      let out := fun (i j : Nat) => conv acct .rne true 0 (scaled (valueQ (dTy r.snapA) (dQ r.snapA) (code i j).1))
      (dSpace r.snapA = 1 ∨ ∀ c ∈ s.cores, c.2.l1 = []) →
      ((∃ i j, inside i j ∧ (code i j).2 = true) → fatal (.unitEnd cl)) ∧
      ((∀ i j, inside i j → (code i j).2 = false) →
      ∃ t ovf inv, exec (.unitEnd cl) s = .next t ∧ LeftTable s t cl r f ovf inv ∧ t.mem = s.mem ∧
        (ovf = true ↔ ∃ i j, inside i j ∧ (out i j).2.ovf = true) ∧ (inv = true ↔ ∃ i j, inside i j ∧ (out i j).2.inv = true) ∧
        (∀ i j, i < 128 → j < 128 → (inside i j → Store.get (after t).elems (128 * i + j) = BitVec.ofNat 64 (out i j).1) ∧
          (¬ inside i j → Store.get (after t).elems (128 * i + j) = 0)) ∧ cleared tl.status (after t).status)) ∧
    (r.kind = .mst → tl.poisoned = true → fatal (.unitEnd cl)) ∧
    (r.kind = .mst → tl.poisoned = false → 8 ≤ dBits r.snapA →
      let inside := fun (i j : Nat) => i < 128 ∧ j < 128 ∧ w 0 + i < dDim r.snapA 1 ∧ w 1 + j < dDim r.snapA 0
      let va := fun (i j : Nat) => dBase r.snapA + (w 0 + i) * descWord r.snapA 8 + (w 1 + j) * dBits r.snapA / 8
      let p := fun (i j : Nat) => if dSpace r.snapA = 1 then Place.pad r.team (va i j) else .glob (spanAt r.spans (va i j))
      let out := fun (i j : Nat) => convQ (dTy r.snapA) (dQ r.snapA) .rne true 0
        (scaled (value acct (Store.get tl.elems (128 * i + j)).toNat))
      (∀ i j, inside i j → PlainPlace s (p i j) (dBytes r.snapA) ∧ ∀ i' j', inside i' j' → (i', j') ≠ (i, j) →
        (p i j).meets (dBytes r.snapA) (p i' j') (dBytes r.snapA) = false) →
      ∃ t ovf inv, exec (.unitEnd cl) s = .next t ∧ LeftTable s t cl r f ovf inv ∧ after t = tl ∧
        (ovf = true ↔ ∃ i j, inside i j ∧ (out i j).2.ovf = true) ∧ (inv = true ↔ ∃ i j, inside i j ∧ (out i j).2.inv = true) ∧
        (∀ i j, inside i j → bytesAt t (p i j) (dBytes r.snapA) = toBytes (out i j).1 (dBytes r.snapA)) ∧
        let outside := fun (q : Place) => ∀ i j, inside i j → (p i j).meets (dBytes r.snapA) q 1 = false
        (∀ x, outside (.glob x) → Store.get t.mem x = Store.get s.mem x) ∧
        ∀ m x, outside (.pad m x) → Store.get (t.team m).pad x = Store.get (s.team m).pad x) ∧
    (r.kind = .mst → tl.poisoned = false → dBits r.snapA = 4 →
      let inside := fun (i j : Nat) => i < 128 ∧ j < 128 ∧ w 0 + i < dDim r.snapA 1 ∧ w 1 + j < dDim r.snapA 0
      let va := fun (i j : Nat) => dBase r.snapA + (w 0 + i) * descWord r.snapA 8 + (w 1 + j) / 2
      let p := fun (i j : Nat) => if dSpace r.snapA = 1 then Place.pad r.team (va i j) else .glob (spanAt r.spans (va i j))
      let out := fun (i j : Nat) => convQ (dTy r.snapA) (dQ r.snapA) .rne true 0
        (scaled (value acct (Store.get tl.elems (128 * i + j)).toNat))
      let half := fun (u : State) (i j odd : Nat) => ofBytes (bytesAt u (p i j) 1) / 16 ^ odd % 16
      (∀ i j, inside i j → PlainPlace s (p i j) 1 ∧ ∀ i' j', inside i' j' → (i', (w 1 + j') / 2) ≠ (i, (w 1 + j) / 2) →
        (p i j).meets 1 (p i' j') 1 = false) →
      ∃ t ovf inv, exec (.unitEnd cl) s = .next t ∧ LeftTable s t cl r f ovf inv ∧ after t = tl ∧
        (ovf = true ↔ ∃ i j, inside i j ∧ (out i j).2.ovf = true) ∧ (inv = true ↔ ∃ i j, inside i j ∧ (out i j).2.inv = true) ∧
        (∀ i j, inside i j → half t i j ((w 1 + j) % 2) = (out i j).1 ∧
          ((∀ j', inside i j' → w 1 + j' ≠ w 1 + j + 1 - 2 * ((w 1 + j) % 2)) →
            half t i j (1 - (w 1 + j) % 2) = half s i j (1 - (w 1 + j) % 2))) ∧
        let outside := fun (q : Place) => ∀ i j, inside i j → (p i j).meets 1 q 1 = false
        (∀ x, outside (.glob x) → Store.get t.mem x = Store.get s.mem x) ∧
        ∀ m x, outside (.pad m x) → Store.get (t.team m).pad x = Store.get (s.team m).pad x) ∧
    (∀ cause addr, (r.kind = .mma ∨ r.kind = .mmat) → stepFault s r = some (cause, addr) → cause ≠ .poison →
      (s.group r.gid).allEnded = false →
      ∃ t, exec (.anvilFaultSuspend cl) s = .next t ∧ t.mem = s.mem ∧ t.flights = s.flights ∧
        (t.cluster cl).running = none ∧ (t.cluster cl).table = (s.cluster cl).table.map (fun x =>
          if x.id = r.id then { x with suspended := true, faultAddr := addr, since := none } else x) ∧
        after t = { tl with status := (after t).status } ∧ statusFlt (after t).status = true ∧
        statusCause (after t).status = cause.code ∧ statusK (after t).status = r.k % 2 ^ 32 ∧
        statusPc (after t).status = r.pc.toNat / 4 ∧
        (t.group r.gid).pend = (s.group r.gid).pend ++ (match r.flag with
          | some n => [⟨.mmafault, n, 0, 0⟩]
          | none => []) ∧
        ∀ m, Store.get (t.group r.gid).flags m =
          if r.flag = some m ∧ Store.get (s.group r.gid).flags m ≠ 0 then Store.get (s.group r.gid).flags m - 1
          else Store.get (s.group r.gid).flags m)

/-! ## Scheduling -/

/-- R342, R343, R25: the first unit in placement order starts its teams at the best spot with room, or waits where there is
none. R347: a pre-emption is requested once the floor has passed, and a deferral noted. R349: at the deadline a group
between clauses, or held at an instruction, stops with full liveness. R354 to R356: a stopped context's save area is
written, its header and every frame, poisoned units with their poison (R380), or UNFIT counted. R348: a context past its limit
is killed. R381: a core rejoins when its test passes (else it is out of service: log 14), once its quarantine's event has
been posted (log 92). An event that is not enabled leaves the state as it is (log 1). (Room is judged by sums, log 48; the
waiting unit and what it reserves are log 50, a head without any usable target log 91; one request at a time is log 55,
FLOORUS log 56; which frames an area keeps is log 57, the frames' bytes are log 58, UNFIT and what a suspension frees log 60,
when residency is counted log 61, that a poisoned stack poisons its frame log 103: the model's choice.) -/
def Obligations.SchedulingRuns : Prop :=
  ∀ (s : State),
    (∀ p, (s.part p).enabled = false ∨ s.iluic.stopped = true → exec (.placement p) s = .next s) ∧
    (∀ p n l, (s.part p).enabled = true → s.iluic.stopped = false → (s.part p).wait = none →
      aget? s.launches n = some l → Placeable s p l → l.age < 2 ^ 64 →
      (∀ x ∈ s.ctxs, partOf x.1 = p → x.2.saved = []) → (s.launches.map Prod.fst).Nodup →
      (∀ x ∈ s.teams, x.1 < s.nextId) → (∀ x ∈ s.groups, x.1 < s.nextId) →
      let m := if l.isCluster then 4 else 1
      ((∀ x ∈ s.launches, x.1 ≠ n → Placeable s p x.2 → x.2.age < 2 ^ 64 ∧ Before l x.2) →
        (heldChecks s p).length + m ≤ 65535 →
        ∀ b, BestSpot s p l m b → ∃ t, exec (.placement p) s = .next t ∧
          t = { s with nextId := s.nextId + m * (l.ngroups + 1), cores := t.cores, flights := t.flights, teams := t.teams,
                       groups := t.groups, launches := t.launches, ctxs := t.ctxs, parts := t.parts } ∧
          (∀ i, i < m → let k := s.nextId + i * (l.ngroups + 1)
            (∃ y, aget? t.teams k = some y ∧ y.check ≠ 0 ∧ y.check ∉ heldChecks s p ∧
              y = { launch := n, teamid := m * l.next + i, cslot := i, core := b + i, ngroups := l.ngroups,
                    live := l.ngroups, check := y.check }) ∧
            ∀ g, g < l.ngroups → ∃ x, aget? t.groups (k + 1 + g) = some x ∧ x.team = k ∧ x.idx = g ∧ x.core = b + i ∧
              x.slot ∈ freeSlots s (b + i) ∧ Started l g x) ∧
          (∀ x, x < s.nextId → aget? t.teams x = aget? s.teams x ∧ aget? t.groups x = aget? s.groups x) ∧
          (t.launch n).next = l.next + 1 ∧ (∀ x, x ≠ n → t.launch x = s.launch x) ∧
          (t.ctx l.ctx).since = some ((s.ctx l.ctx).since.getD s.clock)) ∧
      ((∀ x ∈ s.launches, x.1 ≠ n → ¬ Placeable s p x.2) → (∀ b, SpotOk s p m b → ¬ RoomAt s l m b) →
        ∃ w t, exec (.placement p) s = .next t ∧ t = { s with parts := t.parts, ctxs := t.ctxs } ∧
          (∀ q, t.part q = if q = p then { s.part p with wait := w } else s.part q) ∧
          (∀ x, t.ctx x = if w.isSome = true ∧ partOf x = p ∧ (s.ctx x).asked = false then
            { s.ctx x with deferred := none } else s.ctx x) ∧
          ∀ x, w = some x → x.unit = ⟨n, l.next, false⟩ ∧ x.overtaken = 0)) ∧
    (∀ n, let c := s.ctx n
      let floor := max c.slice (2 * c.costus)
      (c.state ≠ .live ∨ c.since = none ∨ c.stopping ≠ none → exec (.preemptionRequest n) s = .next s) ∧
      ∀ t0, c.state = .live → c.since = some t0 → c.stopping = none →
        let us := (s.clock - t0) / 600
        (floor ≤ us → c.asked = true ∨ wantsNow s n = true → ∃ t, exec (.preemptionRequest n) s = .next t ∧
          t.ctx n = { c with stopping := some (s.clock + (if c.deadline = 0 then 100 else c.deadline) * 600)
                             reqAt := s.clock, asked := false, deferred := none } ∧ t.groups = s.groups) ∧
        (us < floor → c.slice ≤ us → c.deferred = none → c.asked = true ∨ wantsLater s n = true →
          ∃ t, exec (.preemptionRequest n) s = .next t ∧ t.ctx n = { c with deferred := some s.clock } ∧
            t.groups = s.groups) ∧
        (c.asked = false → wantsNow s n = false → wantsLater s n = false → exec (.preemptionRequest n) s = .next s)) ∧
    (∀ n, (pastDeadline s n = false → exec (.deadline n) s = .next s) ∧
      (pastDeadline s n = true → (s.groups.map Prod.fst).Nodup → ∃ t, exec (.deadline n) s = .next t ∧
        ∀ gid x, aget? s.groups gid = some x →
          (ctxOf s x ≠ n ∨ stopped s n x = true → t.group gid = x) ∧
          (ctxOf s x = n → stopped s n x = false →
            match ((s.core x.core).port (x.slot % 2)).issue with
            | none => t.group gid = { x with stop := some .full }
            | some i =>
              if i.gid ≠ gid then t.group gid = { x with stop := some .full }
              else if i.held = false ∧ i.clockHeld = false then t.group gid = x
              else t.group gid = { x with stop := some .full, quads := (t.group gid).quads } ∧
                ((t.core x.core).port (x.slot % 2)).issue = none ∧
                ∀ q y, aget? x.quads q = some y → ∃ z, aget? (t.group gid).quads q = some z ∧
                  if i.quads.getLsbD q then
                    SameQuad { y with kind := .remainder, pc := i.pc, rem := i.rem, seta := i.seta, setb := i.setb
                                      hoff := i.hoff, only := i.only.map (fun m => laneNibble m q) } z
                  else z = y))) ∧
    (∀ n, let c := s.ctx n
      let fs := addressed (framesOf s n)
      let total := (fs.map (fun x => x.2.length)).sum
      (¬ Suspendable s n → exec (.suspension n) s = .next s) ∧
      (Suspendable s n → c.savelen * 2 ^ 16 < 64 + total → ∃ t, exec (.suspension n) s = .next t ∧
        (t.ctx n).stopping = none ∧ t.teams = s.teams ∧ t.flights = s.flights ∧
        (∀ l pa, walk s n (c.status + 32) = .ok l → l.w = true → l.place s n (c.status + 32) = some pa →
          NoPartials s (lineOf pa) →
          ofBytes (readBytes t.mem pa 4) = min (ofBytes (readBytes s.mem pa 4) + 1) (2 ^ 32 - 1) ∧
          ∀ x, x < pa ∨ pa + 4 ≤ x → Store.get t.mem x = Store.get s.mem x) ∧
        t.groups = s.groups.map (fun x => if ctxOf s x.2 = n then (x.1, { x.2 with stop := none }) else x)) ∧
      (Suspendable s n → 64 + total ≤ c.savelen * 2 ^ 16 → c.save % 64 = 0 → c.save + c.savelen * 2 ^ 16 ≤ 2 ^ 39 →
        (s.groups.map Prod.fst).Nodup → ∃ t, exec (.suspension n) s = .next t ∧
          (t.ctx n).since = none ∧ (t.ctx n).stopping = none ∧ (t.ctx n).seq = c.seq + 1 ∧
          (t.ctx n).saved = fs.map Prod.fst ∧
          (∀ k y, aget? s.teams k = some y →
            aget? t.teams k = if (s.launch y.launch).ctx = n then none else some y) ∧
          (∀ g x, aget? s.groups g = some x → aget? t.groups g = if ctxOf s x = n then none else some x) ∧
          (∀ x ∈ t.flights, x.2.ctx ≠ n) ∧ (∀ x ∈ residents s n, Written t x.2.core) ∧
          (∀ x ∈ s.launches, x.2.ctx = n → ∀ k ∈ x.2.cores, Written t k) ∧
          readBytes t.mem (devPlace c.save) 64 =
            toBytes (fs.length + (c.seq + 1).toNat * 2 ^ 32 + total * 2 ^ 64 + 2 ^ 128) 64 ∧
          (∀ k y, aget? s.teams k = some y → (s.launch y.launch).ctx = n → (s.launch y.launch).record.length = 64 →
            (keepOf s k).ranges.length ≤ 128 → ∃ x ∈ fs, x.1.team = k ∧ numAt x.2 0 8 = x.2.length % 2 ^ 64 ∧ numAt x.2 8 4 = (s.launch y.launch).id.toNat ∧
              numAt x.2 12 4 = y.teamid % 2 ^ 32 ∧ (x.2.drop 16).take 64 = (s.launch y.launch).record ∧
              numAt x.2 80 2 = y.check.toNat ∧ numAt x.2 82 1 = y.ngroups % 2 ^ 8) ∧
          ((∀ x ∈ fs, x.2.length % 64 = 0) → ∀ x ∈ fs,
            (∀ i, i < x.2.length → Store.get t.mem (devPlace (c.save + x.1.addr + i)) = x.2.getD i 0) ∧
            ∀ i ∈ x.1.bad, 64 * i < x.2.length → t.isPoisoned (devPlace (c.save + x.1.addr + 64 * i)) = true))) ∧
    (∀ n, let c := s.ctx n
      let late := c.state = .live ∧ c.tlimit ≠ 0 ∧ c.tlimit * 600000 < c.ran
      (¬ late → exec (.timelimit n) s = .next s) ∧
      (late → c.erred = false → ∃ t, exec (.timelimit n) s = .next t ∧ Killed s t n 0x43 1 (triageOf s n))) ∧
    (∀ n, let k := s.core n
      let told := ∃ e ∈ (s.func 0).waiting, e.type = 0xB
      (k.service ≠ .testing ∨ told → exec (.coreRejoin n) s = .next s) ∧
      (k.service = .testing → ¬ told → Config.selfTest s.tick = true →
        exec (.coreRejoin n) s = .next (s.setCore n { k with service := .inService })) ∧
      (k.service = .testing → ¬ told → Config.selfTest s.tick = false → ∃ t, exec (.coreRejoin n) s = .next t ∧
        t = { s.setCore n { k with service := .out } with iluic := t.iluic }))

/-! ## Errors, links, power, the host's registers and windows -/

/-- R380, R381, R374: a corrected error is logged and changes nothing else; an uncorrectable one poisons the sector, tile
or region it strikes, or quarantines the core, the cluster's cores, or kills the contexts of the apex unit; scrubbing logs a
poisoned sector. R377: a link that goes down poisons its loads, and its writes are fatal; a retry changes no result.
R378, R379: an inbound peer write lands inside its window; a read recalls partials. R376: a load whose host completion
fails delivers poison, and a copy or an Anvil unit that reads it is fatal. What does not stand there, or is not enabled,
changes nothing (log 1). The log names the context whose scratchpad, tile or region was struck, and its partition. (Which
contexts a quarantine meets, and their cause, is log 62; that a core out of service keeps incarnation 15 is log 87; where a peer's address lands is log
63; the cause of a dead link's writes is log 64: the model's choice.) -/
def Obligations.ErrorsAreHandled : Prop :=
  ∀ (s : State),
    (∀ x, ∃ t, exec (.eccCorrected x) s = .next t ∧
      t = { s with iluic := { s.iluic with log := t.iluic.log, total := t.iluic.total, lost := t.iluic.lost } } ∧
      ∃ e ∈ t.iluic.log, (e.unit, e.site) = strikeAt s x ∧ e.kind = 1) ∧
    (∀ pa, ∀ x ∈ [Strike.hbm pa, .homeSlice pa], ∃ t, exec (.eccUncorrectable x) s = .next t ∧
      t = { s with poison := t.poison, iluic := t.iluic } ∧ (∀ n, n ∈ t.poison ↔ n ∈ s.poison ∨ n = pa / 64) ∧
      Logged s t (strikeAt s x).1 (strikeAt s x).2 2) ∧
    (∀ core line k, let x := Strike.l1 core line k
      (aget? (s.core core).l1 line = none ∨ 4 ≤ k → exec (.eccUncorrectable x) s = .next s) ∧
      ∀ y, aget? (s.core core).l1 line = some y → k < 4 → ∃ t, exec (.eccUncorrectable x) s = .next t ∧
        t = { s.setCore core ((s.core core).setLine line { y with poison := y.poison ||| BitVec.ofNat 4 (2 ^ k) }) with
              iluic := t.iluic } ∧ Logged s t 2 (core / 4) 2) ∧
    (∀ team off, (aget? s.teams team = none → exec (.eccUncorrectable (.scratchpad team off)) s = .next s) ∧
      ∀ y, aget? s.teams team = some y → ∃ t, exec (.eccUncorrectable (.scratchpad team off)) s = .next t ∧
        ∃ ps, t = { s.setTeam team { y with padPoison := ps } with iluic := t.iluic } ∧
          (∀ n, n ∈ ps ↔ n ∈ y.padPoison ∨ n = off / 64) ∧ LoggedFor s t 3 (y.core / 4) 2 (s.launch y.launch).ctx) ∧
    (∀ team n, (((s.team team).tile n).mapped = false → exec (.eccUncorrectable (.tile team n)) s = .next s) ∧
      (((s.team team).tile n).mapped = true → ∃ t, exec (.eccUncorrectable (.tile team n)) s = .next t ∧
        (t.team team).tile n = { (s.team team).tile n with poisoned := true } ∧
        (∀ m, m ≠ n → (t.team team).tile m = (s.team team).tile m) ∧ t.mem = s.mem ∧ t.groups = s.groups ∧
        LoggedFor s t 5 ((s.team team).core / 4) 2 (s.launch (s.team team).launch).ctx)) ∧
    (∀ stack n, (aget? s.regions (stack * 256 + n) = none → exec (.eccUncorrectable (.apexNode stack n)) s = .next s) ∧
      ∀ r, aget? s.regions (stack * 256 + n) = some r → ∃ t, exec (.eccUncorrectable (.apexNode stack n)) s = .next t ∧
        t = { s with regions := aset s.regions (stack * 256 + n) { r with poisoned := true }, iluic := t.iluic } ∧
        LoggedFor s t 6 stack 2 r.ctx) ∧
    (∀ core, ∀ x ∈ [Strike.regFile core, .coreState core],
      ((s.core core).service ≠ .inService → exec (.eccUncorrectable x) s = .next s) ∧
      ((s.core core).service = .inService → ∃ t, exec (.eccUncorrectable x) s = .next t ∧ Quarantined s t core ∧
        ∃ en, t.iluic.log.getLast? = some en ∧ (en.unit, en.site) = strikeAt s x ∧
          en.kind = if 15 ≤ (s.core core).incarnation then 4 else 3)) ∧
    (∀ cluster, ∃ t, exec (.eccUncorrectable (.anvilCtl cluster)) s = .next t ∧ ∀ c,
      ((t.core c).incarnation, (t.core c).service) =
        if c / 4 = cluster ∧ (s.core c).service = .inService then afterQuarantine (s.core c).incarnation
        else ((s.core c).incarnation, (s.core c).service)) ∧
    (∀ stack, ∃ t, exec (.eccUncorrectable (.apexCtl stack)) s = .next t ∧ (∀ r ∈ t.regions, r.1 / 256 ≠ stack) ∧
      ∀ r ∈ s.regions, r.1 / 256 = stack → (t.ctx r.2.ctx).erred = true) ∧
    (∀ n, (n ∉ s.poison → exec (.scrub n) s = .next s) ∧
      (n ∈ s.poison → ∃ t, exec (.scrub n) s = .next t ∧ t = { s with iluic := t.iluic } ∧
        Logged s t 0 (64 * n / 2 ^ 36) 9)) ∧
    (∀ link, let active := link < 8 ∧ (s.link link).up = true
      (¬ active → exec (.linkDown link) s = .next s ∧ exec (.linkRetry link) s = .next s) ∧
      (active → exec (.linkRetry link) s =
        .next (s.setLink link { s.link link with retries := (s.link link).retries + 1 })) ∧
      (active → ∃ t, exec (.linkDown link) s = .next t ∧ (t.link link).up = false ∧ Notified t 9 link ∧
        (∀ id f, aget? s.flights id = some f → f.kind = .through → (∃ p ∈ f.pieces, InWindow link p.pa) →
          (∀ o y, f.origin = some o → (o, y) ∈ (s.core f.core).origins → y.ctx = f.ctx) →
          (t.ctx f.ctx).erred = true) ∧
        ((∀ f ∈ s.flights, f.2.kind = .through → ∀ p ∈ f.2.pieces, ¬ InWindow link p.pa) → Logged s t 9 link 6 ∧
          ∀ id f, aget? s.flights id = some f → ∃ f', aget? t.flights id = some f' ∧
            f' = { f with pieces := f'.pieces } ∧ f'.pieces.length = f.pieces.length ∧
            ∀ (k : Nat) p, f.pieces[k]? = some p → ∃ b, f'.pieces[k]? = some { p with bad := b } ∧
              (b = true ↔ p.bad = true ∨ (f.kind = .load ∧ InWindow link p.pa))))) ∧
    (∀ link addr data part ext len b n,
      (s.link link).inbound = some (part, ext, len) → (s.part part).ext[ext]? = some (b, n) → b + n ≤ 48 →
      let size := match data with | some (bs : List Byte) => bs.length | none => 1
      let inside := (s.part part).enabled = true ∧ (s.link link).up = true ∧ addr + size ≤ len * 2 ^ 30 ∧
        addr + size ≤ 8 * n * 2 ^ 30
      (¬ inside → exec (.peerInboundAccess link addr data) s = .next s) ∧
      (inside → ∃ t, exec (.peerInboundAccess link addr data) s = .next t ∧
        (data = none → (s.cores.map Prod.fst).Nodup → NoPartials t (lineOf (devPlace (8 * b * 2 ^ 30 + addr)))) ∧
        ∀ bs, data = some bs → (∀ line, NoPartials s line) →
          LandsInside s t (s.part part) (8 * b * 2 ^ 30 + addr) bs)) ∧
    (∀ op line, let hit := fun (p : Piece) => ∃ pa, p.pa = .glob pa ∧ lineOf pa = line ∧ 2 ^ 64 ≤ pa ∧ pa < 2 ^ 65
      let copies := fun (x : SwageCmd) => ∃ c ∈ s.cores, ∃ n, (n, x) ∈ c.2.swage ∧ x.flight = op ∧ x.waiting = false
      let units := fun (r : Request) => ∃ c ∈ s.clusters, r ∈ c.2.table ∧ r.flight = op ∧ c.2.runs r = true
      let named := fun (ctx core : Nat) (org : Option Nat) =>
        ∀ o y, org = some o → (o, y) ∈ (s.core core).origins → y.ctx = ctx
      let go := exec (.hostCompletionError op line) s
      (∀ x, copies x → (∀ y, copies y → y = x) → (x.readsHost line = none → go = .next s) ∧
        (x.readsHost line ≠ none → named x.ctx x.core x.origin → ∃ t, go = .next t ∧ (t.ctx x.ctx).erred = true)) ∧
      (∀ r, (∀ x, ¬ copies x) → units r → (∀ y, units y → y = r) → (r.readsHost s line = false → go = .next s) ∧
        (r.readsHost s line = true → named r.ctx r.core r.origin → ∃ t, go = .next t ∧ (t.ctx r.ctx).erred = true)) ∧
      ((∀ x, ¬ copies x) → (∀ r, ¬ units r) →
        (∀ f, aget? s.flights op = some f → f.kind ≠ .load ∨ ∀ p ∈ f.pieces, ¬ hit p) →
        exec (.hostCompletionError op line) s = .next s) ∧
      ∀ f, (∀ x, ¬ copies x) → (∀ r, ¬ units r) → aget? s.flights op = some f → f.kind = .load → f.pieces ≠ [] →
        (∀ p ∈ f.pieces, hit p) → (aget? s.groups f.gid).isSome = true →
        ∃ t, exec (.hostCompletionError op line) s = .next t ∧ aget? t.flights op = none ∧
          ∀ m p, f.flag = some m → p ∈ f.pieces → (presentLanes (s.launch (s.team f.team).launch)
            (s.group f.gid).idx).getLsbD p.lane = true →
            ∃ x ∈ (t.group f.gid).pend, x.what = .poison ∧ x.flag = m ∧ x.lanes.getLsbD p.lane = true)

/-- R383: a reset empties the module, device memory with it, and boots the stages in order; fuses, staged images, host and
peer memory stay. R385: a die past 95 °C throttles issue, one at 110 °C stops the module with every context lost; a power
throttle changes no result. R371: the oldest event is written when the queue has room, and signalled. R370: BAR2 writes
and reads device memory inside the partition's extents, and a write of a queue register sets it, a read-only one apart. What
is not enabled changes nothing (log 1). (A function's next command waits for the event of the last, log 92; what a reset
keeps is log 65, what a stopped module still does log 67; queue indices run freely, log 68; an access beyond the extents is
log 72: the model's choice.) -/
def Obligations.ModuleEventsAndWindows : Prop :=
  ∀ (s : State),
    (∃ t, exec .moduleReset s = .next t ∧
      t = { State.reset with tick := s.tick, agenda := s.agenda, nextId := s.nextId, mem := t.mem, iluic := t.iluic } ∧
      (∀ a, Store.get t.mem a = if a < 2 ^ 39 then 0 else Store.get s.mem a) ∧
      Boots { stages := s.iluic.stages.map (fun e => (e.1, { e.2 with booted := false })) } [1, 2, 3] t.iluic) ∧
    (∀ die temp, (temp ≤ 95 ∨ 4 < die ∨ s.iluic.stopped = true → exec (.thermalThrottle die temp) s = .next s) ∧
      (95 < temp → die ≤ 4 → s.iluic.stopped = false → ∃ t, exec (.thermalThrottle die temp) s = .next t ∧
        t.iluic.throttled = true ∧ t = { s with iluic := t.iluic, funcs := t.funcs } ∧ Logged s t 11 die 7 ∧
        Notified t 0xA (die + temp % 256 * 2 ^ 8))) ∧
    (∀ die temp, (temp < 110 ∨ 4 < die ∨ s.iluic.stopped = true → exec (.thermalStop die temp) s = .next s) ∧
      (110 ≤ temp → die ≤ 4 → s.iluic.stopped = false → ∃ t, exec (.thermalStop die temp) s = .next t ∧
        t.iluic.stopped = true ∧ (∀ n c, aget? s.ctxs n = some c → c.valid = true → (t.ctx n).state = .killed ∧
          (∀ f ∈ t.flights, f.2.ctx ≠ n) ∧ ∀ l ∈ t.launches, l.2.ctx ≠ n) ∧
        Logged s t 11 die 8 ∧ Notified t 0xA (die + temp % 256 * 2 ^ 8 + 2 ^ 16))) ∧
    exec .powerThrottle s = .next { s with iluic := { s.iluic with throttled := true } } ∧
    (∀ n, let f := s.func n
      let room := 4 ≤ f.eqlog2 ∧ f.eqlog2 ≤ 12 ∧ (f.eqtail + 2 ^ 32 - f.eqhead) % 2 ^ 32 < 2 ^ f.eqlog2
      (f.eqhead < 2 ^ 32 → (f.waiting = [] ∨ ¬ room) → exec (.eventPost n) s = .next s) ∧
      ((∃ e ∈ f.waiting, e.type = 1) → takeCommand s n = .idle) ∧
      ∀ e rest, f.waiting = e :: rest → f.eqhead < 2 ^ 32 → room → ∃ t, exec (.eventPost n) s = .next t ∧
        t = { s with mem := t.mem, funcs := t.funcs } ∧
        t.func n = { f with waiting := rest, eqtail := (f.eqtail + 1) % 2 ^ 32, signals := f.signals + 1 } ∧
        (∀ g, g ≠ n → t.func g = s.func g) ∧
        let at_ := 2 ^ 64 + f.eqbase + 32 * (f.eqtail % 2 ^ f.eqlog2)
        readBytes t.mem at_ 32 = toBytes (e.type + e.status * 2 ^ 8 + e.ctx * 2 ^ 16 + e.tag * 2 ^ 32 + e.data * 2 ^ 64) 32 ∧
        ∀ a, a < at_ ∨ at_ + 32 ≤ a → Store.get t.mem a = Store.get s.mem a) ∧
    (∀ n addr data len, (¬ Exposed s n ∨ partOfFunc s n = none →
        exec (.bar2Write n addr data) s = .next s ∧ exec (.bar2Read n addr len) s = .next s) ∧
      ∀ p, Exposed s n → partOfFunc s n = some p → (∀ line, NoPartials s line) →
        (∃ t, exec (.bar2Write n addr data) s = .next t ∧ LandsInside s t (s.part p) addr data) ∧
        ((∀ i, i < len → memInRange (s.part p) 0 (addr + i) = true) → ∃ t, exec (.bar2Read n addr len) s = .next t ∧
          t = { s with funcs := t.funcs } ∧ t.func n = { s.func n with
            read := (List.range len).map (fun i => Store.get s.mem (devPlace (addr + i))) } ∧
          ∀ g, g ≠ n → t.func g = s.func g) ∧
        (∀ i, i < len → memInRange (s.part p) 0 (addr + i) = false → exec (.bar2Read n addr len) s = .next s)) ∧
    (∀ n off w v, let f := s.func n
      (¬ Exposed s n → exec (.registerWrite n off (toBytes v w)) s = .next s) ∧
      (Exposed s n → RegsOk f → v < 2 ^ (8 * w) → ∀ f', (off, w, f') ∈ [(0, 8, { f with cqbase := v }),
          (8, 4, { f with cqlog2 := v }), (12, 4, { f with cqtail := v }), (16, 4, f), (64, 8, { f with eqbase := v }),
          (72, 4, { f with eqlog2 := v }), (76, 4, { f with eqhead := v }), (80, 4, f)] →
        ∃ t, exec (.registerWrite n off (toBytes v w)) s = .next t ∧ t = { s with funcs := t.funcs } ∧ t.func n = f' ∧
          ∀ g, g ≠ n → t.func g = s.func g))

/-! ## Host commands -/

/-- R371, R373 and the commands' own rules: CTXCREATE installs an entry with a free ASID (R368); CTXDESTROY leaves nothing of
the context; PREEMPT asks (R347); RESUME, RETURN and KILL answer a parked group (R319); INVAL is a shootdown (R328); ADMIT
and RGRANT decide what is held (R200, R315); FRAME copies a trap frame or a held record. (That a shootdown writes back every
dirty line is log 46; that an answered group stays stopped for a pre-emption log 51; the order of statuses log 69; the
conditions of CTXCREATE, PREEMPT and KILL log 70; that a grant tests overlap again log 72: the model's choice.) -/
def Obligations.ContextCommands : Prop :=
  ∀ (h : Hdr) (s : State), (s.ctxs.map Prod.fst).Pairwise (· < ·) →
    let sel := fun (g : GroupName) => g.group < 16 ∧ g.team < 2 ^ 32 ∧ g.launch < 2 ^ 32
    (∀ img, let b := readBytes s.mem (2 ^ 64 + img) 64
      let f := fun (hi lo : Nat) => bits (ofBytes b) hi lo
      let bad := f 0 0 = 0 ∨ ∃ r ∈ [(383, 368), (325, 320), (319, 305), (261, 256), (255, 241), (196, 192), (191, 177),
        (127, 112), (77, 64), (63, 41), (31, 3)], f r.1 r.2 ≠ 0
      Commands (.ctxcreate h img) h 0x01 (img % 64 = 0 ∧ img < 2 ^ 64) s (OnContext h s (fun n a =>
        let p := s.part (n / 1024)
        let held := fun (k : Nat) => ∃ c ∈ s.ctxs, c.1 ≠ n ∧ c.2.valid = true ∧ c.2.asid = k
        let refused := (s.ctx n).state = .live ∨ ¬ DevInside p (f 111 64) 16384 ∨
          ¬ DevInside p (f 367 320) (max 1 (f 415 384 * 2 ^ 16))
        (bad → a = (2, 0, s)) ∧ (¬ bad → refused → a = (1, 0, s)) ∧
        (¬ bad → ¬ refused → (∀ k, k < 512 → held k) → a.1 = 1 ∧ a.2.1 = 0 ∧ ∀ m, a.2.2.ctx m = s.ctx m) ∧
        (¬ bad → ¬ refused → (∃ k, k < 512 ∧ ¬ held k) → a.1 = 0 ∧ a.2.1 < 512 ∧ ¬ held a.2.1 ∧
          a.2.2.ctx n = { state := .live, valid := true, asid := a.2.1, tlimit := f 511 480, deadline := f 479 448,
                          slice := f 447 416, savelen := f 415 384, save := f 367 320, status := f 304 256,
                          err := f 240 192, tvec := BitVec.ofNat 49 (f 176 128 / 4 * 4), l1pt := f 111 64 } ∧
          (∀ m, m ≠ n → a.2.2.ctx m = s.ctx m) ∧ NoAsid a.2.2 a.2.1 ∧ EntryWord s a.2.2 n (3 + a.2.1 * 2 ^ 32))))) ∧
    Commands (.ctxdestroy h) h 0x02 True s (OnContext h s (fun n a =>
      ((s.ctx n).valid = false → a = (1, 0, s)) ∧
      ((s.ctx n).valid = true → a.1 = 0 ∧ a.2.1 = 0 ∧ a.2.2.ctx n = {} ∧ (∀ m, m ≠ n → a.2.2.ctx m = s.ctx m) ∧
        NoAsid a.2.2 (s.ctx n).asid ∧ (∀ r ∈ a.2.2.regions, r.2.ctx ≠ n) ∧ (∀ l ∈ a.2.2.launches, l.2.ctx ≠ n) ∧
        (∀ x ∈ a.2.2.flights, x.2.ctx ≠ n) ∧ EntryWord s a.2.2 n 0))) ∧
    Commands (.preempt h) h 0x03 True s (OnLive h s (fun n a => a = (0, 0, s.setCtx n { s.ctx n with
      asked := decide ((s.ctx n).since ≠ none ∧ (s.ctx n).stopping = none) }))) ∧
    (∀ g, Commands (.hostResume h g) h 0x04 (sel g) s (OnLive h s (OnParked s g (fun _ gid x a =>
      a = (0, 0, s.setGroup gid { x with
        park := false, stop := if (s.ctx (ctxOf s x)).stopping.isSome then some (x.stop.getD .full) else x.stop }))))) ∧
    (∀ g, Commands (.hostReturn h g) h 0x04 (sel g) s (OnLive h s (OnParked s g (fun _ gid x a =>
      let f := x.frame
      let tpc : VAddr := BitVec.ofNat 49 (f.tpcl.toNat + f.tpch.toNat % 2 ^ 17 * 2 ^ 32)
      f.tstate.getLsbD 10 = true → (x.quads.map Prod.fst).Pairwise (· < ·) →
      (∀ q ∈ x.quads, q.2.handler = true → q.2.handled = false → ∃ en, q.2.resident.head? = some en ∧ entryKind en = 4) →
      a.1 = 0 ∧ a.2.1 = 0 ∧ (a.2.2.group gid).park = false ∧ (a.2.2.group gid).frame.tstate.getLsbD 10 = false ∧
      ∀ q y, aget? x.quads q = some y → f.gang.getLsbD q = true → y.kind ≠ .absent → y.kind ≠ .ended →
        laneNibble f.tact q &&& ~~~ y.exited ≠ 0 →
        ∃ z, aget? (a.2.2.group gid).quads q = some z ∧ z.mask = laneNibble f.tact q &&& ~~~ y.exited ∧
          z.pc = (if f.tstate.getLsbD 9 then tpc - 4 else tpc) ∧ z.handler = false ∧ z.trapHeld = false)))) ∧
    (∀ g, Commands (.hostKill h g) h 0x04 (sel g) s (OnLive h s (OnParked s g (fun n _ x a =>
      (s.ctx n).erred = false → a.1 = 0 ∧ a.2.1 = 0 ∧
        Killed s a.2.2 n (x.frame.tstate.toNat / 2 ^ 16 % 2 ^ 8) 1 false)))) ∧
    (∀ i scope, (i, scope) ∈ [(Instr.invalAll h, none)] ∨ (∃ va : VAddr, (i, scope) = (.invalPage h va, some va.toNat)) →
      Commands i h 0x06 True s (OnContext h s (fun n a =>
        let hit := fun (x : TlbEntry) => x.asid = (s.ctx n).asid ∧ ∀ va, scope = some va → x.page = va / 2 ^ x.leaf.size
        ((s.ctx n).valid = false → a = (1, 0, s)) ∧
        ((s.ctx n).valid = true → NothingOut s n → a.1 = 0 ∧ a.2.1 = 0 ∧
          ∀ k, (s.part (n / 1024)).clusters.getLsbD (k / 4) = true →
            Written a.2.2 k ∧ ∀ x, x ∈ (a.2.2.core k).tlb ↔ x ∈ (s.core k).tlb ∧ ¬ hit x)))) ∧
    (∀ hid ok, Commands (if ok then .admitApprove h hid else .admitRefuse h hid) h 0x07 (hid < 2 ^ 32) s
      (OnLive h s (fun n a =>
        ((∀ x ∈ (s.ctx n).held, x.hid.toNat ≠ hid) → a = (1, 0, s)) ∧
        ∀ x ∈ (s.ctx n).held, x.hid.toNat = hid → (∀ y ∈ (s.ctx n).held, y.hid = x.hid → y = x) →
          (a.2.2.ctx n).held = (s.ctx n).held.filter (fun y => y.hid != x.hid) ∧
          (∀ k, x.flight = some k → aget? a.2.2.flights k = none) ∧
          (ok = false → a.1 = 0 ∧ a.2.1 = 0 ∧ Refused s a.2.2 n 3 x.flight.isSome) ∧
          (ok = true → 64 ≤ queued s (n / 1024) (recField x.record 319 317) → a.1 = 1 ∧ a.2.1 = 0 ∧
            Refused s a.2.2 n 2 x.flight.isSome) ∧
          (ok = true → queued s (n / 1024) (recField x.record 319 317) < 64 → a.1 = 0 ∧ ∃ id,
            a.2.1 = id.toNat ∧ Queued (s.setCtx n { s.ctx n with
              held := (s.ctx n).held.filter (fun y => y.hid != x.hid) }) a.2.2 n x.record x.ext s.nextId id)))) ∧
    (∀ rid ok, Commands (if ok then .rgrantGrant h rid else .rgrantRefuse h rid) h 0x08 (rid < 2 ^ 32) s
      (OnLive h s (fun n a =>
        ((∀ x ∈ (s.ctx n).heldRegions, x.rid.toNat ≠ rid) → a = (1, 0xFFFFFFFF, s)) ∧
        ∀ x ∈ (s.ctx n).heldRegions, x.rid.toNat = rid → (∀ y ∈ (s.ctx n).heldRegions, y.rid = x.rid → y = x) →
          let meets := ∃ r ∈ s.regions, r.2.ctx = n ∧
            spansMeet (x.region.leaves ++ x.region.shadow) (r.2.leaves ++ r.2.shadow) = true
          let room := (s.regions.filter (fun r => decide (r.1 / 256 = x.stack ∧ r.2.ctx / 1024 = n / 1024))).length <
            (s.part (n / 1024)).rquota.getD x.stack 0
          (a.2.2.ctx n).heldRegions = (s.ctx n).heldRegions.filter (fun y => y.rid != x.rid) ∧
          (ok = false → a.1 = 0 ∧ a.2.1 = 0xFFFFFFFF ∧ a.2.2.regions = s.regions ∧ aget? a.2.2.flights x.flight = none) ∧
          (ok = true → meets ∨ ¬ room ∨ (∀ k, k < 256 → (aget? s.regions (x.stack * 256 + k)).isSome = true) →
            a.1 = 1 ∧ a.2.1 = 0xFFFFFFFF ∧ a.2.2.regions = s.regions ∧ aget? a.2.2.flights x.flight = none) ∧
          ∀ k, ok = true → ¬ meets → room → k < 256 → aget? s.regions (x.stack * 256 + k) = none →
            (∀ m, m < k → (aget? s.regions (x.stack * 256 + m)).isSome = true) →
            a.1 = 0 ∧ a.2.1 = k ∧
              ∀ m, aget? a.2.2.regions m = if m = x.stack * 256 + k then some x.region else aget? s.regions m))) ∧
    (∀ g dst, Commands (.frameTrap h g dst) h 0x09 (dst % 64 = 0 ∧ dst < 2 ^ 64 ∧ sel g) s (OnLive h s (OnParked s g
      (fun _ _ x a =>
        let f := x.frame
        let at_ := fun (k n : Nat) => ofBytes (readBytes a.2.2.mem (2 ^ 64 + dst + k) n)
        a.1 = 0 ∧ a.2.1 = 1600 ∧ a.2.2 = { s with mem := a.2.2.mem } ∧
        (∀ b, b < 2 ^ 64 + dst ∨ 2 ^ 64 + dst + 1600 ≤ b → Store.get a.2.2.mem b = Store.get s.mem b) ∧
        at_ 0 4 = f.tstate.toNat ∧ at_ 4 4 = f.tpcl.toNat ∧ at_ 8 4 = f.tpch.toNat ∧ at_ 12 16 = f.tfault.toNat ∧
        at_ 28 16 = f.tact.toNat ∧ (∀ k, k < 4 → at_ (44 + 4 * k) 4 = (Store.get f.scr k).toNat) ∧ at_ 60 4 = 0 ∧
        ∀ l, l < 128 → at_ (64 + 12 * l) 4 = (Store.get f.tlcause l).toNat ∧
          at_ (68 + 12 * l) 8 = (Store.get f.tladdr l).toNat)))) ∧
    (∀ hid dst, Commands (.frameRecord h hid dst) h 0x09 (dst % 64 = 0 ∧ dst < 2 ^ 64 ∧ hid < 2 ^ 32) s
      (OnLive h s (fun n a =>
        ((∀ x ∈ (s.ctx n).held, x.hid.toNat ≠ hid) → a = (1, 0, s)) ∧
        ∀ x ∈ (s.ctx n).held, x.hid.toNat = hid → (∀ y ∈ (s.ctx n).held, y.hid = x.hid → y = x) → x.record.length = 64 →
          a.1 = 0 ∧ a.2.1 = 64 ∧ a.2.2 = { s with mem := a.2.2.mem } ∧
          readBytes a.2.2.mem (2 ^ 64 + dst) 64 = x.record ∧
          ∀ b, b < 2 ^ 64 + dst ∨ 2 ^ 64 + dst + 64 ≤ b → Store.get a.2.2.mem b = Store.get s.mem b)))

/-- R371, R373 and the commands' own rules: PTWRITE writes eight bytes at their home (R369); PSET refuses an entry (R367) or
installs it, over zeroed bytes where its key changes; ATTEST signs a report over the nonce and MEAS (R384); ERRLOG copies the log
(R374) or the certificates; PEERWIN sets windows (R378); FWSTAGE stages an image or raises a fused version (R383); POWER
sets the limit (R385). (The order of statuses is log 69; that copies, records and poison of those bytes go too is log 71;
FWSTAGE's conditions are log 73: the model's choice.) -/
def Obligations.PartitionAndModuleCommands : Prop :=
  ∀ (h : Hdr) (s : State),
    (∀ pa v, Commands (.ptwrite h pa v) h 0x05 (pa % 8 = 0 ∧ pa < 2 ^ 48) s (fun p a =>
      let ok := (s.part p).enabled = true ∧ DevInside (s.part p) pa 8
      (¬ ok → a = (1, 0, s)) ∧
      (ok → NoPartials s (lineOf (devPlace pa)) → a.1 = 0 ∧ a.2.1 = 0 ∧
        LandsInside s a.2.2 (s.part p) pa (toBytes v.toNat 8)))) ∧
    (∀ img, Commands (.pset h img) h 0x20 (img < 2 ^ 64) s (fun n a =>
      let b := readBytes s.mem (2 ^ 64 + img) 64
      let f := fun (hi lo : Nat) => bits (ofBytes b) hi lo
      let x : Part := {
        enabled := decide (f 42 42 = 1), clusters := BitVec.ofNat 32 (f 31 0),
        split := BitVec.ofNat 5 (f 36 32), func := f 41 37, pstack := f 111 64, ctxtab := f 175 128, nctx := f 233 224,
        rquota := [f 263 256, f 271 264, f 279 272, f 287 280, f 295 288, f 303 296, f 311 304, f 319 312],
        ext := [(f 325 320, f 333 328), (f 341 336, f 349 344), (f 357 352, f 365 360), (f 373 368, f 381 376)],
        hlen := f 447 432, hbase := f 511 448, image := b }
      (PsetRefused s n x b → a = (1, 0, s)) ∧
      (¬ PsetRefused s n x b → a.1 = 0 ∧ a.2.1 = 0 ∧ a.2.2.part n = x ∧ (∀ m, m ≠ n → a.2.2.part m = s.part m) ∧
        let moved := fun (k : Nat) => decide ((x.enabled && x.owns k) ≠ ((s.part n).enabled && (s.part n).owns k))
        a.2.2 = { s with parts := a.2.2.parts, mem := a.2.2.mem, poison := a.2.2.poison, hallmarks := a.2.2.hallmarks,
                         cores := a.2.2.cores } ∧
        (∀ k, Store.get a.2.2.mem k = if moved k then 0 else Store.get s.mem k) ∧
        (∀ k, k ∈ a.2.2.poison ↔ k ∈ s.poison ∧ moved (64 * k) = false) ∧
        (∀ k, aget? a.2.2.hallmarks k = if moved (256 * k) then none else aget? s.hallmarks k) ∧
        ∀ c line, aget? (a.2.2.core c).l1 line = if moved (256 * line) then none else aget? (s.core c).l1 line))) ∧
    (∀ nonce dst, Commands (.attest h nonce dst) h 0x21 (dst < 2 ^ 64 ∧ nonce.length = 32) s (fun n a =>
      let r := readBytes a.2.2.mem (2 ^ 64 + dst) 256
      let svn := fun (k : Nat) => ((aget? s.iluic.stages k).getD {}).svn
      a.1 = 0 ∧ a.2.1 = 256 ∧ a.2.2 = { s with mem := a.2.2.mem } ∧
      (∀ b, b < 2 ^ 64 + dst ∨ 2 ^ 64 + dst + 256 ≤ b → Store.get a.2.2.mem b = Store.get s.mem b) ∧
      r.take 32 = nonce ∧ numAt r 48 2 = svn 1 % 2 ^ 16 ∧ numAt r 50 2 = svn 2 % 2 ^ 16 ∧ numAt r 52 2 = svn 3 % 2 ^ 16 ∧
      numAt r 56 1 = n % 256 ∧ numAt r 60 4 = (s.part n).clusters.toNat ∧
      (s.iluic.meas.length = 64 → (r.drop 64).take 64 = s.iluic.meas) ∧
      ((Config.sha512 (padTo 64 (s.part n).image)).length = 64 →
        (r.drop 128).take 64 = Config.sha512 (padTo 64 (s.part n).image)) ∧
      ((Config.identitySign (Config.sha512 (r.take 192))).length = 64 →
        r.drop 192 = Config.identitySign (Config.sha512 (r.take 192))))) ∧
    (∀ i len dst out, (i, out) ∈ [(Instr.errlog h len dst, logBytes s.iluic), (.errlogCerts h len dst, Config.certChain)] →
      Commands i h 0x22 (len < 2 ^ 32 ∧ dst < 2 ^ 64) s (fun _ a =>
        a.1 = (if len < out.length then 1 else 0) ∧ a.2.1 = min len out.length ∧ a.2.2 = { s with mem := a.2.2.mem } ∧
        readBytes a.2.2.mem (2 ^ 64 + dst) (min len out.length) = out.take len ∧
        ∀ b, b < 2 ^ 64 + dst ∨ 2 ^ 64 + dst + min len out.length ≤ b → Store.get a.2.2.mem b = Store.get s.mem b)) ∧
    (∀ link len, Commands (.peerwinOutbound h link len) h 0x23 (link < 8 ∧ len ≤ 2 ^ 15) s (fun p a =>
      ((s.part p).enabled = false → a = (1, 0, s)) ∧
      ((s.part p).enabled = true → a.1 = 0 ∧ a.2.1 = 0 ∧ a.2.2 = { s with links := a.2.2.links } ∧
        (∀ m, m ≠ link → a.2.2.link m = s.link m) ∧
        a.2.2.link link = { s.link link with outbound := (a.2.2.link link).outbound } ∧
        ∀ m, aget? (a.2.2.link link).outbound m =
          if m = p then (if len = 0 then none else some len) else aget? (s.link link).outbound m))) ∧
    (∀ link ext len, Commands (.peerwinInbound h link ext len) h 0x23 (link < 8 ∧ ext < 4 ∧ len ≤ 2 ^ 15) s (fun p a =>
      let ok := (s.part p).enabled = true ∧ (len = 0 ∨ ((s.part p).ext.getD ext (0, 0)).2 ≠ 0)
      (¬ ok → a = (1, 0, s)) ∧
      (ok → a = (0, 0, s.setLink link { s.link link with inbound := if len = 0 then none else some (p, ext, len) })))) ∧
    (∀ stage len src, Commands (.fwstageImage h stage len src) h 0x24
      (1 ≤ stage ∧ stage ≤ 3 ∧ len < 2 ^ 32 ∧ src < 2 ^ 64) s (fun _ a =>
        let x := { (aget? s.iluic.stages stage).getD {} with image := readBytes s.mem (2 ^ 64 + src) len }
        a = (0, 0, { s with iluic := { s.iluic with stages := aset s.iluic.stages stage x } }))) ∧
    (∀ stage svn, Commands (.fwstageSvn h stage svn) h 0x24 (1 ≤ stage ∧ stage ≤ 3 ∧ svn < 2 ^ 16) s (fun _ a =>
      let x := (aget? s.iluic.stages stage).getD {}
      let ok := x.booted = true ∧ x.minSvn ≤ svn ∧ svn ≤ x.svn
      (¬ ok → a = (1, 0, s)) ∧
      (ok → a = (0, 0, { s with iluic := { s.iluic with stages := aset s.iluic.stages stage { x with minSvn := svn } } })))) ∧
    (∀ watts, Commands (.power h watts) h 0x25 (400 ≤ watts ∧ watts ≤ 1600) s (fun _ a =>
      a = (0, 0, { s with iluic := { s.iluic with limit := watts } })))

/-! ## Encoding -/

/-- R48 to R63: the words tkasm writes for an instruction, and those of its extended form, decode to it, every operand
kept, whatever follows; and words that decode are exactly an encoding of what they decode to, so no bit is dropped and every
other encoding is refused. -/
def Obligations.EncodingsRoundTrip : Prop :=
  (∀ i r, WellFormed i = true → isEvent i = false →
    decode (encode i ++ r) = some (i, r) ∧ decode (encodeExtended i ++ r) = some (i, r)) ∧
  (∀ ws i r, decode ws = some (i, r) → WellFormed i = true ∧ isEvent i = false ∧
    (ws = encodeExtended i ++ r ∨ ∃ f, toFields i = some f ∧ ws = baseWords f ++ r)) ∧
  ∀ ws, wordsOfBytes (bytesOfWords ws) = ws

/-- R48 to R55, R62: words written out from the encoding tables, one of each family, decode to what they stand for. -/
def Obligations.WordsDecode : Prop :=
  ∀ x ∈ [
    ([0x00200000], Instr.yield noGuard),
    ([0x81000000, 0x004F0000, 0xFFFFFFF0], Instr.bra ⟨2, false, false⟩ 0xFFFFFFF0),
    ([0x48A08200, 0x00000001, 0x00000000], Instr.shflXor noGuard .b32 2 4 (.lit 1)),
    ([0x8C004103, 0x01EF0C40, 0x00000000], Instr.iadd noGuard .i32 true 1 2 (.reg 3)),
    ([0x98000103, 0x01E11C00, 0x00000005], Instr.isetp noGuard .n32 5 1 2 (.reg 3)),
    ([0x9C404103, 0x09EF4500, 0x00000000], Instr.ffma noGuard .rup 1 2 (.reg 3) 4),
    ([0xA9220082, 0x07EF4400, 0x000000B4], Instr.dot4 noGuard .f32 .e4m3 true 1 8 1 (.reg 2) 3),
    ([0xAC008200, 0x01EFB018, 0xFFFFFFF8], Instr.ld ⟨15, false, true⟩ .b64 .na 2 4 0xFFFFFFF8),
    ([0xB400B185, 0x01EF4400, 0x00000003], Instr.atomAdd noGuard .f32 .ar 2 99 (.reg 5)),
    ([0xB6803369, 0x01E20000, 0x00000001], Instr.wait noGuard true 2 102 (.reg 105)),
    ([0xB9033414, 0x2BE10000, 0x00000001], Instr.arsum noGuard true 12 1 104 (.reg 20) 21),
    ([0xBAA20286, 0x01EF0000, 0x0000000F], Instr.htaccRes noGuard 3 true 8 5 (.reg 6)),
    ([0xBBC0366E, 0xD5EF0000, 0x00000001], Instr.cpyr noGuard true 108 110 106),
    ([0xBD40366E, 0xE3EF0000, 0x00000015], Instr.mld noGuard 5 2 108 110 113),
    ([0xBE010000, 0x01EF0000, 0x00000010], Instr.csrr noGuard 4 0x010)],
    decode x.1 = some (x.2, [])

/-! ## The machine -/

/-- A step (log 1): time passes, and the turn it takes is executed. A port with an instruction executes the one its words
decode to, and is marked as holding it where it did not issue (R20, R21); words that are no instruction raise ILLOP (R63);
a port without one chooses a clause; an event is executed; a function's turn runs its next command (R371). A stopped module
only posts events and resets (R385). A turn of the module's own units that would post an event for which its function's
queue has no room waits (R371; log 92). (How turns and free values are counted is log 2, how many clocks a step takes log 5,
the lanes in which undecodable words trap are log 19, and what a stopped module still does is log 67: the model's choice.) -/
def Obligations.StepsExecuteTheirTurn : Prop :=
  ∀ (s : State), let b := beginTurn s
    (b.tick = s.tick + 1 ∧ s.clock < b.clock ∧ b.agenda = s.agenda.drop 1 ∧ b.mem = s.mem ∧ b.groups = s.groups ∧
      b.cores = s.cores) ∧
    (∀ t rest, s.agenda = t :: rest → nextTurn s = some t) ∧
    (nextTurn s = none → step s = .next b) ∧
    ∀ t, nextTurn s = some t →
      (s.iluic.stopped = true → (∀ n, t ≠ .event (.eventPost n)) → t ≠ .event .moduleReset → step s = .next b) ∧
      (∀ i, t = .event i → (s.iluic.stopped = true → i = .moduleReset ∨ ∃ n, i = .eventPost n) →
        Ends s b b (!fromOutside i) (exec i b)) ∧
      (s.iluic.stopped = false →
        (∀ n, t = .command n →
          (∀ i u, takeCommand b n = .run i u → step s = exec i u) ∧ (∀ u, takeCommand b n = .bad u → step s = .next u) ∧
          (takeCommand b n = .idle → step s = .next b)) ∧
        ∀ core port, t = .issue core port → let c := { b with cur := (core, port) }
          let held := marked b c core port
          (((c.core core).port port).issue = none → Ends s b held true (exec (.clauseIssue core port) c)) ∧
          ∀ x, ((c.core core).port port).issue = some x →
            (∀ i r, decode x.words = some (i, r) → (∀ u, exec i c = .next u → Ends s b held true (.next (marked c u core port))) ∧
              ((∀ u, exec i c ≠ .next u) → step s = exec i c)) ∧
            (decode x.words = none → ∀ e, c.env? = some e →
              (acquireHolds c e.gid e.is.quads = true → step s = .next (marked c c core port)) ∧
              let lanes := e.active (guardOfWords x.words) &&& e.pres
              (acquireHolds c e.gid e.is.quads = false → Deliverable e .illop lanes → ∃ u, step s = .next u ∧
                TrapEntered e u {
                  core, port, gid := x.gid, gang := x.quads, cause := .illop, lanes,
                  each := (lanesOf lanes).map (fun l => (l, .illop, 0)), resume := x.pc, rem := x.rem, hdr := false,
                  after := false, seta := x.seta, setb := x.setb, hoff := x.hoff, pc := x.pc })))

/-- No turn faults or is refused: from a state whose agenda holds turns alone (log 1), every step answers a next state of
the same kind. -/
def Obligations.StepsNeverStop : Prop :=
  ∀ (s : State), s.AgendaOk → ∃ t, step s = .next t ∧ t.AgendaOk

/-- Every step keeps memory in its canonical form, so that equal memories are equal data. -/
def Obligations.StepsKeepMemoryCanonical : Prop :=
  ∀ (s t : State), s.MemOk → step s = .next t → t.MemOk

/-- R383, R370, R33: right after reset no partition is enabled and no context, launch, team, group, operation or region
exists; every core is in service at incarnation 0 with an empty L1 and TLB; the links are up; time is zero; the queue
registers are zero. Memory that nothing has written reads as zero (log 4). The invariants of every step hold. -/
def Obligations.ResetState : Prop :=
  let s := State.reset
  s.MemOk ∧ s.AgendaOk ∧ (∀ p, (s.part p).enabled = false) ∧ (∀ n, (s.ctx n).valid = false ∧ (s.ctx n).state = .free) ∧
  s.launches = [] ∧ s.teams = [] ∧ s.groups = [] ∧ s.flights = [] ∧ s.regions = [] ∧ s.clock = 0 ∧
  (∀ c, (s.core c).incarnation = 0 ∧ (s.core c).release = 0 ∧ (s.core c).service = .inService ∧ (s.core c).l1 = [] ∧
    (s.core c).tlb = []) ∧
  (∀ l, (s.link l).up = true) ∧ (∀ f, s.func f = {}) ∧ s.iluic.recovery = false ∧ s.iluic.limit = 1600 ∧
  ∀ a, Store.get s.mem a = 0
end

