-- ==== Sys2Proof/Laws/Maps.lean ====
section
/-!
SUPPORT. Laws of the plain-data maps: read after write, what a write leaves, and the canonical form of stores.
-/
namespace Sys2Proof.Machine

variable {α : Type} {w : Nat}

/-! ## Association lists -/

theorem aget?_aset (m : AList α) (i j : Nat) (v : α) :
    aget? (aset m i v) j = if i = j then some v else aget? m j := by
  induction m with
  | nil => simp [aset, aget?]
  | cons e m ih =>
    obtain ⟨k, u⟩ := e
    simp only [aset]
    by_cases h : i < k
    · simp only [h, if_true, aget?]
    · by_cases h' : i = k
      · subst h'
        by_cases hj : i = j <;> simp [aget?, hj]
      · simp only [h, h', if_false, aget?, ih]
        by_cases hk : k = j
        · have : ¬ i = j := by omega
          simp [hk, this]
        · simp [hk]

@[simp] theorem aget?_aset_self (m : AList α) (i : Nat) (v : α) : aget? (aset m i v) i = some v := by
  simp [aget?_aset]

theorem aget?_aset_of_ne (m : AList α) {i j : Nat} (v : α) (h : i ≠ j) : aget? (aset m i v) j = aget? m j := by
  simp [aget?_aset, h]

/-- A filter on keys leaves what stands at the keys it keeps. -/
theorem aget?_filter (m : AList α) (p : Nat → Bool) (j : Nat) :
    aget? (m.filter (fun e => p e.1)) j = if p j then aget? m j else none := by
  induction m with
  | nil => simp [aget?]
  | cons e m ih =>
    obtain ⟨k, u⟩ := e
    by_cases hk : p k = true
    · rw [List.filter_cons_of_pos (by simpa using hk)]
      simp only [aget?, ih]
      by_cases hj : k = j
      · subst hj; simp [hk]
      · simp [hj]
    · rw [List.filter_cons_of_neg (by simpa using hk), ih]
      by_cases hj : k = j
      · subst hj; simp [hk]
      · simp [aget?, hj]

theorem aget?_adel (m : AList α) (i j : Nat) : aget? (adel m i) j = if i = j then none else aget? m j := by
  unfold adel
  rw [aget?_filter m (fun k => decide (k ≠ i)) j]
  by_cases h : i = j
  · simp [h]
  · have : ¬ j = i := fun e => h e.symm
    simp [h, this]

/-- A map that keeps keys changes what stands at each. -/
theorem aget?_map (m : AList α) (f : Nat → α → α) (j : Nat) :
    aget? (m.map (fun e => (e.1, f e.1 e.2))) j = (aget? m j).map (f j) := by
  induction m with
  | nil => simp [aget?]
  | cons e m ih =>
    obtain ⟨k, u⟩ := e
    by_cases hj : k = j
    · subst hj; simp [aget?]
    · simp [aget?, hj, ih]

/-! ## Stores -/

@[simp] theorem Store.get_nil (i : Nat) : Store.get ([] : Store w) i = unlisted w := rfl

/-- A store read is a map read, or what an unlisted key reads as. -/
theorem Store.get_eq (m : Store w) (i : Nat) : Store.get m i = (aget? m i).getD (unlisted w) := by
  induction m with
  | nil => rfl
  | cons e m ih =>
    obtain ⟨k, u⟩ := e
    by_cases h : k = i <;> simp [Store.get, aget?, h, ih]

/-- Read after write: the key written holds the value, every other key what it held. -/
theorem Store.get_set (m : Store w) (i j : Nat) (v : BitVec w) :
    Store.get (Store.set m i v) j = if i = j then v else Store.get m j := by
  unfold Store.set
  split
  · rename_i h
    subst h
    rw [Store.get_eq, aget?_adel, Store.get_eq]
    by_cases hj : i = j <;> simp [hj]
  · rw [Store.get_eq, aget?_aset, Store.get_eq]
    by_cases hj : i = j <;> simp [hj]

@[simp] theorem Store.get_set_self (m : Store w) (i : Nat) (v : BitVec w) : Store.get (Store.set m i v) i = v := by
  simp [Store.get_set]

theorem Store.get_set_of_ne (m : Store w) {i j : Nat} (v : BitVec w) (h : i ≠ j) :
    Store.get (Store.set m i v) j = Store.get m j := by
  simp [Store.get_set, h]

/-! ## The canonical form -/

theorem Store.wfFrom_le {m : Store w} {a b : Nat} (h : Store.wfFrom b m = true) (hab : a ≤ b) :
    Store.wfFrom a m = true := by
  cases m with
  | nil => rfl
  | cons e m =>
    obtain ⟨k, u⟩ := e
    simp only [Store.wfFrom, Bool.and_eq_true, decide_eq_true_eq] at h ⊢
    exact ⟨⟨by omega, h.1.2⟩, h.2⟩

theorem Store.wfFrom_filter {m : Store w} (p : Nat × BitVec w → Bool) {a : Nat} (h : Store.wfFrom a m = true) :
    Store.wfFrom a (m.filter p) = true := by
  induction m generalizing a with
  | nil => rfl
  | cons e m ih =>
    obtain ⟨k, u⟩ := e
    simp only [Store.wfFrom, Bool.and_eq_true, decide_eq_true_eq] at h
    by_cases hp : p (k, u) = true
    · rw [List.filter_cons_of_pos hp]
      simp only [Store.wfFrom, Bool.and_eq_true, decide_eq_true_eq]
      exact ⟨h.1, ih h.2⟩
    · rw [List.filter_cons_of_neg hp]
      exact Store.wfFrom_le (ih h.2) (by omega)

theorem Store.wfFrom_aset {m : Store w} {a i : Nat} {v : BitVec w} (h : Store.wfFrom a m = true) (ha : a ≤ i)
    (hv : v ≠ unlisted w) : Store.wfFrom a (aset m i v) = true := by
  induction m generalizing a with
  | nil => simp [aset, Store.wfFrom, ha, hv]
  | cons e m ih =>
    obtain ⟨k, u⟩ := e
    simp only [Store.wfFrom, Bool.and_eq_true, decide_eq_true_eq] at h
    simp only [aset]
    split
    · simp only [Store.wfFrom, Bool.and_eq_true, decide_eq_true_eq]
      exact ⟨⟨ha, hv⟩, ⟨by omega, h.1.2⟩, h.2⟩
    · split
      · subst_vars
        simp only [Store.wfFrom, Bool.and_eq_true, decide_eq_true_eq]
        exact ⟨⟨ha, hv⟩, h.2⟩
      · simp only [Store.wfFrom, Bool.and_eq_true, decide_eq_true_eq]
        exact ⟨h.1, ih h.2 (by omega)⟩

/-- A write keeps the canonical form. -/
theorem Store.wf_set {m : Store w} (h : Store.wf m = true) (i : Nat) (v : BitVec w) :
    Store.wf (Store.set m i v) = true := by
  unfold Store.set
  split
  · exact Store.wfFrom_filter _ h
  · rename_i hv
    exact Store.wfFrom_aset h (Nat.zero_le _) hv

/-- Taking entries away keeps the canonical form. -/
theorem Store.wf_filter {m : Store w} (h : Store.wf m = true) (p : Nat × BitVec w → Bool) :
    Store.wf (m.filter p) = true := Store.wfFrom_filter p h

@[simp] theorem Store.wf_nil : Store.wf ([] : Store w) = true := rfl

/-! ## Runs of bytes -/

@[simp] theorem length_readBytes (m : Store 8) (a n : Nat) : (readBytes m a n).length = n := by
  induction n generalizing a with
  | zero => rfl
  | succ n ih => simp [readBytes, ih]

@[simp] theorem length_toBytes (v n : Nat) : (toBytes v n).length = n := by
  induction n generalizing v with
  | zero => rfl
  | succ n ih => simp [toBytes, ih]

/-- A run of bytes written: its own addresses hold its bytes, every other address what it held. -/
theorem Store.get_writeBytes (m : Store 8) (a : Nat) (bs : List Byte) (x : Nat) :
    Store.get (writeBytes m a bs) x =
      if a ≤ x ∧ x < a + bs.length then bs.getD (x - a) 0 else Store.get m x := by
  induction bs generalizing m a with
  | nil =>
    have : ¬ (a ≤ x ∧ x < a) := by omega
    simp [writeBytes, this]
  | cons b bs ih =>
    rw [writeBytes, ih, Store.get_set]
    simp only [List.length_cons]
    by_cases h1 : a + 1 ≤ x ∧ x < a + 1 + bs.length
    · have h2 : a ≤ x ∧ x < a + (bs.length + 1) := by omega
      rw [if_pos h1, if_pos h2]
      have : x - a = (x - (a + 1)) + 1 := by omega
      simp [this]
    · rw [if_neg h1]
      by_cases h3 : a = x
      · subst h3; simp
      · have h2 : ¬ (a ≤ x ∧ x < a + (bs.length + 1)) := by omega
        simp [h3, h2]

theorem Store.get_writeBytes_of_lt (m : Store 8) {a : Nat} (bs : List Byte) {x : Nat}
    (h : x < a ∨ a + bs.length ≤ x) : Store.get (writeBytes m a bs) x = Store.get m x := by
  rw [Store.get_writeBytes, if_neg (by omega)]

/-- A run of bytes written reads back. -/
theorem readBytes_writeBytes (m : Store 8) (a : Nat) (bs : List Byte) :
    readBytes (writeBytes m a bs) a bs.length = bs := by
  apply List.ext_getElem (by simp)
  intro i h1 h2
  have key : ∀ (n : Nat) (m : Store 8) (a i : Nat) (h : i < n),
      (readBytes m a n)[i]'(by simpa using h) = Store.get m (a + i) := by
    intro n
    induction n with
    | zero => intro _ _ _ h; omega
    | succ n ih =>
      intro m a i h
      cases i with
      | zero => simp [readBytes]
      | succ i =>
        simp only [readBytes, List.getElem_cons_succ]
        rw [ih m (a + 1) i (by omega)]
        congr 1; omega
  rw [key _ _ _ _ (by simpa using h2), Store.get_writeBytes, if_pos (by omega)]
  simp [List.getD_eq_getElem?_getD, h2]

/-- Writing a run of bytes keeps the canonical form. -/
theorem Store.wf_writeBytes {m : Store 8} (h : Store.wf m = true) (a : Nat) (bs : List Byte) :
    Store.wf (writeBytes m a bs) = true := by
  induction bs generalizing m a with
  | nil => exact h
  | cons b bs ih => exact ih (Store.wf_set h a b) (a + 1)

/-- The little-endian bytes of a number give it back, modulo their width (R5). -/
theorem ofBytes_toBytes (v n : Nat) : ofBytes (toBytes v n) = v % 256 ^ n := by
  induction n generalizing v with
  | zero => simp [toBytes, ofBytes, Nat.mod_one]
  | succ n ih =>
    simp only [toBytes, ofBytes, ih, BitVec.toNat_ofNat]
    rw [show (256 : Nat) ^ (n + 1) = 256 * 256 ^ n from pow_succ' 256 n, Nat.mod_mul]

end Sys2Proof.Machine
end

