-- ==== Sys2Proof/Laws/State.lean ====
section
/-!
SUPPORT. One lemma per field of the state and per update, and what each accessor reads after each update: no proof
unfolds a record update.
-/
namespace Sys2Proof.Machine

/-! ## setCore -/

@[simp] theorem State.setCore_tick (s : State) (n : Nat) (x : Core) : (s.setCore n x).tick = s.tick := rfl
@[simp] theorem State.setCore_agenda (s : State) (n : Nat) (x : Core) : (s.setCore n x).agenda = s.agenda := rfl
@[simp] theorem State.setCore_cur (s : State) (n : Nat) (x : Core) : (s.setCore n x).cur = s.cur := rfl
@[simp] theorem State.setCore_nextId (s : State) (n : Nat) (x : Core) : (s.setCore n x).nextId = s.nextId := rfl
@[simp] theorem State.setCore_clock (s : State) (n : Nat) (x : Core) : (s.setCore n x).clock = s.clock := rfl
@[simp] theorem State.setCore_mem (s : State) (n : Nat) (x : Core) : (s.setCore n x).mem = s.mem := rfl
@[simp] theorem State.setCore_poison (s : State) (n : Nat) (x : Core) : (s.setCore n x).poison = s.poison := rfl
@[simp] theorem State.setCore_hallmarks (s : State) (n : Nat) (x : Core) : (s.setCore n x).hallmarks = s.hallmarks := rfl
@[simp] theorem State.setCore_clusters (s : State) (n : Nat) (x : Core) : (s.setCore n x).clusters = s.clusters := rfl
@[simp] theorem State.setCore_regions (s : State) (n : Nat) (x : Core) : (s.setCore n x).regions = s.regions := rfl
@[simp] theorem State.setCore_parts (s : State) (n : Nat) (x : Core) : (s.setCore n x).parts = s.parts := rfl
@[simp] theorem State.setCore_ctxs (s : State) (n : Nat) (x : Core) : (s.setCore n x).ctxs = s.ctxs := rfl
@[simp] theorem State.setCore_launches (s : State) (n : Nat) (x : Core) : (s.setCore n x).launches = s.launches := rfl
@[simp] theorem State.setCore_teams (s : State) (n : Nat) (x : Core) : (s.setCore n x).teams = s.teams := rfl
@[simp] theorem State.setCore_groups (s : State) (n : Nat) (x : Core) : (s.setCore n x).groups = s.groups := rfl
@[simp] theorem State.setCore_flights (s : State) (n : Nat) (x : Core) : (s.setCore n x).flights = s.flights := rfl
@[simp] theorem State.setCore_funcs (s : State) (n : Nat) (x : Core) : (s.setCore n x).funcs = s.funcs := rfl
@[simp] theorem State.setCore_links (s : State) (n : Nat) (x : Core) : (s.setCore n x).links = s.links := rfl
@[simp] theorem State.setCore_iluic (s : State) (n : Nat) (x : Core) : (s.setCore n x).iluic = s.iluic := rfl
theorem State.setCore_cores (s : State) (n : Nat) (x : Core) : (s.setCore n x).cores = aset s.cores n x := rfl
theorem State.setCore_core (s : State) (n m : Nat) (x : Core) :
    (s.setCore n x).core m = if n = m then x else s.core m := by
  simp only [State.setCore, State.core, aget?_aset]; split <;> rfl
@[simp] theorem State.setCore_core_self (s : State) (n : Nat) (x : Core) : (s.setCore n x).core n = x := by
  simp [State.setCore_core]
@[simp] theorem State.setCore_cluster (s : State) (n m : Nat) (x : Core) : (s.setCore n x).cluster m = s.cluster m := rfl
@[simp] theorem State.setCore_part (s : State) (n m : Nat) (x : Core) : (s.setCore n x).part m = s.part m := rfl
@[simp] theorem State.setCore_ctx (s : State) (n m : Nat) (x : Core) : (s.setCore n x).ctx m = s.ctx m := rfl
@[simp] theorem State.setCore_launch (s : State) (n m : Nat) (x : Core) : (s.setCore n x).launch m = s.launch m := rfl
@[simp] theorem State.setCore_team (s : State) (n m : Nat) (x : Core) : (s.setCore n x).team m = s.team m := rfl
@[simp] theorem State.setCore_group (s : State) (n m : Nat) (x : Core) : (s.setCore n x).group m = s.group m := rfl
@[simp] theorem State.setCore_func (s : State) (n m : Nat) (x : Core) : (s.setCore n x).func m = s.func m := rfl
@[simp] theorem State.setCore_link (s : State) (n m : Nat) (x : Core) : (s.setCore n x).link m = s.link m := rfl

/-! ## setCluster -/

@[simp] theorem State.setCluster_tick (s : State) (n : Nat) (x : Cluster) : (s.setCluster n x).tick = s.tick := rfl
@[simp] theorem State.setCluster_agenda (s : State) (n : Nat) (x : Cluster) : (s.setCluster n x).agenda = s.agenda := rfl
@[simp] theorem State.setCluster_cur (s : State) (n : Nat) (x : Cluster) : (s.setCluster n x).cur = s.cur := rfl
@[simp] theorem State.setCluster_nextId (s : State) (n : Nat) (x : Cluster) : (s.setCluster n x).nextId = s.nextId := rfl
@[simp] theorem State.setCluster_clock (s : State) (n : Nat) (x : Cluster) : (s.setCluster n x).clock = s.clock := rfl
@[simp] theorem State.setCluster_mem (s : State) (n : Nat) (x : Cluster) : (s.setCluster n x).mem = s.mem := rfl
@[simp] theorem State.setCluster_poison (s : State) (n : Nat) (x : Cluster) : (s.setCluster n x).poison = s.poison := rfl
@[simp] theorem State.setCluster_hallmarks (s : State) (n : Nat) (x : Cluster) : (s.setCluster n x).hallmarks = s.hallmarks := rfl
@[simp] theorem State.setCluster_cores (s : State) (n : Nat) (x : Cluster) : (s.setCluster n x).cores = s.cores := rfl
@[simp] theorem State.setCluster_regions (s : State) (n : Nat) (x : Cluster) : (s.setCluster n x).regions = s.regions := rfl
@[simp] theorem State.setCluster_parts (s : State) (n : Nat) (x : Cluster) : (s.setCluster n x).parts = s.parts := rfl
@[simp] theorem State.setCluster_ctxs (s : State) (n : Nat) (x : Cluster) : (s.setCluster n x).ctxs = s.ctxs := rfl
@[simp] theorem State.setCluster_launches (s : State) (n : Nat) (x : Cluster) : (s.setCluster n x).launches = s.launches := rfl
@[simp] theorem State.setCluster_teams (s : State) (n : Nat) (x : Cluster) : (s.setCluster n x).teams = s.teams := rfl
@[simp] theorem State.setCluster_groups (s : State) (n : Nat) (x : Cluster) : (s.setCluster n x).groups = s.groups := rfl
@[simp] theorem State.setCluster_flights (s : State) (n : Nat) (x : Cluster) : (s.setCluster n x).flights = s.flights := rfl
@[simp] theorem State.setCluster_funcs (s : State) (n : Nat) (x : Cluster) : (s.setCluster n x).funcs = s.funcs := rfl
@[simp] theorem State.setCluster_links (s : State) (n : Nat) (x : Cluster) : (s.setCluster n x).links = s.links := rfl
@[simp] theorem State.setCluster_iluic (s : State) (n : Nat) (x : Cluster) : (s.setCluster n x).iluic = s.iluic := rfl
theorem State.setCluster_clusters (s : State) (n : Nat) (x : Cluster) : (s.setCluster n x).clusters = aset s.clusters n x := rfl
@[simp] theorem State.setCluster_core (s : State) (n m : Nat) (x : Cluster) : (s.setCluster n x).core m = s.core m := rfl
theorem State.setCluster_cluster (s : State) (n m : Nat) (x : Cluster) :
    (s.setCluster n x).cluster m = if n = m then x else s.cluster m := by
  simp only [State.setCluster, State.cluster, aget?_aset]; split <;> rfl
@[simp] theorem State.setCluster_cluster_self (s : State) (n : Nat) (x : Cluster) : (s.setCluster n x).cluster n = x := by
  simp [State.setCluster_cluster]
@[simp] theorem State.setCluster_part (s : State) (n m : Nat) (x : Cluster) : (s.setCluster n x).part m = s.part m := rfl
@[simp] theorem State.setCluster_ctx (s : State) (n m : Nat) (x : Cluster) : (s.setCluster n x).ctx m = s.ctx m := rfl
@[simp] theorem State.setCluster_launch (s : State) (n m : Nat) (x : Cluster) : (s.setCluster n x).launch m = s.launch m := rfl
@[simp] theorem State.setCluster_team (s : State) (n m : Nat) (x : Cluster) : (s.setCluster n x).team m = s.team m := rfl
@[simp] theorem State.setCluster_group (s : State) (n m : Nat) (x : Cluster) : (s.setCluster n x).group m = s.group m := rfl
@[simp] theorem State.setCluster_func (s : State) (n m : Nat) (x : Cluster) : (s.setCluster n x).func m = s.func m := rfl
@[simp] theorem State.setCluster_link (s : State) (n m : Nat) (x : Cluster) : (s.setCluster n x).link m = s.link m := rfl

/-! ## setPart -/

@[simp] theorem State.setPart_tick (s : State) (n : Nat) (x : Part) : (s.setPart n x).tick = s.tick := rfl
@[simp] theorem State.setPart_agenda (s : State) (n : Nat) (x : Part) : (s.setPart n x).agenda = s.agenda := rfl
@[simp] theorem State.setPart_cur (s : State) (n : Nat) (x : Part) : (s.setPart n x).cur = s.cur := rfl
@[simp] theorem State.setPart_nextId (s : State) (n : Nat) (x : Part) : (s.setPart n x).nextId = s.nextId := rfl
@[simp] theorem State.setPart_clock (s : State) (n : Nat) (x : Part) : (s.setPart n x).clock = s.clock := rfl
@[simp] theorem State.setPart_mem (s : State) (n : Nat) (x : Part) : (s.setPart n x).mem = s.mem := rfl
@[simp] theorem State.setPart_poison (s : State) (n : Nat) (x : Part) : (s.setPart n x).poison = s.poison := rfl
@[simp] theorem State.setPart_hallmarks (s : State) (n : Nat) (x : Part) : (s.setPart n x).hallmarks = s.hallmarks := rfl
@[simp] theorem State.setPart_cores (s : State) (n : Nat) (x : Part) : (s.setPart n x).cores = s.cores := rfl
@[simp] theorem State.setPart_clusters (s : State) (n : Nat) (x : Part) : (s.setPart n x).clusters = s.clusters := rfl
@[simp] theorem State.setPart_regions (s : State) (n : Nat) (x : Part) : (s.setPart n x).regions = s.regions := rfl
@[simp] theorem State.setPart_ctxs (s : State) (n : Nat) (x : Part) : (s.setPart n x).ctxs = s.ctxs := rfl
@[simp] theorem State.setPart_launches (s : State) (n : Nat) (x : Part) : (s.setPart n x).launches = s.launches := rfl
@[simp] theorem State.setPart_teams (s : State) (n : Nat) (x : Part) : (s.setPart n x).teams = s.teams := rfl
@[simp] theorem State.setPart_groups (s : State) (n : Nat) (x : Part) : (s.setPart n x).groups = s.groups := rfl
@[simp] theorem State.setPart_flights (s : State) (n : Nat) (x : Part) : (s.setPart n x).flights = s.flights := rfl
@[simp] theorem State.setPart_funcs (s : State) (n : Nat) (x : Part) : (s.setPart n x).funcs = s.funcs := rfl
@[simp] theorem State.setPart_links (s : State) (n : Nat) (x : Part) : (s.setPart n x).links = s.links := rfl
@[simp] theorem State.setPart_iluic (s : State) (n : Nat) (x : Part) : (s.setPart n x).iluic = s.iluic := rfl
theorem State.setPart_parts (s : State) (n : Nat) (x : Part) : (s.setPart n x).parts = aset s.parts n x := rfl
@[simp] theorem State.setPart_core (s : State) (n m : Nat) (x : Part) : (s.setPart n x).core m = s.core m := rfl
@[simp] theorem State.setPart_cluster (s : State) (n m : Nat) (x : Part) : (s.setPart n x).cluster m = s.cluster m := rfl
theorem State.setPart_part (s : State) (n m : Nat) (x : Part) :
    (s.setPart n x).part m = if n = m then x else s.part m := by
  simp only [State.setPart, State.part, aget?_aset]; split <;> rfl
@[simp] theorem State.setPart_part_self (s : State) (n : Nat) (x : Part) : (s.setPart n x).part n = x := by
  simp [State.setPart_part]
@[simp] theorem State.setPart_ctx (s : State) (n m : Nat) (x : Part) : (s.setPart n x).ctx m = s.ctx m := rfl
@[simp] theorem State.setPart_launch (s : State) (n m : Nat) (x : Part) : (s.setPart n x).launch m = s.launch m := rfl
@[simp] theorem State.setPart_team (s : State) (n m : Nat) (x : Part) : (s.setPart n x).team m = s.team m := rfl
@[simp] theorem State.setPart_group (s : State) (n m : Nat) (x : Part) : (s.setPart n x).group m = s.group m := rfl
@[simp] theorem State.setPart_func (s : State) (n m : Nat) (x : Part) : (s.setPart n x).func m = s.func m := rfl
@[simp] theorem State.setPart_link (s : State) (n m : Nat) (x : Part) : (s.setPart n x).link m = s.link m := rfl

/-! ## setCtx -/

@[simp] theorem State.setCtx_tick (s : State) (n : Nat) (x : Context) : (s.setCtx n x).tick = s.tick := rfl
@[simp] theorem State.setCtx_agenda (s : State) (n : Nat) (x : Context) : (s.setCtx n x).agenda = s.agenda := rfl
@[simp] theorem State.setCtx_cur (s : State) (n : Nat) (x : Context) : (s.setCtx n x).cur = s.cur := rfl
@[simp] theorem State.setCtx_nextId (s : State) (n : Nat) (x : Context) : (s.setCtx n x).nextId = s.nextId := rfl
@[simp] theorem State.setCtx_clock (s : State) (n : Nat) (x : Context) : (s.setCtx n x).clock = s.clock := rfl
@[simp] theorem State.setCtx_mem (s : State) (n : Nat) (x : Context) : (s.setCtx n x).mem = s.mem := rfl
@[simp] theorem State.setCtx_poison (s : State) (n : Nat) (x : Context) : (s.setCtx n x).poison = s.poison := rfl
@[simp] theorem State.setCtx_hallmarks (s : State) (n : Nat) (x : Context) : (s.setCtx n x).hallmarks = s.hallmarks := rfl
@[simp] theorem State.setCtx_cores (s : State) (n : Nat) (x : Context) : (s.setCtx n x).cores = s.cores := rfl
@[simp] theorem State.setCtx_clusters (s : State) (n : Nat) (x : Context) : (s.setCtx n x).clusters = s.clusters := rfl
@[simp] theorem State.setCtx_regions (s : State) (n : Nat) (x : Context) : (s.setCtx n x).regions = s.regions := rfl
@[simp] theorem State.setCtx_parts (s : State) (n : Nat) (x : Context) : (s.setCtx n x).parts = s.parts := rfl
@[simp] theorem State.setCtx_launches (s : State) (n : Nat) (x : Context) : (s.setCtx n x).launches = s.launches := rfl
@[simp] theorem State.setCtx_teams (s : State) (n : Nat) (x : Context) : (s.setCtx n x).teams = s.teams := rfl
@[simp] theorem State.setCtx_groups (s : State) (n : Nat) (x : Context) : (s.setCtx n x).groups = s.groups := rfl
@[simp] theorem State.setCtx_flights (s : State) (n : Nat) (x : Context) : (s.setCtx n x).flights = s.flights := rfl
@[simp] theorem State.setCtx_funcs (s : State) (n : Nat) (x : Context) : (s.setCtx n x).funcs = s.funcs := rfl
@[simp] theorem State.setCtx_links (s : State) (n : Nat) (x : Context) : (s.setCtx n x).links = s.links := rfl
@[simp] theorem State.setCtx_iluic (s : State) (n : Nat) (x : Context) : (s.setCtx n x).iluic = s.iluic := rfl
theorem State.setCtx_ctxs (s : State) (n : Nat) (x : Context) : (s.setCtx n x).ctxs = aset s.ctxs n x := rfl
@[simp] theorem State.setCtx_core (s : State) (n m : Nat) (x : Context) : (s.setCtx n x).core m = s.core m := rfl
@[simp] theorem State.setCtx_cluster (s : State) (n m : Nat) (x : Context) : (s.setCtx n x).cluster m = s.cluster m := rfl
@[simp] theorem State.setCtx_part (s : State) (n m : Nat) (x : Context) : (s.setCtx n x).part m = s.part m := rfl
theorem State.setCtx_ctx (s : State) (n m : Nat) (x : Context) :
    (s.setCtx n x).ctx m = if n = m then x else s.ctx m := by
  simp only [State.setCtx, State.ctx, aget?_aset]; split <;> rfl
@[simp] theorem State.setCtx_ctx_self (s : State) (n : Nat) (x : Context) : (s.setCtx n x).ctx n = x := by
  simp [State.setCtx_ctx]
@[simp] theorem State.setCtx_launch (s : State) (n m : Nat) (x : Context) : (s.setCtx n x).launch m = s.launch m := rfl
@[simp] theorem State.setCtx_team (s : State) (n m : Nat) (x : Context) : (s.setCtx n x).team m = s.team m := rfl
@[simp] theorem State.setCtx_group (s : State) (n m : Nat) (x : Context) : (s.setCtx n x).group m = s.group m := rfl
@[simp] theorem State.setCtx_func (s : State) (n m : Nat) (x : Context) : (s.setCtx n x).func m = s.func m := rfl
@[simp] theorem State.setCtx_link (s : State) (n m : Nat) (x : Context) : (s.setCtx n x).link m = s.link m := rfl

/-! ## setLaunch -/

@[simp] theorem State.setLaunch_tick (s : State) (n : Nat) (x : Launch) : (s.setLaunch n x).tick = s.tick := rfl
@[simp] theorem State.setLaunch_agenda (s : State) (n : Nat) (x : Launch) : (s.setLaunch n x).agenda = s.agenda := rfl
@[simp] theorem State.setLaunch_cur (s : State) (n : Nat) (x : Launch) : (s.setLaunch n x).cur = s.cur := rfl
@[simp] theorem State.setLaunch_nextId (s : State) (n : Nat) (x : Launch) : (s.setLaunch n x).nextId = s.nextId := rfl
@[simp] theorem State.setLaunch_clock (s : State) (n : Nat) (x : Launch) : (s.setLaunch n x).clock = s.clock := rfl
@[simp] theorem State.setLaunch_mem (s : State) (n : Nat) (x : Launch) : (s.setLaunch n x).mem = s.mem := rfl
@[simp] theorem State.setLaunch_poison (s : State) (n : Nat) (x : Launch) : (s.setLaunch n x).poison = s.poison := rfl
@[simp] theorem State.setLaunch_hallmarks (s : State) (n : Nat) (x : Launch) : (s.setLaunch n x).hallmarks = s.hallmarks := rfl
@[simp] theorem State.setLaunch_cores (s : State) (n : Nat) (x : Launch) : (s.setLaunch n x).cores = s.cores := rfl
@[simp] theorem State.setLaunch_clusters (s : State) (n : Nat) (x : Launch) : (s.setLaunch n x).clusters = s.clusters := rfl
@[simp] theorem State.setLaunch_regions (s : State) (n : Nat) (x : Launch) : (s.setLaunch n x).regions = s.regions := rfl
@[simp] theorem State.setLaunch_parts (s : State) (n : Nat) (x : Launch) : (s.setLaunch n x).parts = s.parts := rfl
@[simp] theorem State.setLaunch_ctxs (s : State) (n : Nat) (x : Launch) : (s.setLaunch n x).ctxs = s.ctxs := rfl
@[simp] theorem State.setLaunch_teams (s : State) (n : Nat) (x : Launch) : (s.setLaunch n x).teams = s.teams := rfl
@[simp] theorem State.setLaunch_groups (s : State) (n : Nat) (x : Launch) : (s.setLaunch n x).groups = s.groups := rfl
@[simp] theorem State.setLaunch_flights (s : State) (n : Nat) (x : Launch) : (s.setLaunch n x).flights = s.flights := rfl
@[simp] theorem State.setLaunch_funcs (s : State) (n : Nat) (x : Launch) : (s.setLaunch n x).funcs = s.funcs := rfl
@[simp] theorem State.setLaunch_links (s : State) (n : Nat) (x : Launch) : (s.setLaunch n x).links = s.links := rfl
@[simp] theorem State.setLaunch_iluic (s : State) (n : Nat) (x : Launch) : (s.setLaunch n x).iluic = s.iluic := rfl
theorem State.setLaunch_launches (s : State) (n : Nat) (x : Launch) : (s.setLaunch n x).launches = aset s.launches n x := rfl
@[simp] theorem State.setLaunch_core (s : State) (n m : Nat) (x : Launch) : (s.setLaunch n x).core m = s.core m := rfl
@[simp] theorem State.setLaunch_cluster (s : State) (n m : Nat) (x : Launch) : (s.setLaunch n x).cluster m = s.cluster m := rfl
@[simp] theorem State.setLaunch_part (s : State) (n m : Nat) (x : Launch) : (s.setLaunch n x).part m = s.part m := rfl
@[simp] theorem State.setLaunch_ctx (s : State) (n m : Nat) (x : Launch) : (s.setLaunch n x).ctx m = s.ctx m := rfl
theorem State.setLaunch_launch (s : State) (n m : Nat) (x : Launch) :
    (s.setLaunch n x).launch m = if n = m then x else s.launch m := by
  simp only [State.setLaunch, State.launch, aget?_aset]; split <;> rfl
@[simp] theorem State.setLaunch_launch_self (s : State) (n : Nat) (x : Launch) : (s.setLaunch n x).launch n = x := by
  simp [State.setLaunch_launch]
@[simp] theorem State.setLaunch_team (s : State) (n m : Nat) (x : Launch) : (s.setLaunch n x).team m = s.team m := rfl
@[simp] theorem State.setLaunch_group (s : State) (n m : Nat) (x : Launch) : (s.setLaunch n x).group m = s.group m := rfl
@[simp] theorem State.setLaunch_func (s : State) (n m : Nat) (x : Launch) : (s.setLaunch n x).func m = s.func m := rfl
@[simp] theorem State.setLaunch_link (s : State) (n m : Nat) (x : Launch) : (s.setLaunch n x).link m = s.link m := rfl

/-! ## setTeam -/

@[simp] theorem State.setTeam_tick (s : State) (n : Nat) (x : Team) : (s.setTeam n x).tick = s.tick := rfl
@[simp] theorem State.setTeam_agenda (s : State) (n : Nat) (x : Team) : (s.setTeam n x).agenda = s.agenda := rfl
@[simp] theorem State.setTeam_cur (s : State) (n : Nat) (x : Team) : (s.setTeam n x).cur = s.cur := rfl
@[simp] theorem State.setTeam_nextId (s : State) (n : Nat) (x : Team) : (s.setTeam n x).nextId = s.nextId := rfl
@[simp] theorem State.setTeam_clock (s : State) (n : Nat) (x : Team) : (s.setTeam n x).clock = s.clock := rfl
@[simp] theorem State.setTeam_mem (s : State) (n : Nat) (x : Team) : (s.setTeam n x).mem = s.mem := rfl
@[simp] theorem State.setTeam_poison (s : State) (n : Nat) (x : Team) : (s.setTeam n x).poison = s.poison := rfl
@[simp] theorem State.setTeam_hallmarks (s : State) (n : Nat) (x : Team) : (s.setTeam n x).hallmarks = s.hallmarks := rfl
@[simp] theorem State.setTeam_cores (s : State) (n : Nat) (x : Team) : (s.setTeam n x).cores = s.cores := rfl
@[simp] theorem State.setTeam_clusters (s : State) (n : Nat) (x : Team) : (s.setTeam n x).clusters = s.clusters := rfl
@[simp] theorem State.setTeam_regions (s : State) (n : Nat) (x : Team) : (s.setTeam n x).regions = s.regions := rfl
@[simp] theorem State.setTeam_parts (s : State) (n : Nat) (x : Team) : (s.setTeam n x).parts = s.parts := rfl
@[simp] theorem State.setTeam_ctxs (s : State) (n : Nat) (x : Team) : (s.setTeam n x).ctxs = s.ctxs := rfl
@[simp] theorem State.setTeam_launches (s : State) (n : Nat) (x : Team) : (s.setTeam n x).launches = s.launches := rfl
@[simp] theorem State.setTeam_groups (s : State) (n : Nat) (x : Team) : (s.setTeam n x).groups = s.groups := rfl
@[simp] theorem State.setTeam_flights (s : State) (n : Nat) (x : Team) : (s.setTeam n x).flights = s.flights := rfl
@[simp] theorem State.setTeam_funcs (s : State) (n : Nat) (x : Team) : (s.setTeam n x).funcs = s.funcs := rfl
@[simp] theorem State.setTeam_links (s : State) (n : Nat) (x : Team) : (s.setTeam n x).links = s.links := rfl
@[simp] theorem State.setTeam_iluic (s : State) (n : Nat) (x : Team) : (s.setTeam n x).iluic = s.iluic := rfl
theorem State.setTeam_teams (s : State) (n : Nat) (x : Team) : (s.setTeam n x).teams = aset s.teams n x := rfl
@[simp] theorem State.setTeam_core (s : State) (n m : Nat) (x : Team) : (s.setTeam n x).core m = s.core m := rfl
@[simp] theorem State.setTeam_cluster (s : State) (n m : Nat) (x : Team) : (s.setTeam n x).cluster m = s.cluster m := rfl
@[simp] theorem State.setTeam_part (s : State) (n m : Nat) (x : Team) : (s.setTeam n x).part m = s.part m := rfl
@[simp] theorem State.setTeam_ctx (s : State) (n m : Nat) (x : Team) : (s.setTeam n x).ctx m = s.ctx m := rfl
@[simp] theorem State.setTeam_launch (s : State) (n m : Nat) (x : Team) : (s.setTeam n x).launch m = s.launch m := rfl
theorem State.setTeam_team (s : State) (n m : Nat) (x : Team) :
    (s.setTeam n x).team m = if n = m then x else s.team m := by
  simp only [State.setTeam, State.team, aget?_aset]; split <;> rfl
@[simp] theorem State.setTeam_team_self (s : State) (n : Nat) (x : Team) : (s.setTeam n x).team n = x := by
  simp [State.setTeam_team]
@[simp] theorem State.setTeam_group (s : State) (n m : Nat) (x : Team) : (s.setTeam n x).group m = s.group m := rfl
@[simp] theorem State.setTeam_func (s : State) (n m : Nat) (x : Team) : (s.setTeam n x).func m = s.func m := rfl
@[simp] theorem State.setTeam_link (s : State) (n m : Nat) (x : Team) : (s.setTeam n x).link m = s.link m := rfl

/-! ## setGroup -/

@[simp] theorem State.setGroup_tick (s : State) (n : Nat) (x : Group) : (s.setGroup n x).tick = s.tick := rfl
@[simp] theorem State.setGroup_agenda (s : State) (n : Nat) (x : Group) : (s.setGroup n x).agenda = s.agenda := rfl
@[simp] theorem State.setGroup_cur (s : State) (n : Nat) (x : Group) : (s.setGroup n x).cur = s.cur := rfl
@[simp] theorem State.setGroup_nextId (s : State) (n : Nat) (x : Group) : (s.setGroup n x).nextId = s.nextId := rfl
@[simp] theorem State.setGroup_clock (s : State) (n : Nat) (x : Group) : (s.setGroup n x).clock = s.clock := rfl
@[simp] theorem State.setGroup_mem (s : State) (n : Nat) (x : Group) : (s.setGroup n x).mem = s.mem := rfl
@[simp] theorem State.setGroup_poison (s : State) (n : Nat) (x : Group) : (s.setGroup n x).poison = s.poison := rfl
@[simp] theorem State.setGroup_hallmarks (s : State) (n : Nat) (x : Group) : (s.setGroup n x).hallmarks = s.hallmarks := rfl
@[simp] theorem State.setGroup_cores (s : State) (n : Nat) (x : Group) : (s.setGroup n x).cores = s.cores := rfl
@[simp] theorem State.setGroup_clusters (s : State) (n : Nat) (x : Group) : (s.setGroup n x).clusters = s.clusters := rfl
@[simp] theorem State.setGroup_regions (s : State) (n : Nat) (x : Group) : (s.setGroup n x).regions = s.regions := rfl
@[simp] theorem State.setGroup_parts (s : State) (n : Nat) (x : Group) : (s.setGroup n x).parts = s.parts := rfl
@[simp] theorem State.setGroup_ctxs (s : State) (n : Nat) (x : Group) : (s.setGroup n x).ctxs = s.ctxs := rfl
@[simp] theorem State.setGroup_launches (s : State) (n : Nat) (x : Group) : (s.setGroup n x).launches = s.launches := rfl
@[simp] theorem State.setGroup_teams (s : State) (n : Nat) (x : Group) : (s.setGroup n x).teams = s.teams := rfl
@[simp] theorem State.setGroup_flights (s : State) (n : Nat) (x : Group) : (s.setGroup n x).flights = s.flights := rfl
@[simp] theorem State.setGroup_funcs (s : State) (n : Nat) (x : Group) : (s.setGroup n x).funcs = s.funcs := rfl
@[simp] theorem State.setGroup_links (s : State) (n : Nat) (x : Group) : (s.setGroup n x).links = s.links := rfl
@[simp] theorem State.setGroup_iluic (s : State) (n : Nat) (x : Group) : (s.setGroup n x).iluic = s.iluic := rfl
theorem State.setGroup_groups (s : State) (n : Nat) (x : Group) : (s.setGroup n x).groups = aset s.groups n x := rfl
@[simp] theorem State.setGroup_core (s : State) (n m : Nat) (x : Group) : (s.setGroup n x).core m = s.core m := rfl
@[simp] theorem State.setGroup_cluster (s : State) (n m : Nat) (x : Group) : (s.setGroup n x).cluster m = s.cluster m := rfl
@[simp] theorem State.setGroup_part (s : State) (n m : Nat) (x : Group) : (s.setGroup n x).part m = s.part m := rfl
@[simp] theorem State.setGroup_ctx (s : State) (n m : Nat) (x : Group) : (s.setGroup n x).ctx m = s.ctx m := rfl
@[simp] theorem State.setGroup_launch (s : State) (n m : Nat) (x : Group) : (s.setGroup n x).launch m = s.launch m := rfl
@[simp] theorem State.setGroup_team (s : State) (n m : Nat) (x : Group) : (s.setGroup n x).team m = s.team m := rfl
theorem State.setGroup_group (s : State) (n m : Nat) (x : Group) :
    (s.setGroup n x).group m = if n = m then x else s.group m := by
  simp only [State.setGroup, State.group, aget?_aset]; split <;> rfl
@[simp] theorem State.setGroup_group_self (s : State) (n : Nat) (x : Group) : (s.setGroup n x).group n = x := by
  simp [State.setGroup_group]
@[simp] theorem State.setGroup_func (s : State) (n m : Nat) (x : Group) : (s.setGroup n x).func m = s.func m := rfl
@[simp] theorem State.setGroup_link (s : State) (n m : Nat) (x : Group) : (s.setGroup n x).link m = s.link m := rfl

/-! ## setFunc -/

@[simp] theorem State.setFunc_tick (s : State) (n : Nat) (x : Func) : (s.setFunc n x).tick = s.tick := rfl
@[simp] theorem State.setFunc_agenda (s : State) (n : Nat) (x : Func) : (s.setFunc n x).agenda = s.agenda := rfl
@[simp] theorem State.setFunc_cur (s : State) (n : Nat) (x : Func) : (s.setFunc n x).cur = s.cur := rfl
@[simp] theorem State.setFunc_nextId (s : State) (n : Nat) (x : Func) : (s.setFunc n x).nextId = s.nextId := rfl
@[simp] theorem State.setFunc_clock (s : State) (n : Nat) (x : Func) : (s.setFunc n x).clock = s.clock := rfl
@[simp] theorem State.setFunc_mem (s : State) (n : Nat) (x : Func) : (s.setFunc n x).mem = s.mem := rfl
@[simp] theorem State.setFunc_poison (s : State) (n : Nat) (x : Func) : (s.setFunc n x).poison = s.poison := rfl
@[simp] theorem State.setFunc_hallmarks (s : State) (n : Nat) (x : Func) : (s.setFunc n x).hallmarks = s.hallmarks := rfl
@[simp] theorem State.setFunc_cores (s : State) (n : Nat) (x : Func) : (s.setFunc n x).cores = s.cores := rfl
@[simp] theorem State.setFunc_clusters (s : State) (n : Nat) (x : Func) : (s.setFunc n x).clusters = s.clusters := rfl
@[simp] theorem State.setFunc_regions (s : State) (n : Nat) (x : Func) : (s.setFunc n x).regions = s.regions := rfl
@[simp] theorem State.setFunc_parts (s : State) (n : Nat) (x : Func) : (s.setFunc n x).parts = s.parts := rfl
@[simp] theorem State.setFunc_ctxs (s : State) (n : Nat) (x : Func) : (s.setFunc n x).ctxs = s.ctxs := rfl
@[simp] theorem State.setFunc_launches (s : State) (n : Nat) (x : Func) : (s.setFunc n x).launches = s.launches := rfl
@[simp] theorem State.setFunc_teams (s : State) (n : Nat) (x : Func) : (s.setFunc n x).teams = s.teams := rfl
@[simp] theorem State.setFunc_groups (s : State) (n : Nat) (x : Func) : (s.setFunc n x).groups = s.groups := rfl
@[simp] theorem State.setFunc_flights (s : State) (n : Nat) (x : Func) : (s.setFunc n x).flights = s.flights := rfl
@[simp] theorem State.setFunc_links (s : State) (n : Nat) (x : Func) : (s.setFunc n x).links = s.links := rfl
@[simp] theorem State.setFunc_iluic (s : State) (n : Nat) (x : Func) : (s.setFunc n x).iluic = s.iluic := rfl
theorem State.setFunc_funcs (s : State) (n : Nat) (x : Func) : (s.setFunc n x).funcs = aset s.funcs n x := rfl
@[simp] theorem State.setFunc_core (s : State) (n m : Nat) (x : Func) : (s.setFunc n x).core m = s.core m := rfl
@[simp] theorem State.setFunc_cluster (s : State) (n m : Nat) (x : Func) : (s.setFunc n x).cluster m = s.cluster m := rfl
@[simp] theorem State.setFunc_part (s : State) (n m : Nat) (x : Func) : (s.setFunc n x).part m = s.part m := rfl
@[simp] theorem State.setFunc_ctx (s : State) (n m : Nat) (x : Func) : (s.setFunc n x).ctx m = s.ctx m := rfl
@[simp] theorem State.setFunc_launch (s : State) (n m : Nat) (x : Func) : (s.setFunc n x).launch m = s.launch m := rfl
@[simp] theorem State.setFunc_team (s : State) (n m : Nat) (x : Func) : (s.setFunc n x).team m = s.team m := rfl
@[simp] theorem State.setFunc_group (s : State) (n m : Nat) (x : Func) : (s.setFunc n x).group m = s.group m := rfl
theorem State.setFunc_func (s : State) (n m : Nat) (x : Func) :
    (s.setFunc n x).func m = if n = m then x else s.func m := by
  simp only [State.setFunc, State.func, aget?_aset]; split <;> rfl
@[simp] theorem State.setFunc_func_self (s : State) (n : Nat) (x : Func) : (s.setFunc n x).func n = x := by
  simp [State.setFunc_func]
@[simp] theorem State.setFunc_link (s : State) (n m : Nat) (x : Func) : (s.setFunc n x).link m = s.link m := rfl

/-! ## setLink -/

@[simp] theorem State.setLink_tick (s : State) (n : Nat) (x : Link) : (s.setLink n x).tick = s.tick := rfl
@[simp] theorem State.setLink_agenda (s : State) (n : Nat) (x : Link) : (s.setLink n x).agenda = s.agenda := rfl
@[simp] theorem State.setLink_cur (s : State) (n : Nat) (x : Link) : (s.setLink n x).cur = s.cur := rfl
@[simp] theorem State.setLink_nextId (s : State) (n : Nat) (x : Link) : (s.setLink n x).nextId = s.nextId := rfl
@[simp] theorem State.setLink_clock (s : State) (n : Nat) (x : Link) : (s.setLink n x).clock = s.clock := rfl
@[simp] theorem State.setLink_mem (s : State) (n : Nat) (x : Link) : (s.setLink n x).mem = s.mem := rfl
@[simp] theorem State.setLink_poison (s : State) (n : Nat) (x : Link) : (s.setLink n x).poison = s.poison := rfl
@[simp] theorem State.setLink_hallmarks (s : State) (n : Nat) (x : Link) : (s.setLink n x).hallmarks = s.hallmarks := rfl
@[simp] theorem State.setLink_cores (s : State) (n : Nat) (x : Link) : (s.setLink n x).cores = s.cores := rfl
@[simp] theorem State.setLink_clusters (s : State) (n : Nat) (x : Link) : (s.setLink n x).clusters = s.clusters := rfl
@[simp] theorem State.setLink_regions (s : State) (n : Nat) (x : Link) : (s.setLink n x).regions = s.regions := rfl
@[simp] theorem State.setLink_parts (s : State) (n : Nat) (x : Link) : (s.setLink n x).parts = s.parts := rfl
@[simp] theorem State.setLink_ctxs (s : State) (n : Nat) (x : Link) : (s.setLink n x).ctxs = s.ctxs := rfl
@[simp] theorem State.setLink_launches (s : State) (n : Nat) (x : Link) : (s.setLink n x).launches = s.launches := rfl
@[simp] theorem State.setLink_teams (s : State) (n : Nat) (x : Link) : (s.setLink n x).teams = s.teams := rfl
@[simp] theorem State.setLink_groups (s : State) (n : Nat) (x : Link) : (s.setLink n x).groups = s.groups := rfl
@[simp] theorem State.setLink_flights (s : State) (n : Nat) (x : Link) : (s.setLink n x).flights = s.flights := rfl
@[simp] theorem State.setLink_funcs (s : State) (n : Nat) (x : Link) : (s.setLink n x).funcs = s.funcs := rfl
@[simp] theorem State.setLink_iluic (s : State) (n : Nat) (x : Link) : (s.setLink n x).iluic = s.iluic := rfl
theorem State.setLink_links (s : State) (n : Nat) (x : Link) : (s.setLink n x).links = aset s.links n x := rfl
@[simp] theorem State.setLink_core (s : State) (n m : Nat) (x : Link) : (s.setLink n x).core m = s.core m := rfl
@[simp] theorem State.setLink_cluster (s : State) (n m : Nat) (x : Link) : (s.setLink n x).cluster m = s.cluster m := rfl
@[simp] theorem State.setLink_part (s : State) (n m : Nat) (x : Link) : (s.setLink n x).part m = s.part m := rfl
@[simp] theorem State.setLink_ctx (s : State) (n m : Nat) (x : Link) : (s.setLink n x).ctx m = s.ctx m := rfl
@[simp] theorem State.setLink_launch (s : State) (n m : Nat) (x : Link) : (s.setLink n x).launch m = s.launch m := rfl
@[simp] theorem State.setLink_team (s : State) (n m : Nat) (x : Link) : (s.setLink n x).team m = s.team m := rfl
@[simp] theorem State.setLink_group (s : State) (n m : Nat) (x : Link) : (s.setLink n x).group m = s.group m := rfl
@[simp] theorem State.setLink_func (s : State) (n m : Nat) (x : Link) : (s.setLink n x).func m = s.func m := rfl
theorem State.setLink_link (s : State) (n m : Nat) (x : Link) :
    (s.setLink n x).link m = if n = m then x else s.link m := by
  simp only [State.setLink, State.link, aget?_aset]; split <;> rfl
@[simp] theorem State.setLink_link_self (s : State) (n : Nat) (x : Link) : (s.setLink n x).link n = x := by
  simp [State.setLink_link]

/-! ## setFlight -/

@[simp] theorem State.setFlight_tick (s : State) (n : Nat) (x : Flight) : (s.setFlight n x).tick = s.tick := rfl
@[simp] theorem State.setFlight_agenda (s : State) (n : Nat) (x : Flight) : (s.setFlight n x).agenda = s.agenda := rfl
@[simp] theorem State.setFlight_cur (s : State) (n : Nat) (x : Flight) : (s.setFlight n x).cur = s.cur := rfl
@[simp] theorem State.setFlight_nextId (s : State) (n : Nat) (x : Flight) : (s.setFlight n x).nextId = s.nextId := rfl
@[simp] theorem State.setFlight_clock (s : State) (n : Nat) (x : Flight) : (s.setFlight n x).clock = s.clock := rfl
@[simp] theorem State.setFlight_mem (s : State) (n : Nat) (x : Flight) : (s.setFlight n x).mem = s.mem := rfl
@[simp] theorem State.setFlight_poison (s : State) (n : Nat) (x : Flight) : (s.setFlight n x).poison = s.poison := rfl
@[simp] theorem State.setFlight_hallmarks (s : State) (n : Nat) (x : Flight) : (s.setFlight n x).hallmarks = s.hallmarks := rfl
@[simp] theorem State.setFlight_cores (s : State) (n : Nat) (x : Flight) : (s.setFlight n x).cores = s.cores := rfl
@[simp] theorem State.setFlight_clusters (s : State) (n : Nat) (x : Flight) : (s.setFlight n x).clusters = s.clusters := rfl
@[simp] theorem State.setFlight_regions (s : State) (n : Nat) (x : Flight) : (s.setFlight n x).regions = s.regions := rfl
@[simp] theorem State.setFlight_parts (s : State) (n : Nat) (x : Flight) : (s.setFlight n x).parts = s.parts := rfl
@[simp] theorem State.setFlight_ctxs (s : State) (n : Nat) (x : Flight) : (s.setFlight n x).ctxs = s.ctxs := rfl
@[simp] theorem State.setFlight_launches (s : State) (n : Nat) (x : Flight) : (s.setFlight n x).launches = s.launches := rfl
@[simp] theorem State.setFlight_teams (s : State) (n : Nat) (x : Flight) : (s.setFlight n x).teams = s.teams := rfl
@[simp] theorem State.setFlight_groups (s : State) (n : Nat) (x : Flight) : (s.setFlight n x).groups = s.groups := rfl
@[simp] theorem State.setFlight_funcs (s : State) (n : Nat) (x : Flight) : (s.setFlight n x).funcs = s.funcs := rfl
@[simp] theorem State.setFlight_links (s : State) (n : Nat) (x : Flight) : (s.setFlight n x).links = s.links := rfl
@[simp] theorem State.setFlight_iluic (s : State) (n : Nat) (x : Flight) : (s.setFlight n x).iluic = s.iluic := rfl
theorem State.setFlight_flights (s : State) (n : Nat) (x : Flight) : (s.setFlight n x).flights = aset s.flights n x := rfl
@[simp] theorem State.setFlight_core (s : State) (n m : Nat) (x : Flight) : (s.setFlight n x).core m = s.core m := rfl
@[simp] theorem State.setFlight_cluster (s : State) (n m : Nat) (x : Flight) : (s.setFlight n x).cluster m = s.cluster m := rfl
@[simp] theorem State.setFlight_part (s : State) (n m : Nat) (x : Flight) : (s.setFlight n x).part m = s.part m := rfl
@[simp] theorem State.setFlight_ctx (s : State) (n m : Nat) (x : Flight) : (s.setFlight n x).ctx m = s.ctx m := rfl
@[simp] theorem State.setFlight_launch (s : State) (n m : Nat) (x : Flight) : (s.setFlight n x).launch m = s.launch m := rfl
@[simp] theorem State.setFlight_team (s : State) (n m : Nat) (x : Flight) : (s.setFlight n x).team m = s.team m := rfl
@[simp] theorem State.setFlight_group (s : State) (n m : Nat) (x : Flight) : (s.setFlight n x).group m = s.group m := rfl
@[simp] theorem State.setFlight_func (s : State) (n m : Nat) (x : Flight) : (s.setFlight n x).func m = s.func m := rfl
@[simp] theorem State.setFlight_link (s : State) (n m : Nat) (x : Flight) : (s.setFlight n x).link m = s.link m := rfl

/-! ## dropFlight -/

@[simp] theorem State.dropFlight_tick (s : State) (n : Nat) : (s.dropFlight n).tick = s.tick := rfl
@[simp] theorem State.dropFlight_agenda (s : State) (n : Nat) : (s.dropFlight n).agenda = s.agenda := rfl
@[simp] theorem State.dropFlight_cur (s : State) (n : Nat) : (s.dropFlight n).cur = s.cur := rfl
@[simp] theorem State.dropFlight_nextId (s : State) (n : Nat) : (s.dropFlight n).nextId = s.nextId := rfl
@[simp] theorem State.dropFlight_clock (s : State) (n : Nat) : (s.dropFlight n).clock = s.clock := rfl
@[simp] theorem State.dropFlight_mem (s : State) (n : Nat) : (s.dropFlight n).mem = s.mem := rfl
@[simp] theorem State.dropFlight_poison (s : State) (n : Nat) : (s.dropFlight n).poison = s.poison := rfl
@[simp] theorem State.dropFlight_hallmarks (s : State) (n : Nat) : (s.dropFlight n).hallmarks = s.hallmarks := rfl
@[simp] theorem State.dropFlight_cores (s : State) (n : Nat) : (s.dropFlight n).cores = s.cores := rfl
@[simp] theorem State.dropFlight_clusters (s : State) (n : Nat) : (s.dropFlight n).clusters = s.clusters := rfl
@[simp] theorem State.dropFlight_regions (s : State) (n : Nat) : (s.dropFlight n).regions = s.regions := rfl
@[simp] theorem State.dropFlight_parts (s : State) (n : Nat) : (s.dropFlight n).parts = s.parts := rfl
@[simp] theorem State.dropFlight_ctxs (s : State) (n : Nat) : (s.dropFlight n).ctxs = s.ctxs := rfl
@[simp] theorem State.dropFlight_launches (s : State) (n : Nat) : (s.dropFlight n).launches = s.launches := rfl
@[simp] theorem State.dropFlight_teams (s : State) (n : Nat) : (s.dropFlight n).teams = s.teams := rfl
@[simp] theorem State.dropFlight_groups (s : State) (n : Nat) : (s.dropFlight n).groups = s.groups := rfl
@[simp] theorem State.dropFlight_funcs (s : State) (n : Nat) : (s.dropFlight n).funcs = s.funcs := rfl
@[simp] theorem State.dropFlight_links (s : State) (n : Nat) : (s.dropFlight n).links = s.links := rfl
@[simp] theorem State.dropFlight_iluic (s : State) (n : Nat) : (s.dropFlight n).iluic = s.iluic := rfl

/-! ## Groups and quads -/

@[simp] theorem Group.setQuad_team (g : Group) (q : Nat) (x : Quad) : (g.setQuad q x).team = g.team := rfl
@[simp] theorem Group.setQuad_idx (g : Group) (q : Nat) (x : Quad) : (g.setQuad q x).idx = g.idx := rfl
@[simp] theorem Group.setQuad_core (g : Group) (q : Nat) (x : Quad) : (g.setQuad q x).core = g.core := rfl
@[simp] theorem Group.setQuad_slot (g : Group) (q : Nat) (x : Quad) : (g.setQuad q x).slot = g.slot := rfl
@[simp] theorem Group.setQuad_v (g : Group) (q : Nat) (x : Quad) : (g.setQuad q x).v = g.v := rfl
@[simp] theorem Group.setQuad_p (g : Group) (q : Nat) (x : Quad) : (g.setQuad q x).p = g.p := rfl
@[simp] theorem Group.setQuad_sr (g : Group) (q : Nat) (x : Quad) : (g.setQuad q x).sr = g.sr := rfl
@[simp] theorem Group.setQuad_flags (g : Group) (q : Nat) (x : Quad) : (g.setQuad q x).flags = g.flags := rfl
@[simp] theorem Group.setQuad_sticky (g : Group) (q : Nat) (x : Quad) : (g.setQuad q x).sticky = g.sticky := rfl
@[simp] theorem Group.setQuad_lclk (g : Group) (q : Nat) (x : Quad) : (g.setQuad q x).lclk = g.lclk := rfl
@[simp] theorem Group.setQuad_seed (g : Group) (q : Nat) (x : Quad) : (g.setQuad q x).seed = g.seed := rfl
@[simp] theorem Group.setQuad_frame (g : Group) (q : Nat) (x : Quad) : (g.setQuad q x).frame = g.frame := rfl
@[simp] theorem Group.setQuad_park (g : Group) (q : Nat) (x : Quad) : (g.setQuad q x).park = g.park := rfl
@[simp] theorem Group.setQuad_pend (g : Group) (q : Nat) (x : Quad) : (g.setQuad q x).pend = g.pend := rfl
@[simp] theorem Group.setQuad_stop (g : Group) (q : Nat) (x : Quad) : (g.setQuad q x).stop = g.stop := rfl
@[simp] theorem Group.setQuad_retired (g : Group) (q : Nat) (x : Quad) : (g.setQuad q x).retired = g.retired := rfl
@[simp] theorem Group.setQuad_fence (g : Group) (q : Nat) (x : Quad) : (g.setQuad q x).fence = g.fence := rfl
theorem Group.setQuad_quad (g : Group) (q r : Nat) (x : Quad) :
    (g.setQuad q x).quad r = if q = r then x else g.quad r := by
  simp only [Group.quad, Group.setQuad, aget?_aset]; split <;> rfl
@[simp] theorem Group.setQuad_quad_self (g : Group) (q : Nat) (x : Quad) : (g.setQuad q x).quad q = x := by
  simp [Group.setQuad_quad]

/-! ## Cores, ports and lines -/

@[simp] theorem Core.setPort_incarnation (c : Core) (n : Nat) (x : Port) : (c.setPort n x).incarnation = c.incarnation := rfl
@[simp] theorem Core.setLine_incarnation (c : Core) (n : Nat) (x : Line) : (c.setLine n x).incarnation = c.incarnation := rfl
@[simp] theorem Core.dropLine_incarnation (c : Core) (n : Nat) : (c.dropLine n).incarnation = c.incarnation := rfl
@[simp] theorem Core.setPort_release (c : Core) (n : Nat) (x : Port) : (c.setPort n x).release = c.release := rfl
@[simp] theorem Core.setLine_release (c : Core) (n : Nat) (x : Line) : (c.setLine n x).release = c.release := rfl
@[simp] theorem Core.dropLine_release (c : Core) (n : Nat) : (c.dropLine n).release = c.release := rfl
@[simp] theorem Core.setPort_service (c : Core) (n : Nat) (x : Port) : (c.setPort n x).service = c.service := rfl
@[simp] theorem Core.setLine_service (c : Core) (n : Nat) (x : Line) : (c.setLine n x).service = c.service := rfl
@[simp] theorem Core.dropLine_service (c : Core) (n : Nat) : (c.dropLine n).service = c.service := rfl
@[simp] theorem Core.setPort_l1 (c : Core) (n : Nat) (x : Port) : (c.setPort n x).l1 = c.l1 := rfl
@[simp] theorem Core.setPort_tlb (c : Core) (n : Nat) (x : Port) : (c.setPort n x).tlb = c.tlb := rfl
@[simp] theorem Core.setLine_tlb (c : Core) (n : Nat) (x : Line) : (c.setLine n x).tlb = c.tlb := rfl
@[simp] theorem Core.dropLine_tlb (c : Core) (n : Nat) : (c.dropLine n).tlb = c.tlb := rfl
@[simp] theorem Core.setLine_ports (c : Core) (n : Nat) (x : Line) : (c.setLine n x).ports = c.ports := rfl
@[simp] theorem Core.dropLine_ports (c : Core) (n : Nat) : (c.dropLine n).ports = c.ports := rfl
@[simp] theorem Core.setPort_origins (c : Core) (n : Nat) (x : Port) : (c.setPort n x).origins = c.origins := rfl
@[simp] theorem Core.setLine_origins (c : Core) (n : Nat) (x : Line) : (c.setLine n x).origins = c.origins := rfl
@[simp] theorem Core.dropLine_origins (c : Core) (n : Nat) : (c.dropLine n).origins = c.origins := rfl
@[simp] theorem Core.setPort_crucible (c : Core) (n : Nat) (x : Port) : (c.setPort n x).crucible = c.crucible := rfl
@[simp] theorem Core.setLine_crucible (c : Core) (n : Nat) (x : Line) : (c.setLine n x).crucible = c.crucible := rfl
@[simp] theorem Core.dropLine_crucible (c : Core) (n : Nat) : (c.dropLine n).crucible = c.crucible := rfl
@[simp] theorem Core.setPort_drains (c : Core) (n : Nat) (x : Port) : (c.setPort n x).drains = c.drains := rfl
@[simp] theorem Core.setLine_drains (c : Core) (n : Nat) (x : Line) : (c.setLine n x).drains = c.drains := rfl
@[simp] theorem Core.dropLine_drains (c : Core) (n : Nat) : (c.dropLine n).drains = c.drains := rfl
@[simp] theorem Core.setPort_swageQueue (c : Core) (n : Nat) (x : Port) : (c.setPort n x).swageQueue = c.swageQueue := rfl
@[simp] theorem Core.setLine_swageQueue (c : Core) (n : Nat) (x : Line) : (c.setLine n x).swageQueue = c.swageQueue := rfl
@[simp] theorem Core.dropLine_swageQueue (c : Core) (n : Nat) : (c.dropLine n).swageQueue = c.swageQueue := rfl
@[simp] theorem Core.setPort_swage (c : Core) (n : Nat) (x : Port) : (c.setPort n x).swage = c.swage := rfl
@[simp] theorem Core.setLine_swage (c : Core) (n : Nat) (x : Line) : (c.setLine n x).swage = c.swage := rfl
@[simp] theorem Core.dropLine_swage (c : Core) (n : Nat) : (c.dropLine n).swage = c.swage := rfl
theorem Core.setPort_port (c : Core) (n m : Nat) (x : Port) :
    (c.setPort n x).port m = if n = m then x else c.port m := by
  simp only [Core.port, Core.setPort, aget?_aset]; split <;> rfl
@[simp] theorem Core.setPort_port_self (c : Core) (n : Nat) (x : Port) : (c.setPort n x).port n = x := by
  simp [Core.setPort_port]
theorem Core.setLine_line (c : Core) (n m : Nat) (x : Line) :
    (c.setLine n x).line m = if n = m then x else c.line m := by
  simp only [Core.line, Core.setLine, aget?_aset]; split <;> rfl

/-! ## Teams -/

@[simp] theorem Team.setTile_launch (t : Team) (n : Nat) (x : Tile) : (t.setTile n x).launch = t.launch := rfl
@[simp] theorem Team.setTile_teamid (t : Team) (n : Nat) (x : Tile) : (t.setTile n x).teamid = t.teamid := rfl
@[simp] theorem Team.setTile_cslot (t : Team) (n : Nat) (x : Tile) : (t.setTile n x).cslot = t.cslot := rfl
@[simp] theorem Team.setTile_core (t : Team) (n : Nat) (x : Tile) : (t.setTile n x).core = t.core := rfl
@[simp] theorem Team.setTile_ngroups (t : Team) (n : Nat) (x : Tile) : (t.setTile n x).ngroups = t.ngroups := rfl
@[simp] theorem Team.setTile_live (t : Team) (n : Nat) (x : Tile) : (t.setTile n x).live = t.live := rfl
@[simp] theorem Team.setTile_check (t : Team) (n : Nat) (x : Tile) : (t.setTile n x).check = t.check := rfl
@[simp] theorem Team.setTile_pad (t : Team) (n : Nat) (x : Tile) : (t.setTile n x).pad = t.pad := rfl
@[simp] theorem Team.setTile_padPoison (t : Team) (n : Nat) (x : Tile) : (t.setTile n x).padPoison = t.padPoison := rfl
@[simp] theorem Team.setTile_handles (t : Team) (n : Nat) (x : Tile) : (t.setTile n x).handles = t.handles := rfl
@[simp] theorem Team.setTile_tables (t : Team) (n : Nat) (x : Tile) : (t.setTile n x).tables = t.tables := rfl
@[simp] theorem Team.setTile_rotation (t : Team) (n : Nat) (x : Tile) : (t.setTile n x).rotation = t.rotation := rfl
@[simp] theorem Team.setTile_pclk (t : Team) (n : Nat) (x : Tile) : (t.setTile n x).pclk = t.pclk := rfl
theorem Team.setTile_tile (t : Team) (n m : Nat) (x : Tile) :
    (t.setTile n x).tile m = if n = m then x else t.tile m := by
  simp only [Team.tile, Team.setTile, aget?_aset]; split <;> rfl
@[simp] theorem Team.setTable_launch (t : Team) (n : Nat) (x : Table) : (t.setTable n x).launch = t.launch := rfl
@[simp] theorem Team.setTable_teamid (t : Team) (n : Nat) (x : Table) : (t.setTable n x).teamid = t.teamid := rfl
@[simp] theorem Team.setTable_cslot (t : Team) (n : Nat) (x : Table) : (t.setTable n x).cslot = t.cslot := rfl
@[simp] theorem Team.setTable_core (t : Team) (n : Nat) (x : Table) : (t.setTable n x).core = t.core := rfl
@[simp] theorem Team.setTable_ngroups (t : Team) (n : Nat) (x : Table) : (t.setTable n x).ngroups = t.ngroups := rfl
@[simp] theorem Team.setTable_live (t : Team) (n : Nat) (x : Table) : (t.setTable n x).live = t.live := rfl
@[simp] theorem Team.setTable_check (t : Team) (n : Nat) (x : Table) : (t.setTable n x).check = t.check := rfl
@[simp] theorem Team.setTable_pad (t : Team) (n : Nat) (x : Table) : (t.setTable n x).pad = t.pad := rfl
@[simp] theorem Team.setTable_padPoison (t : Team) (n : Nat) (x : Table) : (t.setTable n x).padPoison = t.padPoison := rfl
@[simp] theorem Team.setTable_handles (t : Team) (n : Nat) (x : Table) : (t.setTable n x).handles = t.handles := rfl
@[simp] theorem Team.setTable_tiles (t : Team) (n : Nat) (x : Table) : (t.setTable n x).tiles = t.tiles := rfl
@[simp] theorem Team.setTable_rotation (t : Team) (n : Nat) (x : Table) : (t.setTable n x).rotation = t.rotation := rfl
@[simp] theorem Team.setTable_pclk (t : Team) (n : Nat) (x : Table) : (t.setTable n x).pclk = t.pclk := rfl
theorem Team.setTable_table (t : Team) (n m : Nat) (x : Table) :
    (t.setTable n x).table m = if n = m then x else t.table m := by
  simp only [Team.table, Team.setTable, aget?_aset]; split <;> rfl
@[simp] theorem Team.setHandle_launch (t : Team) (n : Nat) (x : Handle) : (t.setHandle n x).launch = t.launch := rfl
@[simp] theorem Team.setHandle_teamid (t : Team) (n : Nat) (x : Handle) : (t.setHandle n x).teamid = t.teamid := rfl
@[simp] theorem Team.setHandle_cslot (t : Team) (n : Nat) (x : Handle) : (t.setHandle n x).cslot = t.cslot := rfl
@[simp] theorem Team.setHandle_core (t : Team) (n : Nat) (x : Handle) : (t.setHandle n x).core = t.core := rfl
@[simp] theorem Team.setHandle_ngroups (t : Team) (n : Nat) (x : Handle) : (t.setHandle n x).ngroups = t.ngroups := rfl
@[simp] theorem Team.setHandle_live (t : Team) (n : Nat) (x : Handle) : (t.setHandle n x).live = t.live := rfl
@[simp] theorem Team.setHandle_check (t : Team) (n : Nat) (x : Handle) : (t.setHandle n x).check = t.check := rfl
@[simp] theorem Team.setHandle_pad (t : Team) (n : Nat) (x : Handle) : (t.setHandle n x).pad = t.pad := rfl
@[simp] theorem Team.setHandle_padPoison (t : Team) (n : Nat) (x : Handle) : (t.setHandle n x).padPoison = t.padPoison := rfl
@[simp] theorem Team.setHandle_tables (t : Team) (n : Nat) (x : Handle) : (t.setHandle n x).tables = t.tables := rfl
@[simp] theorem Team.setHandle_tiles (t : Team) (n : Nat) (x : Handle) : (t.setHandle n x).tiles = t.tiles := rfl
@[simp] theorem Team.setHandle_rotation (t : Team) (n : Nat) (x : Handle) : (t.setHandle n x).rotation = t.rotation := rfl
@[simp] theorem Team.setHandle_pclk (t : Team) (n : Nat) (x : Handle) : (t.setHandle n x).pclk = t.pclk := rfl
theorem Team.setHandle_handle (t : Team) (n m : Nat) (x : Handle) :
    (t.setHandle n x).handle m = if n = m then x else t.handle m := by
  simp only [Team.handle, Team.setHandle, aget?_aset]; split <;> rfl

end Sys2Proof.Machine
end

