-- ==== Sys2Proof/Laws/Course.lean ====
section
/-!
SUPPORT. The course every encoded instruction takes, once: what the gang in turn sees, that the opening checks pass for an
instruction that issues, what retiring changes, and what writing the lanes' results changes.
-/
namespace Sys2Proof.Machine

/-! ## The gang in turn -/

/-- What an environment is made of. -/
theorem env_spec {s : State} {e : Env} (h : s.env? = some e) :
    e.s = s ∧ e.core = s.cur.1 ∧ e.port = s.cur.2 ∧ ((s.core e.core).port e.port).issue = some e.is ∧
      e.g = s.group e.gid ∧ e.t = s.team e.g.team ∧ e.l = s.launch e.t.launch ∧ e.ctx = e.l.ctx := by
  unfold State.env? at h
  split at h
  · cases h
  · rename_i is his
    cases h
    exact ⟨rfl, rfl, rfl, his, rfl, rfl, rfl, rfl⟩

theorem Issues.state {i : Instr} {s : State} {e : Env} (h : Issues i s e) : e.s = s := (env_spec h.env).1
theorem Issues.group {i : Instr} {s : State} {e : Env} (h : Issues i s e) : e.g = e.s.group e.gid := by
  rw [h.state]; exact (env_spec h.env).2.2.2.2.1

/-- An instruction that issues passes the opening checks: its own meaning runs on its active lanes. -/
theorem instr_of_issues {i : Instr} {s : State} {e : Env} (h : Issues i s e)
    (k : Env → LaneMask → Host.Outcome State Fault Refusal) : instr i s k = k e (e.lanes i) := by
  have hc : (e.hazard i && e.l.check) = false := by
    cases hz : e.hazard i
    · rfl
    · simp [(h.clear hz).1]
  have hd : (e.hazard i && e.l.det) = false := by
    cases hz : e.hazard i
    · rfl
    · simp [(h.clear hz).2]
  simp [instr, withEnv, h.env, h.free, h.legal, h.regs, hc, hd]

/-! ## Retirement -/

theorem QuadKeeps.refl (x : Quad) : QuadKeeps x x := rfl

theorem QuadKeeps.trans {x y z : Quad} (h : QuadKeeps x y) (k : QuadKeeps y z) : QuadKeeps x z := by
  unfold QuadKeeps at *
  rw [k, h]

/-- What a map over a group's quads makes of each. -/
theorem quad_map (g : Group) (f : Nat → Quad → Quad) (q : Nat) :
    ({ g with quads := g.quads.map (fun x => (x.1, f x.1 x.2)) } : Group).quad q =
      match aget? g.quads q with | some x => f q x | none => {} := by
  simp only [Group.quad, aget?_map]
  cases aget? g.quads q <;> rfl

theorem quadKeeps_map (g : Group) (f : Nat → Quad → Quad) (hf : ∀ q x, QuadKeeps x (f q x)) (q : Nat) :
    QuadKeeps (g.quad q) (({ g with quads := g.quads.map (fun x => (x.1, f x.1 x.2)) } : Group).quad q) := by
  rw [quad_map]
  unfold Group.quad
  cases aget? g.quads q with
  | none => exact rfl
  | some x => exact hf q x

/-- A change of a group that keeps all but its counters and quads' places, the quads' masks and stacks among them. -/
structure SoftGroup (g g' : Group) : Prop where
  group : g' = { g with lclk := g'.lclk, retired := g'.retired, quads := g'.quads }
  quads : ∀ q, QuadKeeps (g.quad q) (g'.quad q)

theorem SoftGroup.refl (g : Group) : SoftGroup g g := ⟨rfl, fun _ => rfl⟩

theorem SoftGroup.trans {g g' g'' : Group} (h : SoftGroup g g') (k : SoftGroup g' g'') : SoftGroup g g'' where
  group := by rw [k.group, h.group]
  quads q := (h.quads q).trans (k.quads q)

/-- A map over some of a group's quads that keeps what `QuadKeeps` names. -/
theorem SoftGroup.map (g : Group) (p : Nat → Prop) [DecidablePred p] (f : Nat → Quad → Quad)
    (hf : ∀ q x, QuadKeeps x (f q x)) :
    SoftGroup g { g with quads := g.quads.map (fun x => if p x.1 then (x.1, f x.1 x.2) else x) } := by
  have : g.quads.map (fun x => if p x.1 then (x.1, f x.1 x.2) else x) =
      g.quads.map (fun x => (x.1, if p x.1 then f x.1 x.2 else x.2)) := by
    congr 1; funext x; split <;> rfl
  rw [this]
  refine ⟨rfl, quadKeeps_map g (fun q x => if p q then f q x else x) (fun q x => ?_)⟩
  split
  · exact hf q x
  · exact rfl

/-- What such a map leaves of the retired-instruction counts of the quads. -/
theorem dix_map (g : Group) (p : Nat → Prop) [DecidablePred p] (f : Nat → Quad → Quad)
    (hf : ∀ q x, (f q x).dix = x.dix) (q : Nat) :
    (({ g with quads := g.quads.map (fun x => if p x.1 then (x.1, f x.1 x.2) else x) } : Group).quad q).dix =
      (g.quad q).dix := by
  have : g.quads.map (fun x => if p x.1 then (x.1, f x.1 x.2) else x) =
      g.quads.map (fun x => (x.1, if p x.1 then f x.1 x.2 else x.2)) := by
    congr 1; funext x; split <;> rfl
  rw [this, quad_map g (fun q x => if p q then f q x else x)]
  unfold Group.quad
  cases aget? g.quads q with
  | none => rfl
  | some x => dsimp only [Option.getD]; split <;> simp [hf]

/-- What `splitDet` makes of a quad of the gang. -/
theorem splitDet_eq (g : Group) (qs : QuadMask) :
    ∃ f : Nat → Quad → Nat, splitDet g qs = { g with quads := g.quads.map (fun x =>
      if qs.getLsbD x.1 = true then (x.1, { x.2 with det := f x.1 x.2 }) else x) } :=
  ⟨fun k x => ((quadsOf qs).filter (fun q =>
    (g.quad q).pc == x.pc && (g.quad q).kind == x.kind && (g.quad q).handled == x.handled)).headD k, rfl⟩

theorem softGroup_splitDet (g : Group) (qs : QuadMask) : SoftGroup g (splitDet g qs) := by
  obtain ⟨f, hf⟩ := splitDet_eq g qs
  rw [hf]
  exact SoftGroup.map g (fun q => qs.getLsbD q = true) (fun k x => { x with det := f k x }) (fun _ _ => rfl)

theorem dix_splitDet (g : Group) (qs : QuadMask) (q : Nat) : ((splitDet g qs).quad q).dix = (g.quad q).dix := by
  obtain ⟨f, hf⟩ := splitDet_eq g qs
  rw [hf]
  exact dix_map g (fun q => qs.getLsbD q = true) (fun k x => { x with det := f k x }) (fun _ _ => rfl) q

/-! ### The parts of `retire` -/

theorem gotoNext_group (e : Env) (s : State) : SoftGroup (s.group e.gid) ((gotoNext e s).group e.gid) := by
  simp only [gotoNext, State.setGroup_group_self]
  exact SoftGroup.map _ (fun q => e.is.quads.getLsbD q = true) (fun _ x => x.goto e.is.after) (fun _ _ => rfl)

theorem gotoNext_dix (e : Env) (s : State) (q : Nat) :
    (((gotoNext e s).group e.gid).quad q).dix = ((s.group e.gid).quad q).dix := by
  simp only [gotoNext, State.setGroup_group_self]
  exact dix_map _ (fun q => e.is.quads.getLsbD q = true) (fun _ x => x.goto e.is.after) (fun _ _ => rfl) q

/-- What `endIssue` makes of the group: stamps, and under DET the gangs. -/
theorem endIssue_group_eq (e : Env) (s : State) :
    ∃ f : Quad → Option Nat, (endIssue e s).group e.gid =
      { splitDet (s.group e.gid) e.is.quads with quads := (splitDet (s.group e.gid) e.is.quads).quads.map (fun x =>
        if e.is.quads.getLsbD x.1 = true then (x.1, { x.2 with stamp := f x.2 }) else x) } := by
  simp only [endIssue, State.setGroup_group_self, State.setCore_group]
  exact ⟨_, rfl⟩

theorem endIssue_group (e : Env) (s : State) : SoftGroup (s.group e.gid) ((endIssue e s).group e.gid) := by
  obtain ⟨f, hf⟩ := endIssue_group_eq e s
  rw [hf]
  exact (softGroup_splitDet _ _).trans
    (SoftGroup.map _ (fun q => e.is.quads.getLsbD q = true) (fun _ x => { x with stamp := f x }) (fun _ _ => rfl))

theorem endIssue_dix (e : Env) (s : State) (q : Nat) :
    (((endIssue e s).group e.gid).quad q).dix = ((s.group e.gid).quad q).dix := by
  obtain ⟨f, hf⟩ := endIssue_group_eq e s
  rw [hf, dix_map _ (fun q => e.is.quads.getLsbD q = true) (fun _ x => { x with stamp := f x }) (fun _ _ => rfl),
    dix_splitDet]

theorem countRetired_group (e : Env) (s : State) : SoftGroup (s.group e.gid) ((countRetired e s).group e.gid) := by
  unfold countRetired
  dsimp only
  split
  · simp only [State.setGroup_group_self]
    exact ⟨rfl, fun _ => rfl⟩
  · simp only [State.setGroup_group_self]
    have h := SoftGroup.map (s.group e.gid) (fun q => e.is.quads.getLsbD q = true)
      (fun _ x => { x with dix := x.dix + 1 }) (fun _ _ => rfl)
    exact ⟨rfl, h.quads⟩

theorem countRetired_counted (e : Env) (s : State) :
    Counted e (s.group e.gid) ((countRetired e s).group e.gid) := by
  unfold countRetired
  cases hi : e.inh
  · refine ⟨by simp [hi], fun q x hx => ?_⟩
    simp only [hi, Bool.false_eq_true, if_false, State.setGroup_group_self]
    have : (s.group e.gid).quads.map (fun x => if e.is.quads.getLsbD x.1 = true
        then (x.1, { x.2 with dix := x.2.dix + 1 }) else x) =
        (s.group e.gid).quads.map (fun x => (x.1, if e.is.quads.getLsbD x.1 = true
          then { x.2 with dix := x.2.dix + 1 } else x.2)) := by
      congr 1; funext y; split <;> rfl
    simp only [Group.quad, this]
    rw [aget?_map _ (fun q (x : Quad) => if e.is.quads.getLsbD q = true then { x with dix := x.dix + 1 } else x), hx]
    cases h : e.is.quads.getLsbD q <;> simp
  · refine ⟨by simp [hi], fun q x hx => ?_⟩
    simp [hi, Group.quad, hx]

/-! ### Retirement -/

/-- A change of the group of a gang and of the issue of its port alone. -/
theorem onlyGang_setGroup (e : Env) (s : State) (g : Group) : OnlyGang e s (s.setGroup e.gid g) where
  machine := rfl
  memory _ := rfl
  cores _ _ := rfl
  core := rfl
  ports _ _ := rfl
  groups g' h := by simp [State.setGroup_group, Ne.symm h]
  flights := rfl

theorem onlyGang_setPort (e : Env) (s : State) (p : Port) :
    OnlyGang e s (s.setCore e.core ((s.core e.core).setPort e.port p)) where
  machine := rfl
  memory _ := rfl
  cores c h := by simp [State.setCore_core, Ne.symm h]
  core := by simp [Core.setPort]
  ports q h := by simp [Core.setPort_port, Ne.symm h]
  groups _ _ := rfl
  flights := rfl

theorem OnlyGang.refl (e : Env) (s : State) : OnlyGang e s s := ⟨rfl, fun _ => rfl, fun _ _ => rfl, rfl, fun _ _ => rfl,
  fun _ _ => rfl, rfl⟩

theorem OnlyGang.trans {e : Env} {s t u : State} (h : OnlyGang e s t) (k : OnlyGang e t u) : OnlyGang e s u where
  machine := by rw [k.machine, h.machine]
  memory a := (k.memory a).trans (h.memory a)
  cores c hc := (k.cores c hc).trans (h.cores c hc)
  core := by rw [k.core, h.core]
  ports p hp := (k.ports p hp).trans (h.ports p hp)
  groups g hg := (k.groups g hg).trans (h.groups g hg)
  flights := k.flights.trans h.flights

theorem countRetired_only (e : Env) (s : State) : OnlyGang e s (countRetired e s) := by
  unfold countRetired
  dsimp only
  split
  · exact onlyGang_setGroup e s _
  · exact onlyGang_setGroup e s _

theorem gotoNext_only (e : Env) (s : State) : OnlyGang e s (gotoNext e s) := onlyGang_setGroup e s _

theorem endIssue_only (e : Env) (s : State) : OnlyGang e s (endIssue e s) :=
  (onlyGang_setPort e s _).trans (onlyGang_setGroup e _ _)

@[simp] theorem countRetired_flights (e : Env) (s : State) : (countRetired e s).flights = s.flights := by
  unfold countRetired; split <;> rfl
@[simp] theorem gotoNext_flights (e : Env) (s : State) : (gotoNext e s).flights = s.flights := rfl
@[simp] theorem endIssue_flights (e : Env) (s : State) : (endIssue e s).flights = s.flights := rfl

/-- An association list's entries after a map that keeps some of their parts. -/
theorem aget?_map_if (m : List (Nat × Quad)) (p : Nat → Prop) [DecidablePred p] (f : Nat → Quad → Quad) (q : Nat) :
    aget? (m.map (fun x => if p x.1 then (x.1, f x.1 x.2) else x)) q =
      (aget? m q).map (fun x => if p q then f q x else x) := by
  have : m.map (fun x => if p x.1 then (x.1, f x.1 x.2) else x) = m.map (fun x => (x.1, if p x.1 then f x.1 x.2 else x.2)) := by
    congr 1; funext x; split <;> rfl
  rw [this, aget?_map m (fun q x => if p q then f q x else x)]

/-- After its clause's last instruction a gang's quads stand at the next header. -/
theorem retire_last_quads (e : Env) (s : State) (q : Nat) (x : Quad) (hq : e.is.quads.getLsbD q = true)
    (hx : aget? ((endIssue e (gotoNext e s)).group e.gid).quads q = some x) : x.kind = .header ∧ x.pc = e.is.after := by
  obtain ⟨f, hf⟩ := endIssue_group_eq e (gotoNext e s)
  obtain ⟨d, hd⟩ := splitDet_eq ((gotoNext e s).group e.gid) e.is.quads
  rw [hf, hd] at hx
  simp only [gotoNext, State.setGroup_group_self] at hx
  rw [aget?_map_if _ (fun q => e.is.quads.getLsbD q = true) (fun _ x => { x with stamp := f x }),
    aget?_map_if _ (fun q => e.is.quads.getLsbD q = true) (fun q x => { x with det := d q x }),
    aget?_map_if _ (fun q => e.is.quads.getLsbD q = true) (fun _ x => x.goto e.is.after)] at hx
  simp only [hq, if_true, Option.map_map] at hx
  obtain ⟨y, _, rfl⟩ := Option.map_eq_some_iff.mp hx
  exact ⟨rfl, rfl⟩

/-- Retiring an instruction advances its counters and moves the issue on, and changes nothing else. -/
theorem retire_retires (e : Env) (s : State) : Retires e s (retire e s) := by
  have hc := countRetired_group e s
  have hn := countRetired_counted e s
  have ho := countRetired_only e s
  unfold retire
  split
  · have hg := gotoNext_group e (countRetired e s)
    have he := endIssue_group e (gotoNext e (countRetired e s))
    have h := (hc.trans hg).trans he
    refine ⟨(ho.trans (gotoNext_only e _)).trans (endIssue_only e _), by simp, h.group, h.quads,
      ⟨?_, fun q x hx => ?_⟩, ?_⟩
    · rw [← hn.lclk]
      simp [endIssue, gotoNext, splitDet]
    · rw [endIssue_dix, gotoNext_dix]
      exact hn.dix q x hx
    · rename_i hl
      rw [MovesOn, if_pos hl]
      exact ⟨by simp [endIssue], retire_last_quads e _⟩
  · rename_i hl
    refine ⟨ho.trans (onlyGang_setPort e _ _), by simp, ?_, ?_, ?_, ?_⟩
    · exact hc.group
    · exact hc.quads
    · exact hn
    · rw [MovesOn, if_neg hl]
      simp

end Sys2Proof.Machine
end

