-- ==== Sys2Proof/Laws/Dispatch.lean ====
section
/-!
SUPPORT. The dispatch, arm by arm: executing an instruction is its meaning.
-/
namespace Sys2Proof.Machine

theorem exec_nop (c : Ctl) (s : State) :
    exec (.nop c) s = execNop c s := rfl
theorem exec_yield (c : Ctl) (s : State) :
    exec (.yield c) s = execYield c s := rfl
theorem exec_trap (c : Ctl) (code : BitVec 8) (s : State) :
    exec (.trap c code) s = execTrap c code s := rfl
theorem exec_brk (c : Ctl) (s : State) :
    exec (.brk c) s = execBrk c s := rfl
theorem exec_ppoint (a : RegCode) (s : State) :
    exec (.ppoint a) s = execPpoint a s := rfl
theorem exec_exit (c : Ctl) (s : State) :
    exec (.exit c) s = execExit c s := rfl
theorem exec_bra (c : Ctl) (disp : BitVec 32) (s : State) :
    exec (.bra c disp) s = execBra c disp s := rfl
theorem exec_brx (c : Ctl) (a : RegCode) (s : State) :
    exec (.brx c a) s = execBrx c a s := rfl
theorem exec_call (disp : BitVec 32) (s : State) :
    exec (.call disp) s = execCall disp s := rfl
theorem exec_ret (s : State) :
    exec (.ret) s = execRet s := rfl
theorem exec_rtt (s : State) :
    exec (.rtt) s = execRtt s := rfl
theorem exec_mark (disp : BitVec 32) (s : State) :
    exec (.mark disp) s = execMark disp s := rfl
theorem exec_join (s : State) :
    exec (.join) s = execJoin s := rfl
theorem exec_regang (s : State) :
    exec (.regang) s = execRegang s := rfl
theorem exec_lnch (c : Ctl) (d a : RegCode) (disp : BitVec 32) (s : State) :
    exec (.lnch c d a disp) s = execLnch c d a disp s := rfl
theorem exec_qswz (c : Ctl) (ty : Ty) (d a : RegCode) (pat : BitVec 8) (s : State) :
    exec (.qswz c ty d a pat) s = execQswz c ty d a pat s := rfl
theorem exec_qbc (c : Ctl) (ty : Ty) (d a : RegCode) (src : BitVec 2) (s : State) :
    exec (.qbc c ty d a src) s = execQbc c ty d a src s := rfl
theorem exec_shflIdx (c : Ctl) (ty : Ty) (d a : RegCode) (b : SrcB) (s : State) :
    exec (.shflIdx c ty d a b) s = execShflIdx c ty d a b s := rfl
theorem exec_shflUp (c : Ctl) (ty : Ty) (d a : RegCode) (b : SrcB) (s : State) :
    exec (.shflUp c ty d a b) s = execShflUp c ty d a b s := rfl
theorem exec_shflDown (c : Ctl) (ty : Ty) (d a : RegCode) (b : SrcB) (s : State) :
    exec (.shflDown c ty d a b) s = execShflDown c ty d a b s := rfl
theorem exec_shflXor (c : Ctl) (ty : Ty) (d a : RegCode) (b : SrcB) (s : State) :
    exec (.shflXor c ty d a b) s = execShflXor c ty d a b s := rfl
theorem exec_ballot (c : Ctl) (ty : Ty) (d : RegCode) (p : PredCode) (s : State) :
    exec (.ballot c ty d p) s = execBallot c ty d p s := rfl
theorem exec_voteAll (c : Ctl) (pd p : PredCode) (s : State) :
    exec (.voteAll c pd p) s = execVoteAll c pd p s := rfl
theorem exec_voteAny (c : Ctl) (pd p : PredCode) (s : State) :
    exec (.voteAny c pd p) s = execVoteAny c pd p s := rfl
theorem exec_voteUni (c : Ctl) (pd p : PredCode) (s : State) :
    exec (.voteUni c pd p) s = execVoteUni c pd p s := rfl
theorem exec_matchAny (c : Ctl) (ty : Ty) (d a : RegCode) (s : State) :
    exec (.matchAny c ty d a) s = execMatchAny c ty d a s := rfl
theorem exec_elect (c : Ctl) (pd : PredCode) (s : State) :
    exec (.elect c pd) s = execElect c pd s := rfl
theorem exec_reduxAdd (c : Ctl) (ty : Ty) (d a : RegCode) (s : State) :
    exec (.reduxAdd c ty d a) s = execReduxAdd c ty d a s := rfl
theorem exec_reduxMin (c : Ctl) (ty : Ty) (d a : RegCode) (s : State) :
    exec (.reduxMin c ty d a) s = execReduxMin c ty d a s := rfl
theorem exec_reduxMax (c : Ctl) (ty : Ty) (d a : RegCode) (s : State) :
    exec (.reduxMax c ty d a) s = execReduxMax c ty d a s := rfl
theorem exec_reduxAnd (c : Ctl) (ty : Ty) (d a : RegCode) (s : State) :
    exec (.reduxAnd c ty d a) s = execReduxAnd c ty d a s := rfl
theorem exec_reduxOr (c : Ctl) (ty : Ty) (d a : RegCode) (s : State) :
    exec (.reduxOr c ty d a) s = execReduxOr c ty d a s := rfl
theorem exec_reduxXor (c : Ctl) (ty : Ty) (d a : RegCode) (s : State) :
    exec (.reduxXor c ty d a) s = execReduxXor c ty d a s := rfl
theorem exec_scanAdd (c : Ctl) (ty : Ty) (exc : Bool) (d a : RegCode) (s : State) :
    exec (.scanAdd c ty exc d a) s = execScanAdd c ty exc d a s := rfl
theorem exec_scanMin (c : Ctl) (ty : Ty) (exc : Bool) (d a : RegCode) (s : State) :
    exec (.scanMin c ty exc d a) s = execScanMin c ty exc d a s := rfl
theorem exec_scanMax (c : Ctl) (ty : Ty) (exc : Bool) (d a : RegCode) (s : State) :
    exec (.scanMax c ty exc d a) s = execScanMax c ty exc d a s := rfl
theorem exec_scanAnd (c : Ctl) (ty : Ty) (exc : Bool) (d a : RegCode) (s : State) :
    exec (.scanAnd c ty exc d a) s = execScanAnd c ty exc d a s := rfl
theorem exec_scanOr (c : Ctl) (ty : Ty) (exc : Bool) (d a : RegCode) (s : State) :
    exec (.scanOr c ty exc d a) s = execScanOr c ty exc d a s := rfl
theorem exec_scanXor (c : Ctl) (ty : Ty) (exc : Bool) (d a : RegCode) (s : State) :
    exec (.scanXor c ty exc d a) s = execScanXor c ty exc d a s := rfl
theorem exec_iadd (c : Ctl) (ty : Ty) (sat : Bool) (d a : RegCode) (b : SrcB) (s : State) :
    exec (.iadd c ty sat d a b) s = execIadd c ty sat d a b s := rfl
theorem exec_isub (c : Ctl) (ty : Ty) (sat : Bool) (d a : RegCode) (b : SrcB) (s : State) :
    exec (.isub c ty sat d a b) s = execIsub c ty sat d a b s := rfl
theorem exec_imul (c : Ctl) (ty : Ty) (sat : Bool) (d a : RegCode) (b : SrcB) (s : State) :
    exec (.imul c ty sat d a b) s = execImul c ty sat d a b s := rfl
theorem exec_iaddc (c : Ctl) (ty : Ty) (d : RegCode) (pd : PredCode) (a : RegCode) (b : SrcB) (p : PredCode) (s : State) :
    exec (.iaddc c ty d pd a b p) s = execIaddc c ty d pd a b p s := rfl
theorem exec_imulh (c : Ctl) (ty : Ty) (d a : RegCode) (b : SrcB) (s : State) :
    exec (.imulh c ty d a b) s = execImulh c ty d a b s := rfl
theorem exec_imad (c : Ctl) (ty : Ty) (sat : Bool) (d a : RegCode) (b : SrcB) (k : RegCode) (s : State) :
    exec (.imad c ty sat d a b k) s = execImad c ty sat d a b k s := rfl
theorem exec_imin (c : Ctl) (ty : Ty) (d a : RegCode) (b : SrcB) (s : State) :
    exec (.imin c ty d a b) s = execImin c ty d a b s := rfl
theorem exec_imax (c : Ctl) (ty : Ty) (d a : RegCode) (b : SrcB) (s : State) :
    exec (.imax c ty d a b) s = execImax c ty d a b s := rfl
theorem exec_iabs (c : Ctl) (ty : Ty) (sat : Bool) (d a : RegCode) (s : State) :
    exec (.iabs c ty sat d a) s = execIabs c ty sat d a s := rfl
theorem exec_and (c : Ctl) (ty : Ty) (d a : RegCode) (b : SrcB) (s : State) :
    exec (.and c ty d a b) s = execAnd c ty d a b s := rfl
theorem exec_or (c : Ctl) (ty : Ty) (d a : RegCode) (b : SrcB) (s : State) :
    exec (.or c ty d a b) s = execOr c ty d a b s := rfl
theorem exec_xor (c : Ctl) (ty : Ty) (d a : RegCode) (b : SrcB) (s : State) :
    exec (.xor c ty d a b) s = execXor c ty d a b s := rfl
theorem exec_not (c : Ctl) (ty : Ty) (d a : RegCode) (s : State) :
    exec (.not c ty d a) s = execNot c ty d a s := rfl
theorem exec_shl (c : Ctl) (ty : Ty) (d a : RegCode) (b : SrcB) (s : State) :
    exec (.shl c ty d a b) s = execShl c ty d a b s := rfl
theorem exec_shr (c : Ctl) (ty : Ty) (d a : RegCode) (b : SrcB) (s : State) :
    exec (.shr c ty d a b) s = execShr c ty d a b s := rfl
theorem exec_sar (c : Ctl) (ty : Ty) (d a : RegCode) (b : SrcB) (s : State) :
    exec (.sar c ty d a b) s = execSar c ty d a b s := rfl
theorem exec_fshf (c : Ctl) (d a : RegCode) (b : SrcB) (k : RegCode) (s : State) :
    exec (.fshf c d a b k) s = execFshf c d a b k s := rfl
theorem exec_popc (c : Ctl) (ty : Ty) (d a : RegCode) (s : State) :
    exec (.popc c ty d a) s = execPopc c ty d a s := rfl
theorem exec_clz (c : Ctl) (ty : Ty) (d a : RegCode) (s : State) :
    exec (.clz c ty d a) s = execClz c ty d a s := rfl
theorem exec_brev (c : Ctl) (ty : Ty) (d a : RegCode) (s : State) :
    exec (.brev c ty d a) s = execBrev c ty d a s := rfl
theorem exec_bfe (c : Ctl) (ty : Ty) (d a : RegCode) (pos : BitVec 6) (len : BitVec 7) (s : State) :
    exec (.bfe c ty d a pos len) s = execBfe c ty d a pos len s := rfl
theorem exec_bfi (c : Ctl) (ty : Ty) (d a : RegCode) (b : SrcB) (pos : BitVec 6) (len : BitVec 7) (s : State) :
    exec (.bfi c ty d a b pos len) s = execBfi c ty d a b pos len s := rfl
theorem exec_lea (c : Ctl) (d a : RegCode) (b : SrcB) (sh : BitVec 5) (s : State) :
    exec (.lea c d a b sh) s = execLea c d a b sh s := rfl
theorem exec_mov (c : Ctl) (ty : Ty) (d a : RegCode) (s : State) :
    exec (.mov c ty d a) s = execMov c ty d a s := rfl
theorem exec_movi (c : Ctl) (d : RegCode) (imm : BitVec 32) (s : State) :
    exec (.movi c d imm) s = execMovi c d imm s := rfl
theorem exec_sprRead (c : Ctl) (ty : Ty) (d : RegCode) (sel : BitVec 7) (s : State) :
    exec (.sprRead c ty d sel) s = execSprRead c ty d sel s := rfl
theorem exec_sprWrite (c : Ctl) (b : SrcB) (s : State) :
    exec (.sprWrite c b) s = execSprWrite c b s := rfl
theorem exec_isetp (c : Ctl) (ty : Ty) (cmp : BitVec 4) (pd : PredCode) (a : RegCode) (b : SrcB) (s : State) :
    exec (.isetp c ty cmp pd a b) s = execIsetp c ty cmp pd a b s := rfl
theorem exec_fsetp (c : Ctl) (cmp : BitVec 4) (pd : PredCode) (a : RegCode) (b : SrcB) (s : State) :
    exec (.fsetp c cmp pd a b) s = execFsetp c cmp pd a b s := rfl
theorem exec_dsetp (c : Ctl) (cmp : BitVec 4) (pd : PredCode) (a : RegCode) (b : SrcB) (s : State) :
    exec (.dsetp c cmp pd a b) s = execDsetp c cmp pd a b s := rfl
theorem exec_sel (c : Ctl) (ty : Ty) (d a : RegCode) (b : SrcB) (p : PredCode) (s : State) :
    exec (.sel c ty d a b p) s = execSel c ty d a b p s := rfl
theorem exec_plop (c : Ctl) (pd p q r : PredCode) (lut : BitVec 8) (s : State) :
    exec (.plop c pd p q r lut) s = execPlop c pd p q r lut s := rfl
theorem exec_fadd (c : Ctl) (rm : Rnd) (d a : RegCode) (b : SrcB) (s : State) :
    exec (.fadd c rm d a b) s = execFadd c rm d a b s := rfl
theorem exec_fmul (c : Ctl) (rm : Rnd) (d a : RegCode) (b : SrcB) (s : State) :
    exec (.fmul c rm d a b) s = execFmul c rm d a b s := rfl
theorem exec_ffma (c : Ctl) (rm : Rnd) (d a : RegCode) (b : SrcB) (k : RegCode) (s : State) :
    exec (.ffma c rm d a b k) s = execFfma c rm d a b k s := rfl
theorem exec_fmin (c : Ctl) (d a : RegCode) (b : SrcB) (s : State) :
    exec (.fmin c d a b) s = execFmin c d a b s := rfl
theorem exec_fmax (c : Ctl) (d a : RegCode) (b : SrcB) (s : State) :
    exec (.fmax c d a b) s = execFmax c d a b s := rfl
theorem exec_fscale (c : Ctl) (rm : Rnd) (d a : RegCode) (b : SrcB) (s : State) :
    exec (.fscale c rm d a b) s = execFscale c rm d a b s := rfl
theorem exec_fclass (c : Ctl) (ty : Ty) (d a : RegCode) (s : State) :
    exec (.fclass c ty d a) s = execFclass c ty d a s := rfl
theorem exec_frcp (c : Ctl) (rm : Rnd) (d a : RegCode) (s : State) :
    exec (.frcp c rm d a) s = execFrcp c rm d a s := rfl
theorem exec_frsq (c : Ctl) (rm : Rnd) (d a : RegCode) (s : State) :
    exec (.frsq c rm d a) s = execFrsq c rm d a s := rfl
theorem exec_fsqrt (c : Ctl) (rm : Rnd) (d a : RegCode) (s : State) :
    exec (.fsqrt c rm d a) s = execFsqrt c rm d a s := rfl
theorem exec_fexp2 (c : Ctl) (rm : Rnd) (d a : RegCode) (s : State) :
    exec (.fexp2 c rm d a) s = execFexp2 c rm d a s := rfl
theorem exec_flog2 (c : Ctl) (rm : Rnd) (d a : RegCode) (s : State) :
    exec (.flog2 c rm d a) s = execFlog2 c rm d a s := rfl
theorem exec_fsin (c : Ctl) (rm : Rnd) (d a : RegCode) (s : State) :
    exec (.fsin c rm d a) s = execFsin c rm d a s := rfl
theorem exec_fcos (c : Ctl) (rm : Rnd) (d a : RegCode) (s : State) :
    exec (.fcos c rm d a) s = execFcos c rm d a s := rfl
theorem exec_dadd (c : Ctl) (rm : Rnd) (d a : RegCode) (b : SrcB) (s : State) :
    exec (.dadd c rm d a b) s = execDadd c rm d a b s := rfl
theorem exec_dmul (c : Ctl) (rm : Rnd) (d a : RegCode) (b : SrcB) (s : State) :
    exec (.dmul c rm d a b) s = execDmul c rm d a b s := rfl
theorem exec_dfma (c : Ctl) (rm : Rnd) (d a : RegCode) (b : SrcB) (k : RegCode) (s : State) :
    exec (.dfma c rm d a b k) s = execDfma c rm d a b k s := rfl
theorem exec_hadd2 (c : Ctl) (ty : Ty) (rm : Rnd) (d a : RegCode) (b : SrcB) (s : State) :
    exec (.hadd2 c ty rm d a b) s = execHadd2 c ty rm d a b s := rfl
theorem exec_hmul2 (c : Ctl) (ty : Ty) (rm : Rnd) (d a : RegCode) (b : SrcB) (s : State) :
    exec (.hmul2 c ty rm d a b) s = execHmul2 c ty rm d a b s := rfl
theorem exec_hfma2 (c : Ctl) (ty : Ty) (rm : Rnd) (d a : RegCode) (b : SrcB) (k : RegCode) (s : State) :
    exec (.hfma2 c ty rm d a b k) s = execHfma2 c ty rm d a b k s := rfl
theorem exec_cvt (c : Ctl) (ty src : Ty) (rm : Rnd) (sat : Bool) (d a : RegCode) (s : State) :
    exec (.cvt c ty src rm sat d a) s = execCvt c ty src rm sat d a s := rfl
theorem exec_cvtp (c : Ctl) (ty src : Ty) (rm : Rnd) (sat : Bool) (d a : RegCode) (b : SrcB) (s : State) :
    exec (.cvtp c ty src rm sat d a b) s = execCvtp c ty src rm sat d a b s := rfl
theorem exec_cvtx (c : Ctl) (ty src : Ty) (e : BitVec 3) (d a : RegCode) (s : State) :
    exec (.cvtx c ty src e d a) s = execCvtx c ty src e d a s := rfl
theorem exec_dot2 (c : Ctl) (ty el : Ty) (d a : RegCode) (b : SrcB) (s : State) :
    exec (.dot2 c ty el d a b) s = execDot2 c ty el d a b s := rfl
theorem exec_dot4 (c : Ctl) (ty el : Ty) (sc : Bool) (bs : BitVec 2) (d a : RegCode) (b : SrcB) (k : RegCode) (s : State) :
    exec (.dot4 c ty el sc bs d a b k) s = execDot4 c ty el sc bs d a b k s := rfl
theorem exec_dot8 (c : Ctl) (ty el : Ty) (sc : Bool) (bs : BitVec 2) (d a : RegCode) (b : SrcB) (k : RegCode) (s : State) :
    exec (.dot8 c ty el sc bs d a b k) s = execDot8 c ty el sc bs d a b k s := rfl
theorem exec_ld (c : Ctl) (ty : Ty) (h : Hint) (d a : RegCode) (off : BitVec 32) (s : State) :
    exec (.ld c ty h d a off) s = execLd c ty h d a off s := rfl
theorem exec_st (c : Ctl) (ty : Ty) (h : Hint) (a : RegCode) (b : SrcB) (off : BitVec 32) (s : State) :
    exec (.st c ty h a b off) s = execSt c ty h a b off s := rfl
theorem exec_lds (c : Ctl) (ty : Ty) (d a : RegCode) (off : BitVec 32) (s : State) :
    exec (.lds c ty d a off) s = execLds c ty d a off s := rfl
theorem exec_sts (c : Ctl) (ty : Ty) (a : RegCode) (b : SrcB) (off : BitVec 32) (s : State) :
    exec (.sts c ty a b off) s = execSts c ty a b off s := rfl
theorem exec_ldc (c : Ctl) (ty : Ty) (d a : RegCode) (slot : BitVec 2) (off : BitVec 32) (s : State) :
    exec (.ldc c ty d a slot off) s = execLdc c ty d a slot off s := rfl
theorem exec_stc (c : Ctl) (ty : Ty) (a : RegCode) (b : SrcB) (slot : BitVec 2) (off : BitVec 32) (s : State) :
    exec (.stc c ty a b slot off) s = execStc c ty a b slot off s := rfl
theorem exec_pref (c : Ctl) (h : Hint) (a : RegCode) (off : BitVec 32) (s : State) :
    exec (.pref c h a off) s = execPref c h a off s := rfl
theorem exec_atomAdd (c : Ctl) (ty : Ty) (ord : Ord) (d a : RegCode) (b : SrcB) (s : State) :
    exec (.atomAdd c ty ord d a b) s = execAtomAdd c ty ord d a b s := rfl
theorem exec_atomMin (c : Ctl) (ty : Ty) (ord : Ord) (d a : RegCode) (b : SrcB) (s : State) :
    exec (.atomMin c ty ord d a b) s = execAtomMin c ty ord d a b s := rfl
theorem exec_atomMax (c : Ctl) (ty : Ty) (ord : Ord) (d a : RegCode) (b : SrcB) (s : State) :
    exec (.atomMax c ty ord d a b) s = execAtomMax c ty ord d a b s := rfl
theorem exec_atomAnd (c : Ctl) (ty : Ty) (ord : Ord) (d a : RegCode) (b : SrcB) (s : State) :
    exec (.atomAnd c ty ord d a b) s = execAtomAnd c ty ord d a b s := rfl
theorem exec_atomOr (c : Ctl) (ty : Ty) (ord : Ord) (d a : RegCode) (b : SrcB) (s : State) :
    exec (.atomOr c ty ord d a b) s = execAtomOr c ty ord d a b s := rfl
theorem exec_atomXor (c : Ctl) (ty : Ty) (ord : Ord) (d a : RegCode) (b : SrcB) (s : State) :
    exec (.atomXor c ty ord d a b) s = execAtomXor c ty ord d a b s := rfl
theorem exec_atomExch (c : Ctl) (ty : Ty) (ord : Ord) (d a : RegCode) (b : SrcB) (s : State) :
    exec (.atomExch c ty ord d a b) s = execAtomExch c ty ord d a b s := rfl
theorem exec_cas (c : Ctl) (ty : Ty) (ord : Ord) (d a : RegCode) (b : SrcB) (k : RegCode) (s : State) :
    exec (.cas c ty ord d a b k) s = execCas c ty ord d a b k s := rfl
theorem exec_redAdd (c : Ctl) (ty : Ty) (a : RegCode) (b : SrcB) (off : BitVec 32) (s : State) :
    exec (.redAdd c ty a b off) s = execRedAdd c ty a b off s := rfl
theorem exec_redMin (c : Ctl) (ty : Ty) (a : RegCode) (b : SrcB) (off : BitVec 32) (s : State) :
    exec (.redMin c ty a b off) s = execRedMin c ty a b off s := rfl
theorem exec_redMax (c : Ctl) (ty : Ty) (a : RegCode) (b : SrcB) (off : BitVec 32) (s : State) :
    exec (.redMax c ty a b off) s = execRedMax c ty a b off s := rfl
theorem exec_redAnd (c : Ctl) (ty : Ty) (a : RegCode) (b : SrcB) (off : BitVec 32) (s : State) :
    exec (.redAnd c ty a b off) s = execRedAnd c ty a b off s := rfl
theorem exec_redOr (c : Ctl) (ty : Ty) (a : RegCode) (b : SrcB) (off : BitVec 32) (s : State) :
    exec (.redOr c ty a b off) s = execRedOr c ty a b off s := rfl
theorem exec_redXor (c : Ctl) (ty : Ty) (a : RegCode) (b : SrcB) (off : BitVec 32) (s : State) :
    exec (.redXor c ty a b off) s = execRedXor c ty a b off s := rfl
theorem exec_acq (c : Ctl) (ty : Ty) (h : Hint) (d a : RegCode) (off : BitVec 32) (s : State) :
    exec (.acq c ty h d a off) s = execAcq c ty h d a off s := rfl
theorem exec_rel (c : Ctl) (ty : Ty) (a : RegCode) (b : SrcB) (off : BitVec 32) (s : State) :
    exec (.rel c ty a b off) s = execRel c ty a b off s := rfl
theorem exec_fence (s : State) :
    exec (.fence) s = execFence s := rfl
theorem exec_binit (c : Ctl) (gl : Bool) (a : RegCode) (b : SrcB) (s : State) :
    exec (.binit c gl a b) s = execBinit c gl a b s := rfl
theorem exec_arrive (c : Ctl) (gl : Bool) (a : RegCode) (s : State) :
    exec (.arrive c gl a) s = execArrive c gl a s := rfl
theorem exec_expect (c : Ctl) (gl : Bool) (a : RegCode) (b : SrcB) (s : State) :
    exec (.expect c gl a b) s = execExpect c gl a b s := rfl
theorem exec_wait (c : Ctl) (gl : Bool) (pd : PredCode) (a : RegCode) (b : SrcB) (s : State) :
    exec (.wait c gl pd a b) s = execWait c gl pd a b s := rfl
theorem exec_rinit (c : Ctl) (gl : Bool) (a : RegCode) (b : SrcB) (k : RegCode) (s : State) :
    exec (.rinit c gl a b k) s = execRinit c gl a b k s := rfl
theorem exec_rgive (c : Ctl) (gl : Bool) (a : RegCode) (s : State) :
    exec (.rgive c gl a) s = execRgive c gl a s := rfl
theorem exec_adecl (c : Ctl) (pd : PredCode) (a : RegCode) (b : SrcB) (k : RegCode) (lg : BitVec 5) (s : State) :
    exec (.adecl c pd a b k lg) s = execAdecl c pd a b k lg s := rfl
theorem exec_afree (c : Ctl) (pd : PredCode) (a : RegCode) (s : State) :
    exec (.afree c pd a) s = execAfree c pd a s := rfl
theorem exec_astat (c : Ctl) (d a : RegCode) (s : State) :
    exec (.astat c d a) s = execAstat c d a s := rfl
theorem exec_arsum (c : Ctl) (fx : Bool) (d : RegCode) (pd : PredCode) (a : RegCode) (b : SrcB) (k : RegCode) (s : State) :
    exec (.arsum c fx d pd a b k) s = execArsum c fx d pd a b k s := rfl
theorem exec_armax (c : Ctl) (d : RegCode) (pd : PredCode) (a : RegCode) (b : SrcB) (k : RegCode) (s : State) :
    exec (.armax c d pd a b k) s = execArmax c d pd a b k s := rfl
theorem exec_armin (c : Ctl) (d : RegCode) (pd : PredCode) (a : RegCode) (b : SrcB) (k : RegCode) (s : State) :
    exec (.armin c d pd a b k) s = execArmin c d pd a b k s := rfl
theorem exec_apfx (c : Ctl) (d : RegCode) (pd : PredCode) (a : RegCode) (b : SrcB) (s : State) :
    exec (.apfx c d pd a b) s = execApfx c d pd a b s := rfl
theorem exec_apick (c : Ctl) (d : RegCode) (pd : PredCode) (a : RegCode) (b : SrcB) (s : State) :
    exec (.apick c d pd a b) s = execApick c d pd a b s := rfl
theorem exec_htclaim (c : Ctl) (tab : BitVec 2) (pd : PredCode) (a : RegCode) (s : State) :
    exec (.htclaim c tab pd a) s = execHtclaim c tab pd a s := rfl
theorem exec_htfree (c : Ctl) (tab : BitVec 2) (pd : PredCode) (a : RegCode) (s : State) :
    exec (.htfree c tab pd a) s = execHtfree c tab pd a s := rfl
theorem exec_htins (c : Ctl) (tab : BitVec 2) (raw : Bool) (d : RegCode) (pd : PredCode) (a : RegCode) (b : SrcB) (s : State) :
    exec (.htins c tab raw d pd a b) s = execHtins c tab raw d pd a b s := rfl
theorem exec_htprobe (c : Ctl) (tab : BitVec 2) (d : RegCode) (pd : PredCode) (a : RegCode) (s : State) :
    exec (.htprobe c tab d pd a) s = execHtprobe c tab d pd a s := rfl
theorem exec_htdel (c : Ctl) (tab : BitVec 2) (d a : RegCode) (s : State) :
    exec (.htdel c tab d a) s = execHtdel c tab d a s := rfl
theorem exec_htacc (c : Ctl) (tab : BitVec 2) (raw : Bool) (a : RegCode) (b : SrcB) (s : State) :
    exec (.htacc c tab raw a b) s = execHtacc c tab raw a b s := rfl
theorem exec_htaccRes (c : Ctl) (tab : BitVec 2) (raw : Bool) (d a : RegCode) (b : SrcB) (s : State) :
    exec (.htaccRes c tab raw d a b) s = execHtaccRes c tab raw d a b s := rfl
theorem exec_htdrain (c : Ctl) (tab : BitVec 2) (dgl bgl : Bool) (a bs k : RegCode) (s : State) :
    exec (.htdrain c tab dgl bgl a bs k) s = execHtdrain c tab dgl bgl a bs k s := rfl
theorem exec_htstat (c : Ctl) (tab : BitVec 2) (d : RegCode) (s : State) :
    exec (.htstat c tab d) s = execHtstat c tab d s := rfl
theorem exec_thset (c : Ctl) (slot : BitVec 4) (d a : RegCode) (s : State) :
    exec (.thset c slot d a) s = execThset c slot d a s := rfl
theorem exec_thget (c : Ctl) (d a : RegCode) (s : State) :
    exec (.thget c d a) s = execThget c d a s := rfl
theorem exec_thdrop (c : Ctl) (a : RegCode) (s : State) :
    exec (.thdrop c a) s = execThdrop c a s := rfl
theorem exec_thdropRevoke (c : Ctl) (a : RegCode) (s : State) :
    exec (.thdropRevoke c a) s = execThdropRevoke c a s := rfl
theorem exec_cpy (c : Ctl) (bgl : Bool) (a bs k : RegCode) (s : State) :
    exec (.cpy c bgl a bs k) s = execCpy c bgl a bs k s := rfl
theorem exec_cpyg (c : Ctl) (bgl : Bool) (a bs k : RegCode) (s : State) :
    exec (.cpyg c bgl a bs k) s = execCpyg c bgl a bs k s := rfl
theorem exec_cpys (c : Ctl) (bgl : Bool) (a bs k : RegCode) (s : State) :
    exec (.cpys c bgl a bs k) s = execCpys c bgl a bs k s := rfl
theorem exec_cpysRadd (c : Ctl) (bgl : Bool) (a bs k : RegCode) (s : State) :
    exec (.cpysRadd c bgl a bs k) s = execCpysRadd c bgl a bs k s := rfl
theorem exec_cpyr (c : Ctl) (bgl : Bool) (a bs k : RegCode) (s : State) :
    exec (.cpyr c bgl a bs k) s = execCpyr c bgl a bs k s := rfl
theorem exec_mrsv (c : Ctl) (wide : Bool) (pd : PredCode) (a bs : RegCode) (s : State) :
    exec (.mrsv c wide pd a bs) s = execMrsv c wide pd a bs s := rfl
theorem exec_mrel (c : Ctl) (a bs : RegCode) (s : State) :
    exec (.mrel c a bs) s = execMrel c a bs s := rfl
theorem exec_mpri (c : Ctl) (a bs : RegCode) (s : State) :
    exec (.mpri c a bs) s = execMpri c a bs s := rfl
theorem exec_mzero (c : Ctl) (a : RegCode) (s : State) :
    exec (.mzero c a) s = execMzero c a s := rfl
theorem exec_mma (c : Ctl) (tile : BitVec 3) (a bs k : RegCode) (s : State) :
    exec (.mma c tile a bs k) s = execMma c tile a bs k s := rfl
theorem exec_mmat (c : Ctl) (tile : BitVec 3) (bgl : Bool) (a bs k : RegCode) (s : State) :
    exec (.mmat c tile bgl a bs k) s = execMmat c tile bgl a bs k s := rfl
theorem exec_mld (c : Ctl) (tile : BitVec 3) (acct : BitVec 2) (a bs k : RegCode) (s : State) :
    exec (.mld c tile acct a bs k) s = execMld c tile acct a bs k s := rfl
theorem exec_mst (c : Ctl) (tile : BitVec 3) (acct : BitVec 2) (a bs k : RegCode) (s : State) :
    exec (.mst c tile acct a bs k) s = execMst c tile acct a bs k s := rfl
theorem exec_csrr (c : Ctl) (d : RegCode) (csr : BitVec 12) (s : State) :
    exec (.csrr c d csr) s = execCsrr c d csr s := rfl
theorem exec_csrw (c : Ctl) (a : RegCode) (csr : BitVec 12) (s : State) :
    exec (.csrw c a csr) s = execCsrw c a csr s := rfl
theorem exec_tlbiPage (c : Ctl) (loc : Bool) (a : RegCode) (s : State) :
    exec (.tlbiPage c loc a) s = execTlbiPage c loc a s := rfl
theorem exec_tlbiAll (c : Ctl) (loc : Bool) (a : RegCode) (s : State) :
    exec (.tlbiAll c loc a) s = execTlbiAll c loc a s := rfl
theorem exec_l1wb (c : Ctl) (s : State) :
    exec (.l1wb c) s = execL1wb c s := rfl
theorem exec_halt (c : Ctl) (s : State) :
    exec (.halt c) s = execHalt c s := rfl
theorem exec_clauseIssue (core port : Nat) (s : State) :
    exec (.clauseIssue core port) s = execClauseIssue core port s := rfl
theorem exec_regangBoundRelease (gid : Nat) (addr : VAddr) (s : State) :
    exec (.regangBoundRelease gid addr) s = execRegangBoundRelease gid addr s := rfl
theorem exec_detRegangBound (gid : Nat) (addr : VAddr) (s : State) :
    exec (.detRegangBound gid addr) s = execDetRegangBound gid addr s := rfl
theorem exec_minClockRelease (core port : Nat) (s : State) :
    exec (.minClockRelease core port) s = execMinClockRelease core port s := rfl
theorem exec_detYield (core port : Nat) (s : State) :
    exec (.detYield core port) s = execDetYield core port s := rfl
theorem exec_waitWake (gid quad : Nat) (s : State) :
    exec (.waitWake gid quad) s = execWaitWake gid quad s := rfl
theorem exec_loadDataReturn (op line : Nat) (s : State) :
    exec (.loadDataReturn op line) s = execLoadDataReturn op line s := rfl
theorem exec_atomicStepAtHome (op : Nat) (s : State) :
    exec (.atomicStepAtHome op) s = execAtomicStepAtHome op s := rfl
theorem exec_releaseAtHome (op : Nat) (s : State) :
    exec (.releaseAtHome op) s = execReleaseAtHome op s := rfl
theorem exec_remoteAcquire (op : Nat) (s : State) :
    exec (.remoteAcquire op) s = execRemoteAcquire op s := rfl
theorem exec_pullCore (core : Nat) (upTo : Word) (s : State) :
    exec (.pullCore core upTo) s = execPullCore core upTo s := rfl
theorem exec_updateOnlyRecall (line : Nat) (s : State) :
    exec (.updateOnlyRecall line) s = execUpdateOnlyRecall line s := rfl
theorem exec_l1Eviction (core line : Nat) (s : State) :
    exec (.l1Eviction core line) s = execL1Eviction core line s := rfl
theorem exec_homeEviction (line : Nat) (s : State) :
    exec (.homeEviction line) s = execHomeEviction line s := rfl
theorem exec_leafwrite (op : Nat) (s : State) :
    exec (.leafwrite op) s = execLeafwrite op s := rfl
theorem exec_rangeStep (op : Nat) (s : State) :
    exec (.rangeStep op) s = execRangeStep op s := rfl
theorem exec_descendStep (op : Nat) (s : State) :
    exec (.descendStep op) s = execDescendStep op s := rfl
theorem exec_regionBuild (op : Nat) (s : State) :
    exec (.regionBuild op) s = execRegionBuild op s := rfl
theorem exec_swageAccept (core : Nat) (s : State) :
    exec (.swageAccept core) s = execSwageAccept core s := rfl
theorem exec_swageCredit (core cmd move : Nat) (s : State) :
    exec (.swageCredit core cmd move) s = execSwageCredit core cmd move s := rfl
theorem exec_cpyrPermit (core cmd : Nat) (s : State) :
    exec (.cpyrPermit core cmd) s = execCpyrPermit core cmd s := rfl
theorem exec_drainCredit (op n : Nat) (s : State) :
    exec (.drainCredit op n) s = execDrainCredit op n s := rfl
theorem exec_anvilGrant (cluster : Nat) (s : State) :
    exec (.anvilGrant cluster) s = execAnvilGrant cluster s := rfl
theorem exec_passStep (cluster : Nat) (s : State) :
    exec (.passStep cluster) s = execPassStep cluster s := rfl
theorem exec_mmatTrigger (cluster req : Nat) (s : State) :
    exec (.mmatTrigger cluster req) s = execMmatTrigger cluster req s := rfl
theorem exec_anvilFaultSuspend (cluster : Nat) (s : State) :
    exec (.anvilFaultSuspend cluster) s = execAnvilFaultSuspend cluster s := rfl
theorem exec_impreciseStoreFault (core entry : Nat) (s : State) :
    exec (.impreciseStoreFault core entry) s = execImpreciseStoreFault core entry s := rfl
theorem exec_placement (part : Nat) (s : State) :
    exec (.placement part) s = execPlacement part s := rfl
theorem exec_teamEnd (team : Nat) (s : State) :
    exec (.teamEnd team) s = execTeamEnd team s := rfl
theorem exec_launchEnd (launch : Nat) (s : State) :
    exec (.launchEnd launch) s = execLaunchEnd launch s := rfl
theorem exec_hintCheck (launch idx : Nat) (s : State) :
    exec (.hintCheck launch idx) s = execHintCheck launch idx s := rfl
theorem exec_preemptionRequest (ctx : Nat) (s : State) :
    exec (.preemptionRequest ctx) s = execPreemptionRequest ctx s := rfl
theorem exec_deadline (ctx : Nat) (s : State) :
    exec (.deadline ctx) s = execDeadline ctx s := rfl
theorem exec_suspension (ctx : Nat) (s : State) :
    exec (.suspension ctx) s = execSuspension ctx s := rfl
theorem exec_timelimit (ctx : Nat) (s : State) :
    exec (.timelimit ctx) s = execTimelimit ctx s := rfl
theorem exec_eccCorrected (strike : Strike) (s : State) :
    exec (.eccCorrected strike) s = execEccCorrected strike s := rfl
theorem exec_eccUncorrectable (strike : Strike) (s : State) :
    exec (.eccUncorrectable strike) s = execEccUncorrectable strike s := rfl
theorem exec_coreRejoin (core : Nat) (s : State) :
    exec (.coreRejoin core) s = execCoreRejoin core s := rfl
theorem exec_scrub (sector : Nat) (s : State) :
    exec (.scrub sector) s = execScrub sector s := rfl
theorem exec_linkDown (link : Nat) (s : State) :
    exec (.linkDown link) s = execLinkDown link s := rfl
theorem exec_peerInboundAccess (link addr : Nat) (data : Option (List Byte)) (s : State) :
    exec (.peerInboundAccess link addr data) s = execPeerInboundAccess link addr data s := rfl
theorem exec_hostCompletionError (op line : Nat) (s : State) :
    exec (.hostCompletionError op line) s = execHostCompletionError op line s := rfl
theorem exec_thermalThrottle (die temp : Nat) (s : State) :
    exec (.thermalThrottle die temp) s = execThermalThrottle die temp s := rfl
theorem exec_thermalStop (die temp : Nat) (s : State) :
    exec (.thermalStop die temp) s = execThermalStop die temp s := rfl
theorem exec_eventPost (func : Nat) (s : State) :
    exec (.eventPost func) s = execEventPost func s := rfl
theorem exec_launchPortWrite (func off : Nat) (data : List Byte) (s : State) :
    exec (.launchPortWrite func off data) s = execLaunchPortWrite func off data s := rfl
theorem exec_bar2Write (func addr : Nat) (data : List Byte) (s : State) :
    exec (.bar2Write func addr data) s = execBar2Write func addr data s := rfl
theorem exec_bar2Read (func addr len : Nat) (s : State) :
    exec (.bar2Read func addr len) s = execBar2Read func addr len s := rfl
theorem exec_registerWrite (func off : Nat) (data : List Byte) (s : State) :
    exec (.registerWrite func off data) s = execRegisterWrite func off data s := rfl
theorem exec_ctxcreate (h : Hdr) (img : Nat) (s : State) :
    exec (.ctxcreate h img) s = execCtxcreate h img s := rfl
theorem exec_ctxdestroy (h : Hdr) (s : State) :
    exec (.ctxdestroy h) s = execCtxdestroy h s := rfl
theorem exec_preempt (h : Hdr) (s : State) :
    exec (.preempt h) s = execPreempt h s := rfl
theorem exec_hostResume (h : Hdr) (g : GroupName) (s : State) :
    exec (.hostResume h g) s = execHostResume h g s := rfl
theorem exec_hostReturn (h : Hdr) (g : GroupName) (s : State) :
    exec (.hostReturn h g) s = execHostReturn h g s := rfl
theorem exec_hostKill (h : Hdr) (g : GroupName) (s : State) :
    exec (.hostKill h g) s = execHostKill h g s := rfl
theorem exec_ptwrite (h : Hdr) (pa : Nat) (value : DWord) (s : State) :
    exec (.ptwrite h pa value) s = execPtwrite h pa value s := rfl
theorem exec_invalPage (h : Hdr) (va : VAddr) (s : State) :
    exec (.invalPage h va) s = execInvalPage h va s := rfl
theorem exec_invalAll (h : Hdr) (s : State) :
    exec (.invalAll h) s = execInvalAll h s := rfl
theorem exec_admitApprove (h : Hdr) (hid : Nat) (s : State) :
    exec (.admitApprove h hid) s = execAdmitApprove h hid s := rfl
theorem exec_admitRefuse (h : Hdr) (hid : Nat) (s : State) :
    exec (.admitRefuse h hid) s = execAdmitRefuse h hid s := rfl
theorem exec_rgrantGrant (h : Hdr) (rid : Nat) (s : State) :
    exec (.rgrantGrant h rid) s = execRgrantGrant h rid s := rfl
theorem exec_rgrantRefuse (h : Hdr) (rid : Nat) (s : State) :
    exec (.rgrantRefuse h rid) s = execRgrantRefuse h rid s := rfl
theorem exec_frameTrap (h : Hdr) (g : GroupName) (dst : Nat) (s : State) :
    exec (.frameTrap h g dst) s = execFrameTrap h g dst s := rfl
theorem exec_frameRecord (h : Hdr) (hid dst : Nat) (s : State) :
    exec (.frameRecord h hid dst) s = execFrameRecord h hid dst s := rfl
theorem exec_pset (h : Hdr) (img : Nat) (s : State) :
    exec (.pset h img) s = execPset h img s := rfl
theorem exec_attest (h : Hdr) (nonce : List Byte) (dst : Nat) (s : State) :
    exec (.attest h nonce dst) s = execAttest h nonce dst s := rfl
theorem exec_errlog (h : Hdr) (len dst : Nat) (s : State) :
    exec (.errlog h len dst) s = execErrlog h len dst s := rfl
theorem exec_errlogCerts (h : Hdr) (len dst : Nat) (s : State) :
    exec (.errlogCerts h len dst) s = execErrlogCerts h len dst s := rfl
theorem exec_peerwinOutbound (h : Hdr) (link len : Nat) (s : State) :
    exec (.peerwinOutbound h link len) s = execPeerwinOutbound h link len s := rfl
theorem exec_peerwinInbound (h : Hdr) (link ext len : Nat) (s : State) :
    exec (.peerwinInbound h link ext len) s = execPeerwinInbound h link ext len s := rfl
theorem exec_fwstageImage (h : Hdr) (stage len src : Nat) (s : State) :
    exec (.fwstageImage h stage len src) s = execFwstageImage h stage len src s := rfl
theorem exec_fwstageSvn (h : Hdr) (stage svn : Nat) (s : State) :
    exec (.fwstageSvn h stage svn) s = execFwstageSvn h stage svn s := rfl
theorem exec_power (h : Hdr) (watts : Nat) (s : State) :
    exec (.power h watts) s = execPower h watts s := rfl
theorem exec_storeAcknowledgement (op : Nat) (s : State) :
    exec (.storeAcknowledgement op) s = execStoreAcknowledgement op s := rfl
theorem exec_unitEnd (cluster : Nat) (s : State) :
    exec (.unitEnd cluster) s = execUnitEnd cluster s := rfl
theorem exec_crucibleOperationApplied (core : Nat) (s : State) :
    exec (.crucibleOperationApplied core) s = execCrucibleOperationApplied core s := rfl
theorem exec_linkRetry (link : Nat) (s : State) :
    exec (.linkRetry link) s = execLinkRetry link s := rfl
theorem exec_moduleReset (s : State) :
    exec (.moduleReset) s = execModuleReset s := rfl
theorem exec_powerThrottle (s : State) :
    exec (.powerThrottle) s = execPowerThrottle s := rfl

end Sys2Proof.Machine
end

