-- ==== Sys2Proof/Laws/Memory.lean ====
section
/-!
SUPPORT. Memory keeps its canonical form: one lemma for every operation that writes it, and for the state after reset.
-/
namespace Sys2Proof.Machine

/-- What holds at the start and is kept by every element's step holds at the end of a fold. -/
theorem foldl_keeps {α β : Type} (P : β → Prop) (f : β → α → β) (h : ∀ b a, P b → P (f b a)) (xs : List α) (b : β)
    (hb : P b) : P (xs.foldl f b) := by
  induction xs generalizing b with
  | nil => exact hb
  | cons x xs ih => exact ih _ (h b x hb)

theorem memOk_iff (s : State) : s.MemOk ↔ Store.wf (w := 8) s.mem = true := Iff.rfl

/-- A state with the same memory. -/
theorem State.MemOk.of_mem {s t : State} (h : s.MemOk) (e : t.mem = s.mem) : t.MemOk := by
  rw [memOk_iff, e]; exact h

theorem memOk_mem {s : State} {m : Memory} (h : Store.wf (w := 8) m = true) : ({ s with mem := m } : State).MemOk := h

theorem reset_memOk : State.reset.MemOk := rfl

theorem poisonSector_memOk {s : State} (h : s.MemOk) (x : Nat) : (s.poisonSector x).MemOk := by
  unfold State.poisonSector; split <;> exact h

theorem clearPoison_memOk {s : State} (h : s.MemOk) (a n : Nat) : (s.clearPoison a n).MemOk := h

theorem writeBytes_memOk {s : State} (h : s.MemOk) (a : Nat) (bs : List Byte) :
    ({ s with mem := writeBytes s.mem a bs } : State).MemOk := Store.wf_writeBytes h a bs

/-- R118. -/
theorem combineLine_wf {m : Memory} (h : Store.wf (w := 8) m = true) (line : Nat) (x : Line) :
    Store.wf (w := 8) (combineLine m line x) = true := by
  unfold combineLine
  split
  · exact h
  · exact foldl_keeps (fun m => Store.wf (w := 8) m = true) _ (fun _ _ h => Store.wf_writeBytes h _ _) _ _ h

theorem combineCopy_memOk {s : State} (h : s.MemOk) (c line : Nat) (x : Line) : (combineCopy s c line x).MemOk := by
  unfold combineCopy
  exact foldl_keeps State.MemOk _ (fun _ _ h => poisonSector_memOk h _) _ _ (combineLine_wf h line x)

theorem recallCopies_memOk {s : State} (h : s.MemOk) (line : Nat) : (recallCopies s line).MemOk := by
  unfold recallCopies
  refine foldl_keeps State.MemOk _ (fun b e h => ?_) _ _ h
  split
  · split
    · exact combineCopy_memOk h _ _ _
    · exact h
  · exact h

/-- Where no core holds an update-only copy of a line, its home recalls nothing (R118). -/
theorem recallCopies_none {s : State} {line : Nat}
    (h : NoPartials s line) : recallCopies s line = s := by
  have go : ∀ cs : List (Nat × Core), (∀ k ∈ cs, ∀ x, aget? k.2.l1 line = some x → x.state ≠ .u) →
      cs.foldl (fun s e => match aget? e.2.l1 line with
        | some x => if x.state = .u then combineCopy s e.1 line x else s
        | none => s) s = s := by
    intro cs
    induction cs with
    | nil => exact fun _ => rfl
    | cons k ks ih =>
      intro hk
      have e : (match aget? k.2.l1 line with
          | some x => if x.state = .u then combineCopy s k.1 line x else s
          | none => s) = s := by
        cases hx : aget? k.2.l1 line with
        | none => rfl
        | some x => exact if_neg (hk k List.mem_cons_self x hx)
      rw [List.foldl_cons, e]
      exact ih fun j hj => hk j (List.mem_cons_of_mem k hj)
  exact go s.cores h

theorem homeBytes_clean {s : State} {pa : Nat} (h : NoPartials s (lineOf pa)) (n : Nat) : homeBytes s pa n = readBytes s.mem pa n := by
  unfold homeBytes homeRead
  rw [recallCopies_none h]

theorem homeRead_memOk {s : State} (h : s.MemOk) (pa n : Nat) : (homeRead s pa n).2.MemOk := recallCopies_memOk h _

theorem homeWrite_memOk {s : State} (h : s.MemOk) (pa : Nat) (bs : List Byte) : (homeWrite s pa bs).MemOk :=
  Store.wf_writeBytes (recallCopies_memOk h _) pa bs

/-- R90, R110. -/
theorem mergeDirty_wf {m : Memory} (h : Store.wf (w := 8) m = true) (line : Nat) (x : Line) :
    Store.wf (w := 8) (mergeDirty m line x) = true := by
  unfold mergeDirty
  refine foldl_keeps (fun m : Memory => Store.wf (w := 8) m = true) _ (fun b i h => ?_) _ _ h
  split
  · exact Store.wf_set h _ _
  · exact h

theorem clearPoisons_memOk {s : State} (h : s.MemOk) (f : Nat → Nat) (ks : List Nat) :
    (ks.foldl (fun s k => s.clearPoison (f k) 64) s).MemOk :=
  foldl_keeps State.MemOk _ (fun _ _ h => clearPoison_memOk h _ _) _ _ h

theorem poisonSectors_memOk {s : State} (h : s.MemOk) (f : Nat → Nat) (ks : List Nat) :
    (ks.foldl (fun s k => s.poisonSector (f k)) s).MemOk :=
  foldl_keeps State.MemOk _ (fun _ _ h => poisonSector_memOk h _) _ _ h

theorem merge_memOk {s : State} (h : s.MemOk) (line : Nat) (x : Line) :
    ({ s with mem := mergeDirty s.mem line x } : State).MemOk := by
  have k := mergeDirty_wf ((memOk_iff s).1 h) line x
  generalize mergeDirty s.mem line x = m at k ⊢
  exact k

theorem setCore_memOk {s : State} (h : s.MemOk) (c : Nat) (k : Core) : (s.setCore c k).MemOk := h

theorem writebackLine_memOk {s : State} (h : s.MemOk) (c line : Nat) : (writebackLine s c line).MemOk := by
  unfold writebackLine
  split
  · exact h
  · split
    · exact setCore_memOk (poisonSectors_memOk (clearPoisons_memOk (merge_memOk (recallCopies_memOk h _) _ _) _ _) _ _) _ _
    · exact combineCopy_memOk h _ _ _
    · exact h

theorem flushLine_memOk {s : State} (h : s.MemOk) (c line : Nat) : (flushLine s c line).MemOk :=
  setCore_memOk (writebackLine_memOk h c line) _ _

theorem writebackAll_memOk {s : State} (h : s.MemOk) (c : Nat) : (writebackAll s c).MemOk :=
  foldl_keeps State.MemOk _ (fun _ _ h => writebackLine_memOk h _ _) _ _ h

theorem pullLines_memOk {s : State} (h : s.MemOk) (c : Nat) (e : Word) : (pullLines s c e).MemOk := by
  unfold pullLines
  refine foldl_keeps State.MemOk _ (fun _ _ h => ?_) _ _ h
  dsimp only
  split
  · exact writebackLine_memOk h _ _
  · exact h

theorem selfInvalidate_memOk {s : State} (h : s.MemOk) (c : Nat) (ro : Bool) : (selfInvalidate s c ro).MemOk := h

/-- R3. -/
theorem makeRoom_memOk {s : State} (h : s.MemOk) (c line : Nat) : (makeRoom s c line).MemOk := by
  unfold makeRoom
  split
  · exact h
  · split
    · exact flushLine_memOk h _ _
    · exact h

/-- R95. -/
theorem keepLine_memOk {s : State} (h : s.MemOk) (c line : Nat) (keep : Bool) : (keepLine s c line keep).MemOk := by
  unfold keepLine
  split
  · exact setCore_memOk h _ _
  · exact h

/-- R112. -/
theorem writebackLagging_memOk {s : State} (h : s.MemOk) (c : Nat) (next : Word) : (writebackLagging s c next).MemOk := by
  unfold writebackLagging
  refine foldl_keeps State.MemOk _ (fun _ _ h => ?_) _ _ h
  dsimp only
  split
  · exact writebackLine_memOk h _ _
  · exact h

/-- R113. -/
theorem dropRecord_memOk {s : State} (h : s.MemOk) (line : Nat) : (dropRecord s line).MemOk :=
  foldl_keeps State.MemOk _ (fun _ _ h => pullLines_memOk h _ _) _ _ h

theorem l1Load_memOk {s : State} (h : s.MemOk) (c pa n : Nat) (hint : Hint) (stale : Bool) :
    (l1Load s c pa n hint stale).2.2.MemOk := by
  unfold l1Load
  dsimp only
  split
  · exact h
  · split
    · exact setCore_memOk (makeRoom_memOk (recallCopies_memOk h _) _ _) _ _
    · exact recallCopies_memOk h _

theorem readThrough_memOk {s : State} (h : s.MemOk) (c pa n : Nat) : (readThrough s c pa n).2.2.MemOk := recallCopies_memOk h _

theorem l1Store_memOk {s : State} (h : s.MemOk) (c pa : Nat) (bs : List Byte) (first : Bool) :
    (l1Store s c pa bs first).MemOk := by
  refine setCore_memOk (makeRoom_memOk ?_ _ _) _ _
  split
  · exact writebackLine_memOk h _ _
  · exact h

theorem throughStore_memOk {s : State} (h : s.MemOk) (c pa : Nat) (bs : List Byte) : (throughStore s c pa bs).MemOk := by
  unfold throughStore
  have k : (homeWrite (if ((s.core c).line (lineOf pa)).state = .u then writebackLine s c (lineOf pa) else s) pa bs).MemOk := by
    apply homeWrite_memOk
    split
    · exact writebackLine_memOk h _ _
    · exact h
  dsimp only
  split
  · exact k
  · exact k

theorem redGather_memOk {s : State} (h : s.MemOk) (c pa : Nat) (k : RedKind) (b : Nat) : (redGather s c pa k b).MemOk := by
  refine setCore_memOk (makeRoom_memOk ?_ _ _) _ _
  split
  · exact h
  · refine foldl_keeps State.MemOk _ (fun _ _ h => ?_) _ _ (flushLine_memOk h _ _)
    split
    · split
      · exact writebackLine_memOk h _ _
      · exact h
    · exact h

/-- R19. -/
theorem push_memOk {s : State} (h : s.MemOk) (gid q : Nat) (e : DWord) : (push s gid q e).MemOk := by
  unfold push
  dsimp only
  split
  · exact h
  · exact foldl_keeps (fun m : Memory => Store.wf (w := 8) m = true) _ (fun _ _ h => Store.wf_writeBytes h _ _) _ _ h

theorem refill_memOk {s : State} (h : s.MemOk) (gid q : Nat) : (refill s gid q).MemOk := by
  unfold refill
  dsimp only
  split <;> exact h

theorem pop_memOk {s : State} (h : s.MemOk) (gid q : Nat) : (pop s gid q).MemOk :=
  refill_memOk (s := s.setGroup gid ((s.group gid).setQuad q { (s.group gid).quad q with
    resident := ((s.group gid).quad q).resident.drop 1 })) h gid q

theorem restoreStack_memOk {s : State} (h : s.MemOk) (gid q : Nat) (es : List DWord) : (restoreStack s gid q es).MemOk := by
  refine foldl_keeps State.MemOk _ (fun _ _ h => ?_) _ _ ?_
  · exact h
  · exact foldl_keeps (fun m : Memory => Store.wf (w := 8) m = true) _ (fun _ _ h => Store.wf_writeBytes h _ _) _ _ h

/-- R208. -/
theorem regionWrite_memOk {s : State} (h : s.MemOk) (pa : Nat) (bs : List Byte) : (regionWrite s pa bs).MemOk :=
  Store.wf_writeBytes h pa bs

theorem hostWrite_memOk {s : State} (h : s.MemOk) (a : Nat) (bs : List Byte) : (hostWrite s a bs).MemOk :=
  Store.wf_writeBytes h _ bs

theorem writeOffs_memOk {s : State} (h : s.MemOk) (p : Part) (d : Nat) (bs : List Byte) (n : Nat) :
    (writeOffs s p d bs n).MemOk := by
  induction n generalizing s d bs with
  | zero => cases bs <;> exact h
  | succ n ih =>
    cases bs with
    | nil => exact h
    | cons b bs =>
      apply ih
      split
      · exact homeWrite_memOk h _ _
      · exact h

theorem writeDev_memOk {s : State} (h : s.MemOk) (d : Nat) (bs : List Byte) (n : Nat) : (writeDev s d bs n).MemOk := by
  induction n generalizing s d bs with
  | zero => exact h
  | succ n ih => exact ih (homeWrite_memOk h _ _) _ _

/-- R367. -/
theorem zeroBytes_memOk {s : State} (h : s.MemOk) (owns : Nat → Bool) : (zeroBytes s owns).MemOk := Store.wf_filter h _

/-- Log 20. -/
theorem placeClause_memOk {s : State} (h : s.MemOk) (ws : List Word) : (placeClause s ws).MemOk :=
  Store.wf_writeBytes (Store.wf_writeBytes h _ _) _ _

/-- R368. -/
theorem ctxWrite_memOk {s : State} (h : s.MemOk) (ctx va : Nat) (bs : List Byte) : (ctxWrite s ctx va bs).MemOk := by
  unfold ctxWrite
  split
  · split
    · split
      · exact homeWrite_memOk h _ _
      · exact h
    · exact h
  · exact h

end Sys2Proof.Machine
end

