-- ==== Sys2Proof/Laws/PerInstr.lean ====
section
/-!
SUPPORT. Reading the operands back from an instruction's fields gives the instruction (R48 to R62), constructor by
constructor; an event has no fields.
-/
open Sys2Proof

set_option linter.unusedSimpArgs false
set_option linter.unusedVariables false

/-- What `build` reads from the fields of an instruction is that instruction. -/
def Sys2Proof.Laws.ReadsBack.Statement (i : Instr) : Prop := ∀ f, toFields i = some f → build f = some i

namespace Sys2Proof.Laws

theorem ofCode_code (t : Ty) : Ty.ofCode t.code = some t := by cases t <;> rfl
theorem rnd_ofCode_code (t : Rnd) : Rnd.ofCode t.code = some t := by cases t <;> rfl
theorem hint_ofCode_code (t : Hint) : Hint.ofCode t.code = some t := by cases t <;> rfl
theorem ord_ofW2_code (t : Ord) : Ord.ofW2 t.code = t := by cases t <;> rfl
theorem low_setWidth (n : Nat) (h : n ≤ 32) (x : BitVec n) : BitVec.extractLsb' 0 n (BitVec.setWidth 32 x) = x := by
  apply BitVec.eq_of_getLsbD_eq
  intro i hi
  simp [hi, Nat.lt_of_lt_of_le hi h]

theorem above_setWidth (k m n : Nat) (h : n ≤ k) (x : BitVec n) : BitVec.extractLsb' k m (BitVec.setWidth 32 x) = 0 := by
  apply BitVec.eq_of_getLsbD_eq
  intro i hi
  simp [BitVec.getLsbD_of_ge x (k + i) (by omega)]

theorem below_shift (k n : Nat) (h : n ≤ k) (x : BitVec 32) : BitVec.extractLsb' 0 n (x <<< k) = 0 := by
  apply BitVec.eq_of_getLsbD_eq
  intro i hi
  have : i < k := by omega
  simp [this]

theorem at_shift (k n : Nat) (h : k + n ≤ 32) (x : BitVec n) :
    BitVec.extractLsb' k n (BitVec.setWidth 32 x <<< k) = x := by
  apply BitVec.eq_of_getLsbD_eq
  intro i hi
  have a : k + i < 32 := by omega
  have b : i < 32 := by omega
  simp [hi, a, b]

theorem pcode_setWidth (p : PredCode) : pcode (p.setWidth 7) = p := by simp [pcode]

/-- An arm of `build` that the fields' OP and FN select, and what it gives. -/
theorem readsBack_of {i : Instr} {f : Fields} (h : toFields i = some f) (arm : Fields → Option Instr)
    (k : build f = arm f) (g : arm f = some i) : ReadsBack.Statement i := by
  intro f' h'
  rw [h] at h'
  cases h'
  rw [k, g]

end Sys2Proof.Laws

open Sys2Proof.Laws

theorem Sys2Proof.Laws.ReadsBack.nop (c : Ctl) : Sys2Proof.Laws.ReadsBack.Statement (.nop c) :=
  readsBack_of rfl (fun f => some (.nop f.ctl)) rfl rfl
theorem Sys2Proof.Laws.ReadsBack.yield (c : Ctl) : Sys2Proof.Laws.ReadsBack.Statement (.yield c) :=
  readsBack_of rfl (fun f => some (.yield f.ctl)) rfl rfl
theorem Sys2Proof.Laws.ReadsBack.trap (c : Ctl) (code : BitVec 8) : Sys2Proof.Laws.ReadsBack.Statement (.trap c code) :=
  readsBack_of rfl (fun f => some (.trap f.ctl (f.sub 0 8))) rfl (by simp [Fields.withCtl, Fields.withB, Fields.srcB, Fields.ctl, Fields.base, Fields.sub, Fields.bit, flag, ofCode_code, rnd_ofCode_code, hint_ofCode_code, ord_ofW2_code, pcode_setWidth, low_setWidth, above_setWidth, below_shift, at_shift, BitVec.extractLsb'_or])
theorem Sys2Proof.Laws.ReadsBack.brk (c : Ctl) : Sys2Proof.Laws.ReadsBack.Statement (.brk c) :=
  readsBack_of rfl (fun f => some (.brk f.ctl)) rfl rfl
theorem Sys2Proof.Laws.ReadsBack.ppoint (a : RegCode) : Sys2Proof.Laws.ReadsBack.Statement (.ppoint a) :=
  readsBack_of rfl (fun f => some (.ppoint f.a)) rfl rfl
theorem Sys2Proof.Laws.ReadsBack.exit (c : Ctl) : Sys2Proof.Laws.ReadsBack.Statement (.exit c) :=
  readsBack_of rfl (fun f => some (.exit f.ctl)) rfl rfl
theorem Sys2Proof.Laws.ReadsBack.bra (c : Ctl) (disp : BitVec 32) : Sys2Proof.Laws.ReadsBack.Statement (.bra c disp) :=
  readsBack_of rfl (fun f => some (.bra f.ctl f.w2)) rfl rfl
theorem Sys2Proof.Laws.ReadsBack.brx (c : Ctl) (a : RegCode) : Sys2Proof.Laws.ReadsBack.Statement (.brx c a) :=
  readsBack_of rfl (fun f => some (.brx f.ctl f.a)) rfl rfl
theorem Sys2Proof.Laws.ReadsBack.call (disp : BitVec 32) : Sys2Proof.Laws.ReadsBack.Statement (.call disp) :=
  readsBack_of rfl (fun f => some (.call f.w2)) rfl rfl
theorem Sys2Proof.Laws.ReadsBack.ret : Sys2Proof.Laws.ReadsBack.Statement (.ret) :=
  readsBack_of rfl (fun f => some .ret) rfl rfl
theorem Sys2Proof.Laws.ReadsBack.rtt : Sys2Proof.Laws.ReadsBack.Statement (.rtt) :=
  readsBack_of rfl (fun f => some .rtt) rfl rfl
theorem Sys2Proof.Laws.ReadsBack.mark (disp : BitVec 32) : Sys2Proof.Laws.ReadsBack.Statement (.mark disp) :=
  readsBack_of rfl (fun f => some (.mark f.w2)) rfl rfl
theorem Sys2Proof.Laws.ReadsBack.join : Sys2Proof.Laws.ReadsBack.Statement (.join) :=
  readsBack_of rfl (fun f => some .join) rfl rfl
theorem Sys2Proof.Laws.ReadsBack.regang : Sys2Proof.Laws.ReadsBack.Statement (.regang) :=
  readsBack_of rfl (fun f => some .regang) rfl rfl
theorem Sys2Proof.Laws.ReadsBack.lnch (c : Ctl) (d a : RegCode) (disp : BitVec 32) : Sys2Proof.Laws.ReadsBack.Statement (.lnch c d a disp) :=
  readsBack_of rfl (fun f => some (.lnch f.ctl f.d f.a f.w2)) rfl rfl
theorem Sys2Proof.Laws.ReadsBack.qswz (c : Ctl) (ty : Ty) (d a : RegCode) (pat : BitVec 8) : Sys2Proof.Laws.ReadsBack.Statement (.qswz c ty d a pat) :=
  readsBack_of rfl (fun f => (Ty.ofCode f.ty).bind fun ty => some (.qswz f.ctl ty f.d f.a (f.sub 0 8))) rfl (by simp [Fields.withCtl, Fields.withB, Fields.srcB, Fields.ctl, Fields.base, Fields.sub, Fields.bit, flag, ofCode_code, rnd_ofCode_code, hint_ofCode_code, ord_ofW2_code, pcode_setWidth, low_setWidth, above_setWidth, below_shift, at_shift, BitVec.extractLsb'_or])
theorem Sys2Proof.Laws.ReadsBack.qbc (c : Ctl) (ty : Ty) (d a : RegCode) (src : BitVec 2) : Sys2Proof.Laws.ReadsBack.Statement (.qbc c ty d a src) :=
  readsBack_of rfl (fun f => (Ty.ofCode f.ty).bind fun ty => some (.qbc f.ctl ty f.d f.a (f.sub 0 2))) rfl (by simp [Fields.withCtl, Fields.withB, Fields.srcB, Fields.ctl, Fields.base, Fields.sub, Fields.bit, flag, ofCode_code, rnd_ofCode_code, hint_ofCode_code, ord_ofW2_code, pcode_setWidth, low_setWidth, above_setWidth, below_shift, at_shift, BitVec.extractLsb'_or])
theorem Sys2Proof.Laws.ReadsBack.shflIdx (c : Ctl) (ty : Ty) (d a : RegCode) (b : SrcB) : Sys2Proof.Laws.ReadsBack.Statement (.shflIdx c ty d a b) :=
  by
  cases b <;> exact readsBack_of rfl (fun f => (Ty.ofCode f.ty).bind fun ty => some (.shflIdx f.ctl ty f.d f.a f.srcB)) rfl (by simp [Fields.withCtl, Fields.withB, Fields.srcB, Fields.ctl, Fields.base, Fields.sub, Fields.bit, flag, ofCode_code, rnd_ofCode_code, hint_ofCode_code, ord_ofW2_code, pcode_setWidth, low_setWidth, above_setWidth, below_shift, at_shift, BitVec.extractLsb'_or])
theorem Sys2Proof.Laws.ReadsBack.shflUp (c : Ctl) (ty : Ty) (d a : RegCode) (b : SrcB) : Sys2Proof.Laws.ReadsBack.Statement (.shflUp c ty d a b) :=
  by
  cases b <;> exact readsBack_of rfl (fun f => (Ty.ofCode f.ty).bind fun ty => some (.shflUp f.ctl ty f.d f.a f.srcB)) rfl (by simp [Fields.withCtl, Fields.withB, Fields.srcB, Fields.ctl, Fields.base, Fields.sub, Fields.bit, flag, ofCode_code, rnd_ofCode_code, hint_ofCode_code, ord_ofW2_code, pcode_setWidth, low_setWidth, above_setWidth, below_shift, at_shift, BitVec.extractLsb'_or])
theorem Sys2Proof.Laws.ReadsBack.shflDown (c : Ctl) (ty : Ty) (d a : RegCode) (b : SrcB) : Sys2Proof.Laws.ReadsBack.Statement (.shflDown c ty d a b) :=
  by
  cases b <;> exact readsBack_of rfl (fun f => (Ty.ofCode f.ty).bind fun ty => some (.shflDown f.ctl ty f.d f.a f.srcB)) rfl (by simp [Fields.withCtl, Fields.withB, Fields.srcB, Fields.ctl, Fields.base, Fields.sub, Fields.bit, flag, ofCode_code, rnd_ofCode_code, hint_ofCode_code, ord_ofW2_code, pcode_setWidth, low_setWidth, above_setWidth, below_shift, at_shift, BitVec.extractLsb'_or])
theorem Sys2Proof.Laws.ReadsBack.shflXor (c : Ctl) (ty : Ty) (d a : RegCode) (b : SrcB) : Sys2Proof.Laws.ReadsBack.Statement (.shflXor c ty d a b) :=
  by
  cases b <;> exact readsBack_of rfl (fun f => (Ty.ofCode f.ty).bind fun ty => some (.shflXor f.ctl ty f.d f.a f.srcB)) rfl (by simp [Fields.withCtl, Fields.withB, Fields.srcB, Fields.ctl, Fields.base, Fields.sub, Fields.bit, flag, ofCode_code, rnd_ofCode_code, hint_ofCode_code, ord_ofW2_code, pcode_setWidth, low_setWidth, above_setWidth, below_shift, at_shift, BitVec.extractLsb'_or])
theorem Sys2Proof.Laws.ReadsBack.ballot (c : Ctl) (ty : Ty) (d : RegCode) (p : PredCode) : Sys2Proof.Laws.ReadsBack.Statement (.ballot c ty d p) :=
  readsBack_of rfl (fun f => (Ty.ofCode f.ty).bind fun ty => some (.ballot f.ctl ty f.d (pcode f.a))) rfl (by simp [Fields.withCtl, Fields.withB, Fields.srcB, Fields.ctl, Fields.base, Fields.sub, Fields.bit, flag, ofCode_code, rnd_ofCode_code, hint_ofCode_code, ord_ofW2_code, pcode_setWidth, low_setWidth, above_setWidth, below_shift, at_shift, BitVec.extractLsb'_or])
theorem Sys2Proof.Laws.ReadsBack.voteAll (c : Ctl) (pd p : PredCode) : Sys2Proof.Laws.ReadsBack.Statement (.voteAll c pd p) :=
  readsBack_of rfl (fun f => some (.voteAll f.ctl f.pd (pcode f.a))) rfl (by simp [Fields.withCtl, Fields.withB, Fields.srcB, Fields.ctl, Fields.base, Fields.sub, Fields.bit, flag, ofCode_code, rnd_ofCode_code, hint_ofCode_code, ord_ofW2_code, pcode_setWidth, low_setWidth, above_setWidth, below_shift, at_shift, BitVec.extractLsb'_or])
theorem Sys2Proof.Laws.ReadsBack.voteAny (c : Ctl) (pd p : PredCode) : Sys2Proof.Laws.ReadsBack.Statement (.voteAny c pd p) :=
  readsBack_of rfl (fun f => some (.voteAny f.ctl f.pd (pcode f.a))) rfl (by simp [Fields.withCtl, Fields.withB, Fields.srcB, Fields.ctl, Fields.base, Fields.sub, Fields.bit, flag, ofCode_code, rnd_ofCode_code, hint_ofCode_code, ord_ofW2_code, pcode_setWidth, low_setWidth, above_setWidth, below_shift, at_shift, BitVec.extractLsb'_or])
theorem Sys2Proof.Laws.ReadsBack.voteUni (c : Ctl) (pd p : PredCode) : Sys2Proof.Laws.ReadsBack.Statement (.voteUni c pd p) :=
  readsBack_of rfl (fun f => some (.voteUni f.ctl f.pd (pcode f.a))) rfl (by simp [Fields.withCtl, Fields.withB, Fields.srcB, Fields.ctl, Fields.base, Fields.sub, Fields.bit, flag, ofCode_code, rnd_ofCode_code, hint_ofCode_code, ord_ofW2_code, pcode_setWidth, low_setWidth, above_setWidth, below_shift, at_shift, BitVec.extractLsb'_or])
theorem Sys2Proof.Laws.ReadsBack.matchAny (c : Ctl) (ty : Ty) (d a : RegCode) : Sys2Proof.Laws.ReadsBack.Statement (.matchAny c ty d a) :=
  readsBack_of rfl (fun f => (Ty.ofCode f.ty).bind fun ty => some (.matchAny f.ctl ty f.d f.a)) rfl (by simp [Fields.withCtl, Fields.withB, Fields.srcB, Fields.ctl, Fields.base, Fields.sub, Fields.bit, flag, ofCode_code, rnd_ofCode_code, hint_ofCode_code, ord_ofW2_code, pcode_setWidth, low_setWidth, above_setWidth, below_shift, at_shift, BitVec.extractLsb'_or])
theorem Sys2Proof.Laws.ReadsBack.elect (c : Ctl) (pd : PredCode) : Sys2Proof.Laws.ReadsBack.Statement (.elect c pd) :=
  readsBack_of rfl (fun f => some (.elect f.ctl f.pd)) rfl (by simp [Fields.withCtl, Fields.withB, Fields.srcB, Fields.ctl, Fields.base, Fields.sub, Fields.bit, flag, ofCode_code, rnd_ofCode_code, hint_ofCode_code, ord_ofW2_code, pcode_setWidth, low_setWidth, above_setWidth, below_shift, at_shift, BitVec.extractLsb'_or])
theorem Sys2Proof.Laws.ReadsBack.reduxAdd (c : Ctl) (ty : Ty) (d a : RegCode) : Sys2Proof.Laws.ReadsBack.Statement (.reduxAdd c ty d a) :=
  readsBack_of rfl (fun f => (Ty.ofCode f.ty).bind fun ty => some (.reduxAdd f.ctl ty f.d f.a)) rfl (by simp [Fields.withCtl, Fields.withB, Fields.srcB, Fields.ctl, Fields.base, Fields.sub, Fields.bit, flag, ofCode_code, rnd_ofCode_code, hint_ofCode_code, ord_ofW2_code, pcode_setWidth, low_setWidth, above_setWidth, below_shift, at_shift, BitVec.extractLsb'_or])
theorem Sys2Proof.Laws.ReadsBack.reduxMin (c : Ctl) (ty : Ty) (d a : RegCode) : Sys2Proof.Laws.ReadsBack.Statement (.reduxMin c ty d a) :=
  readsBack_of rfl (fun f => (Ty.ofCode f.ty).bind fun ty => some (.reduxMin f.ctl ty f.d f.a)) rfl (by simp [Fields.withCtl, Fields.withB, Fields.srcB, Fields.ctl, Fields.base, Fields.sub, Fields.bit, flag, ofCode_code, rnd_ofCode_code, hint_ofCode_code, ord_ofW2_code, pcode_setWidth, low_setWidth, above_setWidth, below_shift, at_shift, BitVec.extractLsb'_or])
theorem Sys2Proof.Laws.ReadsBack.reduxMax (c : Ctl) (ty : Ty) (d a : RegCode) : Sys2Proof.Laws.ReadsBack.Statement (.reduxMax c ty d a) :=
  readsBack_of rfl (fun f => (Ty.ofCode f.ty).bind fun ty => some (.reduxMax f.ctl ty f.d f.a)) rfl (by simp [Fields.withCtl, Fields.withB, Fields.srcB, Fields.ctl, Fields.base, Fields.sub, Fields.bit, flag, ofCode_code, rnd_ofCode_code, hint_ofCode_code, ord_ofW2_code, pcode_setWidth, low_setWidth, above_setWidth, below_shift, at_shift, BitVec.extractLsb'_or])
theorem Sys2Proof.Laws.ReadsBack.reduxAnd (c : Ctl) (ty : Ty) (d a : RegCode) : Sys2Proof.Laws.ReadsBack.Statement (.reduxAnd c ty d a) :=
  readsBack_of rfl (fun f => (Ty.ofCode f.ty).bind fun ty => some (.reduxAnd f.ctl ty f.d f.a)) rfl (by simp [Fields.withCtl, Fields.withB, Fields.srcB, Fields.ctl, Fields.base, Fields.sub, Fields.bit, flag, ofCode_code, rnd_ofCode_code, hint_ofCode_code, ord_ofW2_code, pcode_setWidth, low_setWidth, above_setWidth, below_shift, at_shift, BitVec.extractLsb'_or])
theorem Sys2Proof.Laws.ReadsBack.reduxOr (c : Ctl) (ty : Ty) (d a : RegCode) : Sys2Proof.Laws.ReadsBack.Statement (.reduxOr c ty d a) :=
  readsBack_of rfl (fun f => (Ty.ofCode f.ty).bind fun ty => some (.reduxOr f.ctl ty f.d f.a)) rfl (by simp [Fields.withCtl, Fields.withB, Fields.srcB, Fields.ctl, Fields.base, Fields.sub, Fields.bit, flag, ofCode_code, rnd_ofCode_code, hint_ofCode_code, ord_ofW2_code, pcode_setWidth, low_setWidth, above_setWidth, below_shift, at_shift, BitVec.extractLsb'_or])
theorem Sys2Proof.Laws.ReadsBack.reduxXor (c : Ctl) (ty : Ty) (d a : RegCode) : Sys2Proof.Laws.ReadsBack.Statement (.reduxXor c ty d a) :=
  readsBack_of rfl (fun f => (Ty.ofCode f.ty).bind fun ty => some (.reduxXor f.ctl ty f.d f.a)) rfl (by simp [Fields.withCtl, Fields.withB, Fields.srcB, Fields.ctl, Fields.base, Fields.sub, Fields.bit, flag, ofCode_code, rnd_ofCode_code, hint_ofCode_code, ord_ofW2_code, pcode_setWidth, low_setWidth, above_setWidth, below_shift, at_shift, BitVec.extractLsb'_or])
theorem Sys2Proof.Laws.ReadsBack.scanAdd (c : Ctl) (ty : Ty) (exc : Bool) (d a : RegCode) : Sys2Proof.Laws.ReadsBack.Statement (.scanAdd c ty exc d a) :=
  by
  cases exc <;> exact readsBack_of rfl (fun f => (Ty.ofCode f.ty).bind fun ty => some (.scanAdd f.ctl ty (f.bit 0) f.d f.a)) rfl (by simp [Fields.withCtl, Fields.withB, Fields.srcB, Fields.ctl, Fields.base, Fields.sub, Fields.bit, flag, ofCode_code, rnd_ofCode_code, hint_ofCode_code, ord_ofW2_code, pcode_setWidth, low_setWidth, above_setWidth, below_shift, at_shift, BitVec.extractLsb'_or])
theorem Sys2Proof.Laws.ReadsBack.scanMin (c : Ctl) (ty : Ty) (exc : Bool) (d a : RegCode) : Sys2Proof.Laws.ReadsBack.Statement (.scanMin c ty exc d a) :=
  by
  cases exc <;> exact readsBack_of rfl (fun f => (Ty.ofCode f.ty).bind fun ty => some (.scanMin f.ctl ty (f.bit 0) f.d f.a)) rfl (by simp [Fields.withCtl, Fields.withB, Fields.srcB, Fields.ctl, Fields.base, Fields.sub, Fields.bit, flag, ofCode_code, rnd_ofCode_code, hint_ofCode_code, ord_ofW2_code, pcode_setWidth, low_setWidth, above_setWidth, below_shift, at_shift, BitVec.extractLsb'_or])
theorem Sys2Proof.Laws.ReadsBack.scanMax (c : Ctl) (ty : Ty) (exc : Bool) (d a : RegCode) : Sys2Proof.Laws.ReadsBack.Statement (.scanMax c ty exc d a) :=
  by
  cases exc <;> exact readsBack_of rfl (fun f => (Ty.ofCode f.ty).bind fun ty => some (.scanMax f.ctl ty (f.bit 0) f.d f.a)) rfl (by simp [Fields.withCtl, Fields.withB, Fields.srcB, Fields.ctl, Fields.base, Fields.sub, Fields.bit, flag, ofCode_code, rnd_ofCode_code, hint_ofCode_code, ord_ofW2_code, pcode_setWidth, low_setWidth, above_setWidth, below_shift, at_shift, BitVec.extractLsb'_or])
theorem Sys2Proof.Laws.ReadsBack.scanAnd (c : Ctl) (ty : Ty) (exc : Bool) (d a : RegCode) : Sys2Proof.Laws.ReadsBack.Statement (.scanAnd c ty exc d a) :=
  by
  cases exc <;> exact readsBack_of rfl (fun f => (Ty.ofCode f.ty).bind fun ty => some (.scanAnd f.ctl ty (f.bit 0) f.d f.a)) rfl (by simp [Fields.withCtl, Fields.withB, Fields.srcB, Fields.ctl, Fields.base, Fields.sub, Fields.bit, flag, ofCode_code, rnd_ofCode_code, hint_ofCode_code, ord_ofW2_code, pcode_setWidth, low_setWidth, above_setWidth, below_shift, at_shift, BitVec.extractLsb'_or])
theorem Sys2Proof.Laws.ReadsBack.scanOr (c : Ctl) (ty : Ty) (exc : Bool) (d a : RegCode) : Sys2Proof.Laws.ReadsBack.Statement (.scanOr c ty exc d a) :=
  by
  cases exc <;> exact readsBack_of rfl (fun f => (Ty.ofCode f.ty).bind fun ty => some (.scanOr f.ctl ty (f.bit 0) f.d f.a)) rfl (by simp [Fields.withCtl, Fields.withB, Fields.srcB, Fields.ctl, Fields.base, Fields.sub, Fields.bit, flag, ofCode_code, rnd_ofCode_code, hint_ofCode_code, ord_ofW2_code, pcode_setWidth, low_setWidth, above_setWidth, below_shift, at_shift, BitVec.extractLsb'_or])
theorem Sys2Proof.Laws.ReadsBack.scanXor (c : Ctl) (ty : Ty) (exc : Bool) (d a : RegCode) : Sys2Proof.Laws.ReadsBack.Statement (.scanXor c ty exc d a) :=
  by
  cases exc <;> exact readsBack_of rfl (fun f => (Ty.ofCode f.ty).bind fun ty => some (.scanXor f.ctl ty (f.bit 0) f.d f.a)) rfl (by simp [Fields.withCtl, Fields.withB, Fields.srcB, Fields.ctl, Fields.base, Fields.sub, Fields.bit, flag, ofCode_code, rnd_ofCode_code, hint_ofCode_code, ord_ofW2_code, pcode_setWidth, low_setWidth, above_setWidth, below_shift, at_shift, BitVec.extractLsb'_or])
theorem Sys2Proof.Laws.ReadsBack.iadd (c : Ctl) (ty : Ty) (sat : Bool) (d a : RegCode) (b : SrcB) : Sys2Proof.Laws.ReadsBack.Statement (.iadd c ty sat d a b) :=
  by
  cases b <;> exact readsBack_of rfl (fun f => (Ty.ofCode f.ty).bind fun ty => some (.iadd f.ctl ty f.sat f.d f.a f.srcB)) rfl (by simp [Fields.withCtl, Fields.withB, Fields.srcB, Fields.ctl, Fields.base, Fields.sub, Fields.bit, flag, ofCode_code, rnd_ofCode_code, hint_ofCode_code, ord_ofW2_code, pcode_setWidth, low_setWidth, above_setWidth, below_shift, at_shift, BitVec.extractLsb'_or])
theorem Sys2Proof.Laws.ReadsBack.isub (c : Ctl) (ty : Ty) (sat : Bool) (d a : RegCode) (b : SrcB) : Sys2Proof.Laws.ReadsBack.Statement (.isub c ty sat d a b) :=
  by
  cases b <;> exact readsBack_of rfl (fun f => (Ty.ofCode f.ty).bind fun ty => some (.isub f.ctl ty f.sat f.d f.a f.srcB)) rfl (by simp [Fields.withCtl, Fields.withB, Fields.srcB, Fields.ctl, Fields.base, Fields.sub, Fields.bit, flag, ofCode_code, rnd_ofCode_code, hint_ofCode_code, ord_ofW2_code, pcode_setWidth, low_setWidth, above_setWidth, below_shift, at_shift, BitVec.extractLsb'_or])
theorem Sys2Proof.Laws.ReadsBack.imul (c : Ctl) (ty : Ty) (sat : Bool) (d a : RegCode) (b : SrcB) : Sys2Proof.Laws.ReadsBack.Statement (.imul c ty sat d a b) :=
  by
  cases b <;> exact readsBack_of rfl (fun f => (Ty.ofCode f.ty).bind fun ty => some (.imul f.ctl ty f.sat f.d f.a f.srcB)) rfl (by simp [Fields.withCtl, Fields.withB, Fields.srcB, Fields.ctl, Fields.base, Fields.sub, Fields.bit, flag, ofCode_code, rnd_ofCode_code, hint_ofCode_code, ord_ofW2_code, pcode_setWidth, low_setWidth, above_setWidth, below_shift, at_shift, BitVec.extractLsb'_or])
theorem Sys2Proof.Laws.ReadsBack.iaddc (c : Ctl) (ty : Ty) (d : RegCode) (pd : PredCode) (a : RegCode) (b : SrcB) (p : PredCode) : Sys2Proof.Laws.ReadsBack.Statement (.iaddc c ty d pd a b p) :=
  by
  cases b <;> exact readsBack_of rfl (fun f => (Ty.ofCode f.ty).bind fun ty => some (.iaddc f.ctl ty f.d f.pd f.a f.srcB (pcode f.c))) rfl (by simp [Fields.withCtl, Fields.withB, Fields.srcB, Fields.ctl, Fields.base, Fields.sub, Fields.bit, flag, ofCode_code, rnd_ofCode_code, hint_ofCode_code, ord_ofW2_code, pcode_setWidth, low_setWidth, above_setWidth, below_shift, at_shift, BitVec.extractLsb'_or])
theorem Sys2Proof.Laws.ReadsBack.imulh (c : Ctl) (ty : Ty) (d a : RegCode) (b : SrcB) : Sys2Proof.Laws.ReadsBack.Statement (.imulh c ty d a b) :=
  by
  cases b <;> exact readsBack_of rfl (fun f => (Ty.ofCode f.ty).bind fun ty => some (.imulh f.ctl ty f.d f.a f.srcB)) rfl (by simp [Fields.withCtl, Fields.withB, Fields.srcB, Fields.ctl, Fields.base, Fields.sub, Fields.bit, flag, ofCode_code, rnd_ofCode_code, hint_ofCode_code, ord_ofW2_code, pcode_setWidth, low_setWidth, above_setWidth, below_shift, at_shift, BitVec.extractLsb'_or])
theorem Sys2Proof.Laws.ReadsBack.imad (c : Ctl) (ty : Ty) (sat : Bool) (d a : RegCode) (b : SrcB) (k : RegCode) : Sys2Proof.Laws.ReadsBack.Statement (.imad c ty sat d a b k) :=
  by
  cases b <;> exact readsBack_of rfl (fun f => (Ty.ofCode f.ty).bind fun ty => some (.imad f.ctl ty f.sat f.d f.a f.srcB f.c)) rfl (by simp [Fields.withCtl, Fields.withB, Fields.srcB, Fields.ctl, Fields.base, Fields.sub, Fields.bit, flag, ofCode_code, rnd_ofCode_code, hint_ofCode_code, ord_ofW2_code, pcode_setWidth, low_setWidth, above_setWidth, below_shift, at_shift, BitVec.extractLsb'_or])
theorem Sys2Proof.Laws.ReadsBack.imin (c : Ctl) (ty : Ty) (d a : RegCode) (b : SrcB) : Sys2Proof.Laws.ReadsBack.Statement (.imin c ty d a b) :=
  by
  cases b <;> exact readsBack_of rfl (fun f => (Ty.ofCode f.ty).bind fun ty => some (.imin f.ctl ty f.d f.a f.srcB)) rfl (by simp [Fields.withCtl, Fields.withB, Fields.srcB, Fields.ctl, Fields.base, Fields.sub, Fields.bit, flag, ofCode_code, rnd_ofCode_code, hint_ofCode_code, ord_ofW2_code, pcode_setWidth, low_setWidth, above_setWidth, below_shift, at_shift, BitVec.extractLsb'_or])
theorem Sys2Proof.Laws.ReadsBack.imax (c : Ctl) (ty : Ty) (d a : RegCode) (b : SrcB) : Sys2Proof.Laws.ReadsBack.Statement (.imax c ty d a b) :=
  by
  cases b <;> exact readsBack_of rfl (fun f => (Ty.ofCode f.ty).bind fun ty => some (.imax f.ctl ty f.d f.a f.srcB)) rfl (by simp [Fields.withCtl, Fields.withB, Fields.srcB, Fields.ctl, Fields.base, Fields.sub, Fields.bit, flag, ofCode_code, rnd_ofCode_code, hint_ofCode_code, ord_ofW2_code, pcode_setWidth, low_setWidth, above_setWidth, below_shift, at_shift, BitVec.extractLsb'_or])
theorem Sys2Proof.Laws.ReadsBack.iabs (c : Ctl) (ty : Ty) (sat : Bool) (d a : RegCode) : Sys2Proof.Laws.ReadsBack.Statement (.iabs c ty sat d a) :=
  readsBack_of rfl (fun f => (Ty.ofCode f.ty).bind fun ty => some (.iabs f.ctl ty f.sat f.d f.a)) rfl (by simp [Fields.withCtl, Fields.withB, Fields.srcB, Fields.ctl, Fields.base, Fields.sub, Fields.bit, flag, ofCode_code, rnd_ofCode_code, hint_ofCode_code, ord_ofW2_code, pcode_setWidth, low_setWidth, above_setWidth, below_shift, at_shift, BitVec.extractLsb'_or])
theorem Sys2Proof.Laws.ReadsBack.and (c : Ctl) (ty : Ty) (d a : RegCode) (b : SrcB) : Sys2Proof.Laws.ReadsBack.Statement (.and c ty d a b) :=
  by
  cases b <;> exact readsBack_of rfl (fun f => (Ty.ofCode f.ty).bind fun ty => some (.and f.ctl ty f.d f.a f.srcB)) rfl (by simp [Fields.withCtl, Fields.withB, Fields.srcB, Fields.ctl, Fields.base, Fields.sub, Fields.bit, flag, ofCode_code, rnd_ofCode_code, hint_ofCode_code, ord_ofW2_code, pcode_setWidth, low_setWidth, above_setWidth, below_shift, at_shift, BitVec.extractLsb'_or])
theorem Sys2Proof.Laws.ReadsBack.or (c : Ctl) (ty : Ty) (d a : RegCode) (b : SrcB) : Sys2Proof.Laws.ReadsBack.Statement (.or c ty d a b) :=
  by
  cases b <;> exact readsBack_of rfl (fun f => (Ty.ofCode f.ty).bind fun ty => some (.or f.ctl ty f.d f.a f.srcB)) rfl (by simp [Fields.withCtl, Fields.withB, Fields.srcB, Fields.ctl, Fields.base, Fields.sub, Fields.bit, flag, ofCode_code, rnd_ofCode_code, hint_ofCode_code, ord_ofW2_code, pcode_setWidth, low_setWidth, above_setWidth, below_shift, at_shift, BitVec.extractLsb'_or])
theorem Sys2Proof.Laws.ReadsBack.xor (c : Ctl) (ty : Ty) (d a : RegCode) (b : SrcB) : Sys2Proof.Laws.ReadsBack.Statement (.xor c ty d a b) :=
  by
  cases b <;> exact readsBack_of rfl (fun f => (Ty.ofCode f.ty).bind fun ty => some (.xor f.ctl ty f.d f.a f.srcB)) rfl (by simp [Fields.withCtl, Fields.withB, Fields.srcB, Fields.ctl, Fields.base, Fields.sub, Fields.bit, flag, ofCode_code, rnd_ofCode_code, hint_ofCode_code, ord_ofW2_code, pcode_setWidth, low_setWidth, above_setWidth, below_shift, at_shift, BitVec.extractLsb'_or])
theorem Sys2Proof.Laws.ReadsBack.not (c : Ctl) (ty : Ty) (d a : RegCode) : Sys2Proof.Laws.ReadsBack.Statement (.not c ty d a) :=
  readsBack_of rfl (fun f => (Ty.ofCode f.ty).bind fun ty => some (.not f.ctl ty f.d f.a)) rfl (by simp [Fields.withCtl, Fields.withB, Fields.srcB, Fields.ctl, Fields.base, Fields.sub, Fields.bit, flag, ofCode_code, rnd_ofCode_code, hint_ofCode_code, ord_ofW2_code, pcode_setWidth, low_setWidth, above_setWidth, below_shift, at_shift, BitVec.extractLsb'_or])
theorem Sys2Proof.Laws.ReadsBack.shl (c : Ctl) (ty : Ty) (d a : RegCode) (b : SrcB) : Sys2Proof.Laws.ReadsBack.Statement (.shl c ty d a b) :=
  by
  cases b <;> exact readsBack_of rfl (fun f => (Ty.ofCode f.ty).bind fun ty => some (.shl f.ctl ty f.d f.a f.srcB)) rfl (by simp [Fields.withCtl, Fields.withB, Fields.srcB, Fields.ctl, Fields.base, Fields.sub, Fields.bit, flag, ofCode_code, rnd_ofCode_code, hint_ofCode_code, ord_ofW2_code, pcode_setWidth, low_setWidth, above_setWidth, below_shift, at_shift, BitVec.extractLsb'_or])
theorem Sys2Proof.Laws.ReadsBack.shr (c : Ctl) (ty : Ty) (d a : RegCode) (b : SrcB) : Sys2Proof.Laws.ReadsBack.Statement (.shr c ty d a b) :=
  by
  cases b <;> exact readsBack_of rfl (fun f => (Ty.ofCode f.ty).bind fun ty => some (.shr f.ctl ty f.d f.a f.srcB)) rfl (by simp [Fields.withCtl, Fields.withB, Fields.srcB, Fields.ctl, Fields.base, Fields.sub, Fields.bit, flag, ofCode_code, rnd_ofCode_code, hint_ofCode_code, ord_ofW2_code, pcode_setWidth, low_setWidth, above_setWidth, below_shift, at_shift, BitVec.extractLsb'_or])
theorem Sys2Proof.Laws.ReadsBack.sar (c : Ctl) (ty : Ty) (d a : RegCode) (b : SrcB) : Sys2Proof.Laws.ReadsBack.Statement (.sar c ty d a b) :=
  by
  cases b <;> exact readsBack_of rfl (fun f => (Ty.ofCode f.ty).bind fun ty => some (.sar f.ctl ty f.d f.a f.srcB)) rfl (by simp [Fields.withCtl, Fields.withB, Fields.srcB, Fields.ctl, Fields.base, Fields.sub, Fields.bit, flag, ofCode_code, rnd_ofCode_code, hint_ofCode_code, ord_ofW2_code, pcode_setWidth, low_setWidth, above_setWidth, below_shift, at_shift, BitVec.extractLsb'_or])
theorem Sys2Proof.Laws.ReadsBack.fshf (c : Ctl) (d a : RegCode) (b : SrcB) (k : RegCode) : Sys2Proof.Laws.ReadsBack.Statement (.fshf c d a b k) :=
  by
  cases b <;> exact readsBack_of rfl (fun f => some (.fshf f.ctl f.d f.a f.srcB f.c)) rfl (by simp [Fields.withCtl, Fields.withB, Fields.srcB, Fields.ctl, Fields.base, Fields.sub, Fields.bit, flag, ofCode_code, rnd_ofCode_code, hint_ofCode_code, ord_ofW2_code, pcode_setWidth, low_setWidth, above_setWidth, below_shift, at_shift, BitVec.extractLsb'_or])
theorem Sys2Proof.Laws.ReadsBack.popc (c : Ctl) (ty : Ty) (d a : RegCode) : Sys2Proof.Laws.ReadsBack.Statement (.popc c ty d a) :=
  readsBack_of rfl (fun f => (Ty.ofCode f.ty).bind fun ty => some (.popc f.ctl ty f.d f.a)) rfl (by simp [Fields.withCtl, Fields.withB, Fields.srcB, Fields.ctl, Fields.base, Fields.sub, Fields.bit, flag, ofCode_code, rnd_ofCode_code, hint_ofCode_code, ord_ofW2_code, pcode_setWidth, low_setWidth, above_setWidth, below_shift, at_shift, BitVec.extractLsb'_or])
theorem Sys2Proof.Laws.ReadsBack.clz (c : Ctl) (ty : Ty) (d a : RegCode) : Sys2Proof.Laws.ReadsBack.Statement (.clz c ty d a) :=
  readsBack_of rfl (fun f => (Ty.ofCode f.ty).bind fun ty => some (.clz f.ctl ty f.d f.a)) rfl (by simp [Fields.withCtl, Fields.withB, Fields.srcB, Fields.ctl, Fields.base, Fields.sub, Fields.bit, flag, ofCode_code, rnd_ofCode_code, hint_ofCode_code, ord_ofW2_code, pcode_setWidth, low_setWidth, above_setWidth, below_shift, at_shift, BitVec.extractLsb'_or])
theorem Sys2Proof.Laws.ReadsBack.brev (c : Ctl) (ty : Ty) (d a : RegCode) : Sys2Proof.Laws.ReadsBack.Statement (.brev c ty d a) :=
  readsBack_of rfl (fun f => (Ty.ofCode f.ty).bind fun ty => some (.brev f.ctl ty f.d f.a)) rfl (by simp [Fields.withCtl, Fields.withB, Fields.srcB, Fields.ctl, Fields.base, Fields.sub, Fields.bit, flag, ofCode_code, rnd_ofCode_code, hint_ofCode_code, ord_ofW2_code, pcode_setWidth, low_setWidth, above_setWidth, below_shift, at_shift, BitVec.extractLsb'_or])
theorem Sys2Proof.Laws.ReadsBack.bfe (c : Ctl) (ty : Ty) (d a : RegCode) (pos : BitVec 6) (len : BitVec 7) : Sys2Proof.Laws.ReadsBack.Statement (.bfe c ty d a pos len) :=
  readsBack_of rfl (fun f => (Ty.ofCode f.ty).bind fun ty => some (.bfe f.ctl ty f.d f.a (f.sub 0 6) (f.sub 8 7))) rfl (by simp [Fields.withCtl, Fields.withB, Fields.srcB, Fields.ctl, Fields.base, Fields.sub, Fields.bit, flag, ofCode_code, rnd_ofCode_code, hint_ofCode_code, ord_ofW2_code, pcode_setWidth, low_setWidth, above_setWidth, below_shift, at_shift, BitVec.extractLsb'_or])
theorem Sys2Proof.Laws.ReadsBack.bfi (c : Ctl) (ty : Ty) (d a : RegCode) (b : SrcB) (pos : BitVec 6) (len : BitVec 7) : Sys2Proof.Laws.ReadsBack.Statement (.bfi c ty d a b pos len) :=
  by
  cases b <;> exact readsBack_of rfl (fun f => (Ty.ofCode f.ty).bind fun ty => some (.bfi f.ctl ty f.d f.a f.srcB (f.sub 0 6) (f.sub 8 7))) rfl (by simp [Fields.withCtl, Fields.withB, Fields.srcB, Fields.ctl, Fields.base, Fields.sub, Fields.bit, flag, ofCode_code, rnd_ofCode_code, hint_ofCode_code, ord_ofW2_code, pcode_setWidth, low_setWidth, above_setWidth, below_shift, at_shift, BitVec.extractLsb'_or])
theorem Sys2Proof.Laws.ReadsBack.lea (c : Ctl) (d a : RegCode) (b : SrcB) (sh : BitVec 5) : Sys2Proof.Laws.ReadsBack.Statement (.lea c d a b sh) :=
  by
  cases b <;> exact readsBack_of rfl (fun f => some (.lea f.ctl f.d f.a f.srcB (f.sub 0 5))) rfl (by simp [Fields.withCtl, Fields.withB, Fields.srcB, Fields.ctl, Fields.base, Fields.sub, Fields.bit, flag, ofCode_code, rnd_ofCode_code, hint_ofCode_code, ord_ofW2_code, pcode_setWidth, low_setWidth, above_setWidth, below_shift, at_shift, BitVec.extractLsb'_or])
theorem Sys2Proof.Laws.ReadsBack.mov (c : Ctl) (ty : Ty) (d a : RegCode) : Sys2Proof.Laws.ReadsBack.Statement (.mov c ty d a) :=
  readsBack_of rfl (fun f => (Ty.ofCode f.ty).bind fun ty => some (.mov f.ctl ty f.d f.a)) rfl (by simp [Fields.withCtl, Fields.withB, Fields.srcB, Fields.ctl, Fields.base, Fields.sub, Fields.bit, flag, ofCode_code, rnd_ofCode_code, hint_ofCode_code, ord_ofW2_code, pcode_setWidth, low_setWidth, above_setWidth, below_shift, at_shift, BitVec.extractLsb'_or])
theorem Sys2Proof.Laws.ReadsBack.movi (c : Ctl) (d : RegCode) (imm : BitVec 32) : Sys2Proof.Laws.ReadsBack.Statement (.movi c d imm) :=
  readsBack_of rfl (fun f => some (.movi f.ctl f.d f.w2)) rfl (by simp [Fields.withCtl, Fields.withB, Fields.srcB, Fields.ctl, Fields.base, Fields.sub, Fields.bit, flag, ofCode_code, rnd_ofCode_code, hint_ofCode_code, ord_ofW2_code, pcode_setWidth, low_setWidth, above_setWidth, below_shift, at_shift, BitVec.extractLsb'_or])
theorem Sys2Proof.Laws.ReadsBack.sprRead (c : Ctl) (ty : Ty) (d : RegCode) (sel : BitVec 7) : Sys2Proof.Laws.ReadsBack.Statement (.sprRead c ty d sel) :=
  readsBack_of rfl (fun f => (Ty.ofCode f.ty).bind fun ty => some (.sprRead f.ctl ty f.d f.a)) rfl (by simp [Fields.withCtl, Fields.withB, Fields.srcB, Fields.ctl, Fields.base, Fields.sub, Fields.bit, flag, ofCode_code, rnd_ofCode_code, hint_ofCode_code, ord_ofW2_code, pcode_setWidth, low_setWidth, above_setWidth, below_shift, at_shift, BitVec.extractLsb'_or])
theorem Sys2Proof.Laws.ReadsBack.sprWrite (c : Ctl) (b : SrcB) : Sys2Proof.Laws.ReadsBack.Statement (.sprWrite c b) :=
  by
  cases b <;> exact readsBack_of rfl (fun f => some (.sprWrite f.ctl f.srcB)) rfl (by simp [Fields.withCtl, Fields.withB, Fields.srcB, Fields.ctl, Fields.base, Fields.sub, Fields.bit, flag, ofCode_code, rnd_ofCode_code, hint_ofCode_code, ord_ofW2_code, pcode_setWidth, low_setWidth, above_setWidth, below_shift, at_shift, BitVec.extractLsb'_or])
theorem Sys2Proof.Laws.ReadsBack.isetp (c : Ctl) (ty : Ty) (cmp : BitVec 4) (pd : PredCode) (a : RegCode) (b : SrcB) : Sys2Proof.Laws.ReadsBack.Statement (.isetp c ty cmp pd a b) :=
  by
  cases b <;> exact readsBack_of rfl (fun f => (Ty.ofCode f.ty).bind fun ty => some (.isetp f.ctl ty (f.sub 0 4) f.pd f.a f.srcB)) rfl (by simp [Fields.withCtl, Fields.withB, Fields.srcB, Fields.ctl, Fields.base, Fields.sub, Fields.bit, flag, ofCode_code, rnd_ofCode_code, hint_ofCode_code, ord_ofW2_code, pcode_setWidth, low_setWidth, above_setWidth, below_shift, at_shift, BitVec.extractLsb'_or])
theorem Sys2Proof.Laws.ReadsBack.fsetp (c : Ctl) (cmp : BitVec 4) (pd : PredCode) (a : RegCode) (b : SrcB) : Sys2Proof.Laws.ReadsBack.Statement (.fsetp c cmp pd a b) :=
  by
  cases b <;> exact readsBack_of rfl (fun f => some (.fsetp f.ctl (f.sub 0 4) f.pd f.a f.srcB)) rfl (by simp [Fields.withCtl, Fields.withB, Fields.srcB, Fields.ctl, Fields.base, Fields.sub, Fields.bit, flag, ofCode_code, rnd_ofCode_code, hint_ofCode_code, ord_ofW2_code, pcode_setWidth, low_setWidth, above_setWidth, below_shift, at_shift, BitVec.extractLsb'_or])
theorem Sys2Proof.Laws.ReadsBack.dsetp (c : Ctl) (cmp : BitVec 4) (pd : PredCode) (a : RegCode) (b : SrcB) : Sys2Proof.Laws.ReadsBack.Statement (.dsetp c cmp pd a b) :=
  by
  cases b <;> exact readsBack_of rfl (fun f => some (.dsetp f.ctl (f.sub 0 4) f.pd f.a f.srcB)) rfl (by simp [Fields.withCtl, Fields.withB, Fields.srcB, Fields.ctl, Fields.base, Fields.sub, Fields.bit, flag, ofCode_code, rnd_ofCode_code, hint_ofCode_code, ord_ofW2_code, pcode_setWidth, low_setWidth, above_setWidth, below_shift, at_shift, BitVec.extractLsb'_or])
theorem Sys2Proof.Laws.ReadsBack.sel (c : Ctl) (ty : Ty) (d a : RegCode) (b : SrcB) (p : PredCode) : Sys2Proof.Laws.ReadsBack.Statement (.sel c ty d a b p) :=
  by
  cases b <;> exact readsBack_of rfl (fun f => (Ty.ofCode f.ty).bind fun ty => some (.sel f.ctl ty f.d f.a f.srcB (pcode f.c))) rfl (by simp [Fields.withCtl, Fields.withB, Fields.srcB, Fields.ctl, Fields.base, Fields.sub, Fields.bit, flag, ofCode_code, rnd_ofCode_code, hint_ofCode_code, ord_ofW2_code, pcode_setWidth, low_setWidth, above_setWidth, below_shift, at_shift, BitVec.extractLsb'_or])
theorem Sys2Proof.Laws.ReadsBack.plop (c : Ctl) (pd p q r : PredCode) (lut : BitVec 8) : Sys2Proof.Laws.ReadsBack.Statement (.plop c pd p q r lut) :=
  readsBack_of rfl (fun f => some (.plop f.ctl f.pd (pcode f.a) (pcode f.b) (pcode f.c) (f.sub 0 8))) rfl (by simp [Fields.withCtl, Fields.withB, Fields.srcB, Fields.ctl, Fields.base, Fields.sub, Fields.bit, flag, ofCode_code, rnd_ofCode_code, hint_ofCode_code, ord_ofW2_code, pcode_setWidth, low_setWidth, above_setWidth, below_shift, at_shift, BitVec.extractLsb'_or])
theorem Sys2Proof.Laws.ReadsBack.fadd (c : Ctl) (rm : Rnd) (d a : RegCode) (b : SrcB) : Sys2Proof.Laws.ReadsBack.Statement (.fadd c rm d a b) :=
  by
  cases b <;> exact readsBack_of rfl (fun f => (Rnd.ofCode f.rm).bind fun rm => some (.fadd f.ctl rm f.d f.a f.srcB)) rfl (by simp [Fields.withCtl, Fields.withB, Fields.srcB, Fields.ctl, Fields.base, Fields.sub, Fields.bit, flag, ofCode_code, rnd_ofCode_code, hint_ofCode_code, ord_ofW2_code, pcode_setWidth, low_setWidth, above_setWidth, below_shift, at_shift, BitVec.extractLsb'_or])
theorem Sys2Proof.Laws.ReadsBack.fmul (c : Ctl) (rm : Rnd) (d a : RegCode) (b : SrcB) : Sys2Proof.Laws.ReadsBack.Statement (.fmul c rm d a b) :=
  by
  cases b <;> exact readsBack_of rfl (fun f => (Rnd.ofCode f.rm).bind fun rm => some (.fmul f.ctl rm f.d f.a f.srcB)) rfl (by simp [Fields.withCtl, Fields.withB, Fields.srcB, Fields.ctl, Fields.base, Fields.sub, Fields.bit, flag, ofCode_code, rnd_ofCode_code, hint_ofCode_code, ord_ofW2_code, pcode_setWidth, low_setWidth, above_setWidth, below_shift, at_shift, BitVec.extractLsb'_or])
theorem Sys2Proof.Laws.ReadsBack.ffma (c : Ctl) (rm : Rnd) (d a : RegCode) (b : SrcB) (k : RegCode) : Sys2Proof.Laws.ReadsBack.Statement (.ffma c rm d a b k) :=
  by
  cases b <;> exact readsBack_of rfl (fun f => (Rnd.ofCode f.rm).bind fun rm => some (.ffma f.ctl rm f.d f.a f.srcB f.c)) rfl (by simp [Fields.withCtl, Fields.withB, Fields.srcB, Fields.ctl, Fields.base, Fields.sub, Fields.bit, flag, ofCode_code, rnd_ofCode_code, hint_ofCode_code, ord_ofW2_code, pcode_setWidth, low_setWidth, above_setWidth, below_shift, at_shift, BitVec.extractLsb'_or])
theorem Sys2Proof.Laws.ReadsBack.fmin (c : Ctl) (d a : RegCode) (b : SrcB) : Sys2Proof.Laws.ReadsBack.Statement (.fmin c d a b) :=
  by
  cases b <;> exact readsBack_of rfl (fun f => some (.fmin f.ctl f.d f.a f.srcB)) rfl (by simp [Fields.withCtl, Fields.withB, Fields.srcB, Fields.ctl, Fields.base, Fields.sub, Fields.bit, flag, ofCode_code, rnd_ofCode_code, hint_ofCode_code, ord_ofW2_code, pcode_setWidth, low_setWidth, above_setWidth, below_shift, at_shift, BitVec.extractLsb'_or])
theorem Sys2Proof.Laws.ReadsBack.fmax (c : Ctl) (d a : RegCode) (b : SrcB) : Sys2Proof.Laws.ReadsBack.Statement (.fmax c d a b) :=
  by
  cases b <;> exact readsBack_of rfl (fun f => some (.fmax f.ctl f.d f.a f.srcB)) rfl (by simp [Fields.withCtl, Fields.withB, Fields.srcB, Fields.ctl, Fields.base, Fields.sub, Fields.bit, flag, ofCode_code, rnd_ofCode_code, hint_ofCode_code, ord_ofW2_code, pcode_setWidth, low_setWidth, above_setWidth, below_shift, at_shift, BitVec.extractLsb'_or])
theorem Sys2Proof.Laws.ReadsBack.fscale (c : Ctl) (rm : Rnd) (d a : RegCode) (b : SrcB) : Sys2Proof.Laws.ReadsBack.Statement (.fscale c rm d a b) :=
  by
  cases b <;> exact readsBack_of rfl (fun f => (Rnd.ofCode f.rm).bind fun rm => some (.fscale f.ctl rm f.d f.a f.srcB)) rfl (by simp [Fields.withCtl, Fields.withB, Fields.srcB, Fields.ctl, Fields.base, Fields.sub, Fields.bit, flag, ofCode_code, rnd_ofCode_code, hint_ofCode_code, ord_ofW2_code, pcode_setWidth, low_setWidth, above_setWidth, below_shift, at_shift, BitVec.extractLsb'_or])
theorem Sys2Proof.Laws.ReadsBack.fclass (c : Ctl) (ty : Ty) (d a : RegCode) : Sys2Proof.Laws.ReadsBack.Statement (.fclass c ty d a) :=
  readsBack_of rfl (fun f => (Ty.ofCode f.ty).bind fun ty => some (.fclass f.ctl ty f.d f.a)) rfl (by simp [Fields.withCtl, Fields.withB, Fields.srcB, Fields.ctl, Fields.base, Fields.sub, Fields.bit, flag, ofCode_code, rnd_ofCode_code, hint_ofCode_code, ord_ofW2_code, pcode_setWidth, low_setWidth, above_setWidth, below_shift, at_shift, BitVec.extractLsb'_or])
theorem Sys2Proof.Laws.ReadsBack.frcp (c : Ctl) (rm : Rnd) (d a : RegCode) : Sys2Proof.Laws.ReadsBack.Statement (.frcp c rm d a) :=
  readsBack_of rfl (fun f => (Rnd.ofCode f.rm).bind fun rm => some (.frcp f.ctl rm f.d f.a)) rfl (by simp [Fields.withCtl, Fields.withB, Fields.srcB, Fields.ctl, Fields.base, Fields.sub, Fields.bit, flag, ofCode_code, rnd_ofCode_code, hint_ofCode_code, ord_ofW2_code, pcode_setWidth, low_setWidth, above_setWidth, below_shift, at_shift, BitVec.extractLsb'_or])
theorem Sys2Proof.Laws.ReadsBack.frsq (c : Ctl) (rm : Rnd) (d a : RegCode) : Sys2Proof.Laws.ReadsBack.Statement (.frsq c rm d a) :=
  readsBack_of rfl (fun f => (Rnd.ofCode f.rm).bind fun rm => some (.frsq f.ctl rm f.d f.a)) rfl (by simp [Fields.withCtl, Fields.withB, Fields.srcB, Fields.ctl, Fields.base, Fields.sub, Fields.bit, flag, ofCode_code, rnd_ofCode_code, hint_ofCode_code, ord_ofW2_code, pcode_setWidth, low_setWidth, above_setWidth, below_shift, at_shift, BitVec.extractLsb'_or])
theorem Sys2Proof.Laws.ReadsBack.fsqrt (c : Ctl) (rm : Rnd) (d a : RegCode) : Sys2Proof.Laws.ReadsBack.Statement (.fsqrt c rm d a) :=
  readsBack_of rfl (fun f => (Rnd.ofCode f.rm).bind fun rm => some (.fsqrt f.ctl rm f.d f.a)) rfl (by simp [Fields.withCtl, Fields.withB, Fields.srcB, Fields.ctl, Fields.base, Fields.sub, Fields.bit, flag, ofCode_code, rnd_ofCode_code, hint_ofCode_code, ord_ofW2_code, pcode_setWidth, low_setWidth, above_setWidth, below_shift, at_shift, BitVec.extractLsb'_or])
theorem Sys2Proof.Laws.ReadsBack.fexp2 (c : Ctl) (rm : Rnd) (d a : RegCode) : Sys2Proof.Laws.ReadsBack.Statement (.fexp2 c rm d a) :=
  readsBack_of rfl (fun f => (Rnd.ofCode f.rm).bind fun rm => some (.fexp2 f.ctl rm f.d f.a)) rfl (by simp [Fields.withCtl, Fields.withB, Fields.srcB, Fields.ctl, Fields.base, Fields.sub, Fields.bit, flag, ofCode_code, rnd_ofCode_code, hint_ofCode_code, ord_ofW2_code, pcode_setWidth, low_setWidth, above_setWidth, below_shift, at_shift, BitVec.extractLsb'_or])
theorem Sys2Proof.Laws.ReadsBack.flog2 (c : Ctl) (rm : Rnd) (d a : RegCode) : Sys2Proof.Laws.ReadsBack.Statement (.flog2 c rm d a) :=
  readsBack_of rfl (fun f => (Rnd.ofCode f.rm).bind fun rm => some (.flog2 f.ctl rm f.d f.a)) rfl (by simp [Fields.withCtl, Fields.withB, Fields.srcB, Fields.ctl, Fields.base, Fields.sub, Fields.bit, flag, ofCode_code, rnd_ofCode_code, hint_ofCode_code, ord_ofW2_code, pcode_setWidth, low_setWidth, above_setWidth, below_shift, at_shift, BitVec.extractLsb'_or])
theorem Sys2Proof.Laws.ReadsBack.fsin (c : Ctl) (rm : Rnd) (d a : RegCode) : Sys2Proof.Laws.ReadsBack.Statement (.fsin c rm d a) :=
  readsBack_of rfl (fun f => (Rnd.ofCode f.rm).bind fun rm => some (.fsin f.ctl rm f.d f.a)) rfl (by simp [Fields.withCtl, Fields.withB, Fields.srcB, Fields.ctl, Fields.base, Fields.sub, Fields.bit, flag, ofCode_code, rnd_ofCode_code, hint_ofCode_code, ord_ofW2_code, pcode_setWidth, low_setWidth, above_setWidth, below_shift, at_shift, BitVec.extractLsb'_or])
theorem Sys2Proof.Laws.ReadsBack.fcos (c : Ctl) (rm : Rnd) (d a : RegCode) : Sys2Proof.Laws.ReadsBack.Statement (.fcos c rm d a) :=
  readsBack_of rfl (fun f => (Rnd.ofCode f.rm).bind fun rm => some (.fcos f.ctl rm f.d f.a)) rfl (by simp [Fields.withCtl, Fields.withB, Fields.srcB, Fields.ctl, Fields.base, Fields.sub, Fields.bit, flag, ofCode_code, rnd_ofCode_code, hint_ofCode_code, ord_ofW2_code, pcode_setWidth, low_setWidth, above_setWidth, below_shift, at_shift, BitVec.extractLsb'_or])
theorem Sys2Proof.Laws.ReadsBack.dadd (c : Ctl) (rm : Rnd) (d a : RegCode) (b : SrcB) : Sys2Proof.Laws.ReadsBack.Statement (.dadd c rm d a b) :=
  by
  cases b <;> exact readsBack_of rfl (fun f => (Rnd.ofCode f.rm).bind fun rm => some (.dadd f.ctl rm f.d f.a f.srcB)) rfl (by simp [Fields.withCtl, Fields.withB, Fields.srcB, Fields.ctl, Fields.base, Fields.sub, Fields.bit, flag, ofCode_code, rnd_ofCode_code, hint_ofCode_code, ord_ofW2_code, pcode_setWidth, low_setWidth, above_setWidth, below_shift, at_shift, BitVec.extractLsb'_or])
theorem Sys2Proof.Laws.ReadsBack.dmul (c : Ctl) (rm : Rnd) (d a : RegCode) (b : SrcB) : Sys2Proof.Laws.ReadsBack.Statement (.dmul c rm d a b) :=
  by
  cases b <;> exact readsBack_of rfl (fun f => (Rnd.ofCode f.rm).bind fun rm => some (.dmul f.ctl rm f.d f.a f.srcB)) rfl (by simp [Fields.withCtl, Fields.withB, Fields.srcB, Fields.ctl, Fields.base, Fields.sub, Fields.bit, flag, ofCode_code, rnd_ofCode_code, hint_ofCode_code, ord_ofW2_code, pcode_setWidth, low_setWidth, above_setWidth, below_shift, at_shift, BitVec.extractLsb'_or])
theorem Sys2Proof.Laws.ReadsBack.dfma (c : Ctl) (rm : Rnd) (d a : RegCode) (b : SrcB) (k : RegCode) : Sys2Proof.Laws.ReadsBack.Statement (.dfma c rm d a b k) :=
  by
  cases b <;> exact readsBack_of rfl (fun f => (Rnd.ofCode f.rm).bind fun rm => some (.dfma f.ctl rm f.d f.a f.srcB f.c)) rfl (by simp [Fields.withCtl, Fields.withB, Fields.srcB, Fields.ctl, Fields.base, Fields.sub, Fields.bit, flag, ofCode_code, rnd_ofCode_code, hint_ofCode_code, ord_ofW2_code, pcode_setWidth, low_setWidth, above_setWidth, below_shift, at_shift, BitVec.extractLsb'_or])
theorem Sys2Proof.Laws.ReadsBack.hadd2 (c : Ctl) (ty : Ty) (rm : Rnd) (d a : RegCode) (b : SrcB) : Sys2Proof.Laws.ReadsBack.Statement (.hadd2 c ty rm d a b) :=
  by
  cases b <;> exact readsBack_of rfl (fun f => (Ty.ofCode f.ty).bind fun ty => (Rnd.ofCode f.rm).bind fun rm => some (.hadd2 f.ctl ty rm f.d f.a f.srcB)) rfl (by simp [Fields.withCtl, Fields.withB, Fields.srcB, Fields.ctl, Fields.base, Fields.sub, Fields.bit, flag, ofCode_code, rnd_ofCode_code, hint_ofCode_code, ord_ofW2_code, pcode_setWidth, low_setWidth, above_setWidth, below_shift, at_shift, BitVec.extractLsb'_or])
theorem Sys2Proof.Laws.ReadsBack.hmul2 (c : Ctl) (ty : Ty) (rm : Rnd) (d a : RegCode) (b : SrcB) : Sys2Proof.Laws.ReadsBack.Statement (.hmul2 c ty rm d a b) :=
  by
  cases b <;> exact readsBack_of rfl (fun f => (Ty.ofCode f.ty).bind fun ty => (Rnd.ofCode f.rm).bind fun rm => some (.hmul2 f.ctl ty rm f.d f.a f.srcB)) rfl (by simp [Fields.withCtl, Fields.withB, Fields.srcB, Fields.ctl, Fields.base, Fields.sub, Fields.bit, flag, ofCode_code, rnd_ofCode_code, hint_ofCode_code, ord_ofW2_code, pcode_setWidth, low_setWidth, above_setWidth, below_shift, at_shift, BitVec.extractLsb'_or])
theorem Sys2Proof.Laws.ReadsBack.hfma2 (c : Ctl) (ty : Ty) (rm : Rnd) (d a : RegCode) (b : SrcB) (k : RegCode) : Sys2Proof.Laws.ReadsBack.Statement (.hfma2 c ty rm d a b k) :=
  by
  cases b <;> exact readsBack_of rfl (fun f => (Ty.ofCode f.ty).bind fun ty => (Rnd.ofCode f.rm).bind fun rm => some (.hfma2 f.ctl ty rm f.d f.a f.srcB f.c)) rfl (by simp [Fields.withCtl, Fields.withB, Fields.srcB, Fields.ctl, Fields.base, Fields.sub, Fields.bit, flag, ofCode_code, rnd_ofCode_code, hint_ofCode_code, ord_ofW2_code, pcode_setWidth, low_setWidth, above_setWidth, below_shift, at_shift, BitVec.extractLsb'_or])
theorem Sys2Proof.Laws.ReadsBack.cvt (c : Ctl) (ty src : Ty) (rm : Rnd) (sat : Bool) (d a : RegCode) : Sys2Proof.Laws.ReadsBack.Statement (.cvt c ty src rm sat d a) :=
  readsBack_of rfl (fun f => (Ty.ofCode f.ty).bind fun ty => (Ty.ofCode (f.sub 0 5)).bind fun src => (Rnd.ofCode f.rm).bind fun rm => some (.cvt f.ctl ty src rm f.sat f.d f.a)) rfl (by simp [Fields.withCtl, Fields.withB, Fields.srcB, Fields.ctl, Fields.base, Fields.sub, Fields.bit, flag, ofCode_code, rnd_ofCode_code, hint_ofCode_code, ord_ofW2_code, pcode_setWidth, low_setWidth, above_setWidth, below_shift, at_shift, BitVec.extractLsb'_or])
theorem Sys2Proof.Laws.ReadsBack.cvtp (c : Ctl) (ty src : Ty) (rm : Rnd) (sat : Bool) (d a : RegCode) (b : SrcB) : Sys2Proof.Laws.ReadsBack.Statement (.cvtp c ty src rm sat d a b) :=
  by
  cases b <;> exact readsBack_of rfl (fun f => (Ty.ofCode f.ty).bind fun ty => (Ty.ofCode (f.sub 0 5)).bind fun src => (Rnd.ofCode f.rm).bind fun rm => some (.cvtp f.ctl ty src rm f.sat f.d f.a f.srcB)) rfl (by simp [Fields.withCtl, Fields.withB, Fields.srcB, Fields.ctl, Fields.base, Fields.sub, Fields.bit, flag, ofCode_code, rnd_ofCode_code, hint_ofCode_code, ord_ofW2_code, pcode_setWidth, low_setWidth, above_setWidth, below_shift, at_shift, BitVec.extractLsb'_or])
theorem Sys2Proof.Laws.ReadsBack.cvtx (c : Ctl) (ty src : Ty) (e : BitVec 3) (d a : RegCode) : Sys2Proof.Laws.ReadsBack.Statement (.cvtx c ty src e d a) :=
  readsBack_of rfl (fun f => (Ty.ofCode f.ty).bind fun ty => (Ty.ofCode (f.sub 0 5)).bind fun src => some (.cvtx f.ctl ty src (f.sub 5 3) f.d f.a)) rfl (by simp [Fields.withCtl, Fields.withB, Fields.srcB, Fields.ctl, Fields.base, Fields.sub, Fields.bit, flag, ofCode_code, rnd_ofCode_code, hint_ofCode_code, ord_ofW2_code, pcode_setWidth, low_setWidth, above_setWidth, below_shift, at_shift, BitVec.extractLsb'_or])
theorem Sys2Proof.Laws.ReadsBack.dot2 (c : Ctl) (ty el : Ty) (d a : RegCode) (b : SrcB) : Sys2Proof.Laws.ReadsBack.Statement (.dot2 c ty el d a b) :=
  by
  cases b <;> exact readsBack_of rfl (fun f => (Ty.ofCode f.ty).bind fun ty => (Ty.ofCode (f.sub 0 5)).bind fun el => some (.dot2 f.ctl ty el f.d f.a f.srcB)) rfl (by simp [Fields.withCtl, Fields.withB, Fields.srcB, Fields.ctl, Fields.base, Fields.sub, Fields.bit, flag, ofCode_code, rnd_ofCode_code, hint_ofCode_code, ord_ofW2_code, pcode_setWidth, low_setWidth, above_setWidth, below_shift, at_shift, BitVec.extractLsb'_or])
theorem Sys2Proof.Laws.ReadsBack.dot4 (c : Ctl) (ty el : Ty) (sc : Bool) (bs : BitVec 2) (d a : RegCode) (b : SrcB) (k : RegCode) : Sys2Proof.Laws.ReadsBack.Statement (.dot4 c ty el sc bs d a b k) :=
  by
  cases sc <;> cases b <;> exact readsBack_of rfl (fun f => (Ty.ofCode f.ty).bind fun ty => (Ty.ofCode (f.sub 0 5)).bind fun el => some (.dot4 f.ctl ty el (f.bit 7) (f.sub 5 2) f.d f.a f.srcB f.c)) rfl (by simp [Fields.withCtl, Fields.withB, Fields.srcB, Fields.ctl, Fields.base, Fields.sub, Fields.bit, flag, ofCode_code, rnd_ofCode_code, hint_ofCode_code, ord_ofW2_code, pcode_setWidth, low_setWidth, above_setWidth, below_shift, at_shift, BitVec.extractLsb'_or])
theorem Sys2Proof.Laws.ReadsBack.dot8 (c : Ctl) (ty el : Ty) (sc : Bool) (bs : BitVec 2) (d a : RegCode) (b : SrcB) (k : RegCode) : Sys2Proof.Laws.ReadsBack.Statement (.dot8 c ty el sc bs d a b k) :=
  by
  cases sc <;> cases b <;> exact readsBack_of rfl (fun f => (Ty.ofCode f.ty).bind fun ty => (Ty.ofCode (f.sub 0 5)).bind fun el => some (.dot8 f.ctl ty el (f.bit 7) (f.sub 5 2) f.d f.a f.srcB f.c)) rfl (by simp [Fields.withCtl, Fields.withB, Fields.srcB, Fields.ctl, Fields.base, Fields.sub, Fields.bit, flag, ofCode_code, rnd_ofCode_code, hint_ofCode_code, ord_ofW2_code, pcode_setWidth, low_setWidth, above_setWidth, below_shift, at_shift, BitVec.extractLsb'_or])
theorem Sys2Proof.Laws.ReadsBack.ld (c : Ctl) (ty : Ty) (h : Hint) (d a : RegCode) (off : BitVec 32) : Sys2Proof.Laws.ReadsBack.Statement (.ld c ty h d a off) :=
  readsBack_of rfl (fun f => (Ty.ofCode f.ty).bind fun ty => (Hint.ofCode f.ch).bind fun h => some (.ld f.ctl ty h f.d f.a f.w2)) rfl (by simp [Fields.withCtl, Fields.withB, Fields.srcB, Fields.ctl, Fields.base, Fields.sub, Fields.bit, flag, ofCode_code, rnd_ofCode_code, hint_ofCode_code, ord_ofW2_code, pcode_setWidth, low_setWidth, above_setWidth, below_shift, at_shift, BitVec.extractLsb'_or])
theorem Sys2Proof.Laws.ReadsBack.st (c : Ctl) (ty : Ty) (h : Hint) (a : RegCode) (b : SrcB) (off : BitVec 32) : Sys2Proof.Laws.ReadsBack.Statement (.st c ty h a b off) :=
  by
  cases b <;> exact readsBack_of rfl (fun f => (Ty.ofCode f.ty).bind fun ty => (Hint.ofCode f.ch).bind fun h => some (.st f.ctl ty h f.a f.srcB f.w2)) rfl (by simp [Fields.withCtl, Fields.withB, Fields.srcB, Fields.ctl, Fields.base, Fields.sub, Fields.bit, flag, ofCode_code, rnd_ofCode_code, hint_ofCode_code, ord_ofW2_code, pcode_setWidth, low_setWidth, above_setWidth, below_shift, at_shift, BitVec.extractLsb'_or])
theorem Sys2Proof.Laws.ReadsBack.lds (c : Ctl) (ty : Ty) (d a : RegCode) (off : BitVec 32) : Sys2Proof.Laws.ReadsBack.Statement (.lds c ty d a off) :=
  readsBack_of rfl (fun f => (Ty.ofCode f.ty).bind fun ty => some (.lds f.ctl ty f.d f.a f.w2)) rfl (by simp [Fields.withCtl, Fields.withB, Fields.srcB, Fields.ctl, Fields.base, Fields.sub, Fields.bit, flag, ofCode_code, rnd_ofCode_code, hint_ofCode_code, ord_ofW2_code, pcode_setWidth, low_setWidth, above_setWidth, below_shift, at_shift, BitVec.extractLsb'_or])
theorem Sys2Proof.Laws.ReadsBack.sts (c : Ctl) (ty : Ty) (a : RegCode) (b : SrcB) (off : BitVec 32) : Sys2Proof.Laws.ReadsBack.Statement (.sts c ty a b off) :=
  by
  cases b <;> exact readsBack_of rfl (fun f => (Ty.ofCode f.ty).bind fun ty => some (.sts f.ctl ty f.a f.srcB f.w2)) rfl (by simp [Fields.withCtl, Fields.withB, Fields.srcB, Fields.ctl, Fields.base, Fields.sub, Fields.bit, flag, ofCode_code, rnd_ofCode_code, hint_ofCode_code, ord_ofW2_code, pcode_setWidth, low_setWidth, above_setWidth, below_shift, at_shift, BitVec.extractLsb'_or])
theorem Sys2Proof.Laws.ReadsBack.ldc (c : Ctl) (ty : Ty) (d a : RegCode) (slot : BitVec 2) (off : BitVec 32) : Sys2Proof.Laws.ReadsBack.Statement (.ldc c ty d a slot off) :=
  readsBack_of rfl (fun f => (Ty.ofCode f.ty).bind fun ty => some (.ldc f.ctl ty f.d f.a (f.c.setWidth 2) f.w2)) rfl (by simp [Fields.withCtl, Fields.withB, Fields.srcB, Fields.ctl, Fields.base, Fields.sub, Fields.bit, flag, ofCode_code, rnd_ofCode_code, hint_ofCode_code, ord_ofW2_code, pcode_setWidth, low_setWidth, above_setWidth, below_shift, at_shift, BitVec.extractLsb'_or])
theorem Sys2Proof.Laws.ReadsBack.stc (c : Ctl) (ty : Ty) (a : RegCode) (b : SrcB) (slot : BitVec 2) (off : BitVec 32) : Sys2Proof.Laws.ReadsBack.Statement (.stc c ty a b slot off) :=
  by
  cases b <;> exact readsBack_of rfl (fun f => (Ty.ofCode f.ty).bind fun ty => some (.stc f.ctl ty f.a f.srcB (f.c.setWidth 2) f.w2)) rfl (by simp [Fields.withCtl, Fields.withB, Fields.srcB, Fields.ctl, Fields.base, Fields.sub, Fields.bit, flag, ofCode_code, rnd_ofCode_code, hint_ofCode_code, ord_ofW2_code, pcode_setWidth, low_setWidth, above_setWidth, below_shift, at_shift, BitVec.extractLsb'_or])
theorem Sys2Proof.Laws.ReadsBack.pref (c : Ctl) (h : Hint) (a : RegCode) (off : BitVec 32) : Sys2Proof.Laws.ReadsBack.Statement (.pref c h a off) :=
  readsBack_of rfl (fun f => (Hint.ofCode f.ch).bind fun h => some (.pref f.ctl h f.a f.w2)) rfl (by simp [Fields.withCtl, Fields.withB, Fields.srcB, Fields.ctl, Fields.base, Fields.sub, Fields.bit, flag, ofCode_code, rnd_ofCode_code, hint_ofCode_code, ord_ofW2_code, pcode_setWidth, low_setWidth, above_setWidth, below_shift, at_shift, BitVec.extractLsb'_or])
theorem Sys2Proof.Laws.ReadsBack.atomAdd (c : Ctl) (ty : Ty) (ord : Ord) (d a : RegCode) (b : SrcB) : Sys2Proof.Laws.ReadsBack.Statement (.atomAdd c ty ord d a b) :=
  by
  cases b <;> exact readsBack_of rfl (fun f => (Ty.ofCode f.ty).bind fun ty => some (.atomAdd f.ctl ty (Ord.ofW2 f.w2) f.d f.a f.srcB)) rfl (by simp [Fields.withCtl, Fields.withB, Fields.srcB, Fields.ctl, Fields.base, Fields.sub, Fields.bit, flag, ofCode_code, rnd_ofCode_code, hint_ofCode_code, ord_ofW2_code, pcode_setWidth, low_setWidth, above_setWidth, below_shift, at_shift, BitVec.extractLsb'_or])
theorem Sys2Proof.Laws.ReadsBack.atomMin (c : Ctl) (ty : Ty) (ord : Ord) (d a : RegCode) (b : SrcB) : Sys2Proof.Laws.ReadsBack.Statement (.atomMin c ty ord d a b) :=
  by
  cases b <;> exact readsBack_of rfl (fun f => (Ty.ofCode f.ty).bind fun ty => some (.atomMin f.ctl ty (Ord.ofW2 f.w2) f.d f.a f.srcB)) rfl (by simp [Fields.withCtl, Fields.withB, Fields.srcB, Fields.ctl, Fields.base, Fields.sub, Fields.bit, flag, ofCode_code, rnd_ofCode_code, hint_ofCode_code, ord_ofW2_code, pcode_setWidth, low_setWidth, above_setWidth, below_shift, at_shift, BitVec.extractLsb'_or])
theorem Sys2Proof.Laws.ReadsBack.atomMax (c : Ctl) (ty : Ty) (ord : Ord) (d a : RegCode) (b : SrcB) : Sys2Proof.Laws.ReadsBack.Statement (.atomMax c ty ord d a b) :=
  by
  cases b <;> exact readsBack_of rfl (fun f => (Ty.ofCode f.ty).bind fun ty => some (.atomMax f.ctl ty (Ord.ofW2 f.w2) f.d f.a f.srcB)) rfl (by simp [Fields.withCtl, Fields.withB, Fields.srcB, Fields.ctl, Fields.base, Fields.sub, Fields.bit, flag, ofCode_code, rnd_ofCode_code, hint_ofCode_code, ord_ofW2_code, pcode_setWidth, low_setWidth, above_setWidth, below_shift, at_shift, BitVec.extractLsb'_or])
theorem Sys2Proof.Laws.ReadsBack.atomAnd (c : Ctl) (ty : Ty) (ord : Ord) (d a : RegCode) (b : SrcB) : Sys2Proof.Laws.ReadsBack.Statement (.atomAnd c ty ord d a b) :=
  by
  cases b <;> exact readsBack_of rfl (fun f => (Ty.ofCode f.ty).bind fun ty => some (.atomAnd f.ctl ty (Ord.ofW2 f.w2) f.d f.a f.srcB)) rfl (by simp [Fields.withCtl, Fields.withB, Fields.srcB, Fields.ctl, Fields.base, Fields.sub, Fields.bit, flag, ofCode_code, rnd_ofCode_code, hint_ofCode_code, ord_ofW2_code, pcode_setWidth, low_setWidth, above_setWidth, below_shift, at_shift, BitVec.extractLsb'_or])
theorem Sys2Proof.Laws.ReadsBack.atomOr (c : Ctl) (ty : Ty) (ord : Ord) (d a : RegCode) (b : SrcB) : Sys2Proof.Laws.ReadsBack.Statement (.atomOr c ty ord d a b) :=
  by
  cases b <;> exact readsBack_of rfl (fun f => (Ty.ofCode f.ty).bind fun ty => some (.atomOr f.ctl ty (Ord.ofW2 f.w2) f.d f.a f.srcB)) rfl (by simp [Fields.withCtl, Fields.withB, Fields.srcB, Fields.ctl, Fields.base, Fields.sub, Fields.bit, flag, ofCode_code, rnd_ofCode_code, hint_ofCode_code, ord_ofW2_code, pcode_setWidth, low_setWidth, above_setWidth, below_shift, at_shift, BitVec.extractLsb'_or])
theorem Sys2Proof.Laws.ReadsBack.atomXor (c : Ctl) (ty : Ty) (ord : Ord) (d a : RegCode) (b : SrcB) : Sys2Proof.Laws.ReadsBack.Statement (.atomXor c ty ord d a b) :=
  by
  cases b <;> exact readsBack_of rfl (fun f => (Ty.ofCode f.ty).bind fun ty => some (.atomXor f.ctl ty (Ord.ofW2 f.w2) f.d f.a f.srcB)) rfl (by simp [Fields.withCtl, Fields.withB, Fields.srcB, Fields.ctl, Fields.base, Fields.sub, Fields.bit, flag, ofCode_code, rnd_ofCode_code, hint_ofCode_code, ord_ofW2_code, pcode_setWidth, low_setWidth, above_setWidth, below_shift, at_shift, BitVec.extractLsb'_or])
theorem Sys2Proof.Laws.ReadsBack.atomExch (c : Ctl) (ty : Ty) (ord : Ord) (d a : RegCode) (b : SrcB) : Sys2Proof.Laws.ReadsBack.Statement (.atomExch c ty ord d a b) :=
  by
  cases b <;> exact readsBack_of rfl (fun f => (Ty.ofCode f.ty).bind fun ty => some (.atomExch f.ctl ty (Ord.ofW2 f.w2) f.d f.a f.srcB)) rfl (by simp [Fields.withCtl, Fields.withB, Fields.srcB, Fields.ctl, Fields.base, Fields.sub, Fields.bit, flag, ofCode_code, rnd_ofCode_code, hint_ofCode_code, ord_ofW2_code, pcode_setWidth, low_setWidth, above_setWidth, below_shift, at_shift, BitVec.extractLsb'_or])
theorem Sys2Proof.Laws.ReadsBack.cas (c : Ctl) (ty : Ty) (ord : Ord) (d a : RegCode) (b : SrcB) (k : RegCode) : Sys2Proof.Laws.ReadsBack.Statement (.cas c ty ord d a b k) :=
  by
  cases b <;> exact readsBack_of rfl (fun f => (Ty.ofCode f.ty).bind fun ty => some (.cas f.ctl ty (Ord.ofW2 f.w2) f.d f.a f.srcB f.c)) rfl (by simp [Fields.withCtl, Fields.withB, Fields.srcB, Fields.ctl, Fields.base, Fields.sub, Fields.bit, flag, ofCode_code, rnd_ofCode_code, hint_ofCode_code, ord_ofW2_code, pcode_setWidth, low_setWidth, above_setWidth, below_shift, at_shift, BitVec.extractLsb'_or])
theorem Sys2Proof.Laws.ReadsBack.redAdd (c : Ctl) (ty : Ty) (a : RegCode) (b : SrcB) (off : BitVec 32) : Sys2Proof.Laws.ReadsBack.Statement (.redAdd c ty a b off) :=
  by
  cases b <;> exact readsBack_of rfl (fun f => (Ty.ofCode f.ty).bind fun ty => some (.redAdd f.ctl ty f.a f.srcB f.w2)) rfl (by simp [Fields.withCtl, Fields.withB, Fields.srcB, Fields.ctl, Fields.base, Fields.sub, Fields.bit, flag, ofCode_code, rnd_ofCode_code, hint_ofCode_code, ord_ofW2_code, pcode_setWidth, low_setWidth, above_setWidth, below_shift, at_shift, BitVec.extractLsb'_or])
theorem Sys2Proof.Laws.ReadsBack.redMin (c : Ctl) (ty : Ty) (a : RegCode) (b : SrcB) (off : BitVec 32) : Sys2Proof.Laws.ReadsBack.Statement (.redMin c ty a b off) :=
  by
  cases b <;> exact readsBack_of rfl (fun f => (Ty.ofCode f.ty).bind fun ty => some (.redMin f.ctl ty f.a f.srcB f.w2)) rfl (by simp [Fields.withCtl, Fields.withB, Fields.srcB, Fields.ctl, Fields.base, Fields.sub, Fields.bit, flag, ofCode_code, rnd_ofCode_code, hint_ofCode_code, ord_ofW2_code, pcode_setWidth, low_setWidth, above_setWidth, below_shift, at_shift, BitVec.extractLsb'_or])
theorem Sys2Proof.Laws.ReadsBack.redMax (c : Ctl) (ty : Ty) (a : RegCode) (b : SrcB) (off : BitVec 32) : Sys2Proof.Laws.ReadsBack.Statement (.redMax c ty a b off) :=
  by
  cases b <;> exact readsBack_of rfl (fun f => (Ty.ofCode f.ty).bind fun ty => some (.redMax f.ctl ty f.a f.srcB f.w2)) rfl (by simp [Fields.withCtl, Fields.withB, Fields.srcB, Fields.ctl, Fields.base, Fields.sub, Fields.bit, flag, ofCode_code, rnd_ofCode_code, hint_ofCode_code, ord_ofW2_code, pcode_setWidth, low_setWidth, above_setWidth, below_shift, at_shift, BitVec.extractLsb'_or])
theorem Sys2Proof.Laws.ReadsBack.redAnd (c : Ctl) (ty : Ty) (a : RegCode) (b : SrcB) (off : BitVec 32) : Sys2Proof.Laws.ReadsBack.Statement (.redAnd c ty a b off) :=
  by
  cases b <;> exact readsBack_of rfl (fun f => (Ty.ofCode f.ty).bind fun ty => some (.redAnd f.ctl ty f.a f.srcB f.w2)) rfl (by simp [Fields.withCtl, Fields.withB, Fields.srcB, Fields.ctl, Fields.base, Fields.sub, Fields.bit, flag, ofCode_code, rnd_ofCode_code, hint_ofCode_code, ord_ofW2_code, pcode_setWidth, low_setWidth, above_setWidth, below_shift, at_shift, BitVec.extractLsb'_or])
theorem Sys2Proof.Laws.ReadsBack.redOr (c : Ctl) (ty : Ty) (a : RegCode) (b : SrcB) (off : BitVec 32) : Sys2Proof.Laws.ReadsBack.Statement (.redOr c ty a b off) :=
  by
  cases b <;> exact readsBack_of rfl (fun f => (Ty.ofCode f.ty).bind fun ty => some (.redOr f.ctl ty f.a f.srcB f.w2)) rfl (by simp [Fields.withCtl, Fields.withB, Fields.srcB, Fields.ctl, Fields.base, Fields.sub, Fields.bit, flag, ofCode_code, rnd_ofCode_code, hint_ofCode_code, ord_ofW2_code, pcode_setWidth, low_setWidth, above_setWidth, below_shift, at_shift, BitVec.extractLsb'_or])
theorem Sys2Proof.Laws.ReadsBack.redXor (c : Ctl) (ty : Ty) (a : RegCode) (b : SrcB) (off : BitVec 32) : Sys2Proof.Laws.ReadsBack.Statement (.redXor c ty a b off) :=
  by
  cases b <;> exact readsBack_of rfl (fun f => (Ty.ofCode f.ty).bind fun ty => some (.redXor f.ctl ty f.a f.srcB f.w2)) rfl (by simp [Fields.withCtl, Fields.withB, Fields.srcB, Fields.ctl, Fields.base, Fields.sub, Fields.bit, flag, ofCode_code, rnd_ofCode_code, hint_ofCode_code, ord_ofW2_code, pcode_setWidth, low_setWidth, above_setWidth, below_shift, at_shift, BitVec.extractLsb'_or])
theorem Sys2Proof.Laws.ReadsBack.acq (c : Ctl) (ty : Ty) (h : Hint) (d a : RegCode) (off : BitVec 32) : Sys2Proof.Laws.ReadsBack.Statement (.acq c ty h d a off) :=
  readsBack_of rfl (fun f => (Ty.ofCode f.ty).bind fun ty => (Hint.ofCode f.ch).bind fun h => some (.acq f.ctl ty h f.d f.a f.w2)) rfl (by simp [Fields.withCtl, Fields.withB, Fields.srcB, Fields.ctl, Fields.base, Fields.sub, Fields.bit, flag, ofCode_code, rnd_ofCode_code, hint_ofCode_code, ord_ofW2_code, pcode_setWidth, low_setWidth, above_setWidth, below_shift, at_shift, BitVec.extractLsb'_or])
theorem Sys2Proof.Laws.ReadsBack.rel (c : Ctl) (ty : Ty) (a : RegCode) (b : SrcB) (off : BitVec 32) : Sys2Proof.Laws.ReadsBack.Statement (.rel c ty a b off) :=
  by
  cases b <;> exact readsBack_of rfl (fun f => (Ty.ofCode f.ty).bind fun ty => some (.rel f.ctl ty f.a f.srcB f.w2)) rfl (by simp [Fields.withCtl, Fields.withB, Fields.srcB, Fields.ctl, Fields.base, Fields.sub, Fields.bit, flag, ofCode_code, rnd_ofCode_code, hint_ofCode_code, ord_ofW2_code, pcode_setWidth, low_setWidth, above_setWidth, below_shift, at_shift, BitVec.extractLsb'_or])
theorem Sys2Proof.Laws.ReadsBack.fence : Sys2Proof.Laws.ReadsBack.Statement (.fence) :=
  readsBack_of rfl (fun f => some .fence) rfl rfl
theorem Sys2Proof.Laws.ReadsBack.binit (c : Ctl) (gl : Bool) (a : RegCode) (b : SrcB) : Sys2Proof.Laws.ReadsBack.Statement (.binit c gl a b) :=
  by
  cases gl <;> cases b <;> exact readsBack_of rfl (fun f => some (.binit f.ctl (f.bit 0) f.a f.srcB)) rfl (by simp [Fields.withCtl, Fields.withB, Fields.srcB, Fields.ctl, Fields.base, Fields.sub, Fields.bit, flag, ofCode_code, rnd_ofCode_code, hint_ofCode_code, ord_ofW2_code, pcode_setWidth, low_setWidth, above_setWidth, below_shift, at_shift, BitVec.extractLsb'_or])
theorem Sys2Proof.Laws.ReadsBack.arrive (c : Ctl) (gl : Bool) (a : RegCode) : Sys2Proof.Laws.ReadsBack.Statement (.arrive c gl a) :=
  by
  cases gl <;> exact readsBack_of rfl (fun f => some (.arrive f.ctl (f.bit 0) f.a)) rfl (by simp [Fields.withCtl, Fields.withB, Fields.srcB, Fields.ctl, Fields.base, Fields.sub, Fields.bit, flag, ofCode_code, rnd_ofCode_code, hint_ofCode_code, ord_ofW2_code, pcode_setWidth, low_setWidth, above_setWidth, below_shift, at_shift, BitVec.extractLsb'_or])
theorem Sys2Proof.Laws.ReadsBack.expect (c : Ctl) (gl : Bool) (a : RegCode) (b : SrcB) : Sys2Proof.Laws.ReadsBack.Statement (.expect c gl a b) :=
  by
  cases gl <;> cases b <;> exact readsBack_of rfl (fun f => some (.expect f.ctl (f.bit 0) f.a f.srcB)) rfl (by simp [Fields.withCtl, Fields.withB, Fields.srcB, Fields.ctl, Fields.base, Fields.sub, Fields.bit, flag, ofCode_code, rnd_ofCode_code, hint_ofCode_code, ord_ofW2_code, pcode_setWidth, low_setWidth, above_setWidth, below_shift, at_shift, BitVec.extractLsb'_or])
theorem Sys2Proof.Laws.ReadsBack.wait (c : Ctl) (gl : Bool) (pd : PredCode) (a : RegCode) (b : SrcB) : Sys2Proof.Laws.ReadsBack.Statement (.wait c gl pd a b) :=
  by
  cases gl <;> cases b <;> exact readsBack_of rfl (fun f => some (.wait f.ctl (f.bit 0) f.pd f.a f.srcB)) rfl (by simp [Fields.withCtl, Fields.withB, Fields.srcB, Fields.ctl, Fields.base, Fields.sub, Fields.bit, flag, ofCode_code, rnd_ofCode_code, hint_ofCode_code, ord_ofW2_code, pcode_setWidth, low_setWidth, above_setWidth, below_shift, at_shift, BitVec.extractLsb'_or])
theorem Sys2Proof.Laws.ReadsBack.rinit (c : Ctl) (gl : Bool) (a : RegCode) (b : SrcB) (k : RegCode) : Sys2Proof.Laws.ReadsBack.Statement (.rinit c gl a b k) :=
  by
  cases gl <;> cases b <;> exact readsBack_of rfl (fun f => some (.rinit f.ctl (f.bit 0) f.a f.srcB f.c)) rfl (by simp [Fields.withCtl, Fields.withB, Fields.srcB, Fields.ctl, Fields.base, Fields.sub, Fields.bit, flag, ofCode_code, rnd_ofCode_code, hint_ofCode_code, ord_ofW2_code, pcode_setWidth, low_setWidth, above_setWidth, below_shift, at_shift, BitVec.extractLsb'_or])
theorem Sys2Proof.Laws.ReadsBack.rgive (c : Ctl) (gl : Bool) (a : RegCode) : Sys2Proof.Laws.ReadsBack.Statement (.rgive c gl a) :=
  by
  cases gl <;> exact readsBack_of rfl (fun f => some (.rgive f.ctl (f.bit 0) f.a)) rfl (by simp [Fields.withCtl, Fields.withB, Fields.srcB, Fields.ctl, Fields.base, Fields.sub, Fields.bit, flag, ofCode_code, rnd_ofCode_code, hint_ofCode_code, ord_ofW2_code, pcode_setWidth, low_setWidth, above_setWidth, below_shift, at_shift, BitVec.extractLsb'_or])
theorem Sys2Proof.Laws.ReadsBack.adecl (c : Ctl) (pd : PredCode) (a : RegCode) (b : SrcB) (k : RegCode) (lg : BitVec 5) : Sys2Proof.Laws.ReadsBack.Statement (.adecl c pd a b k lg) :=
  by
  cases b <;> exact readsBack_of rfl (fun f => some (.adecl f.ctl f.pd f.a f.srcB f.c (f.sub 0 5))) rfl (by simp [Fields.withCtl, Fields.withB, Fields.srcB, Fields.ctl, Fields.base, Fields.sub, Fields.bit, flag, ofCode_code, rnd_ofCode_code, hint_ofCode_code, ord_ofW2_code, pcode_setWidth, low_setWidth, above_setWidth, below_shift, at_shift, BitVec.extractLsb'_or])
theorem Sys2Proof.Laws.ReadsBack.afree (c : Ctl) (pd : PredCode) (a : RegCode) : Sys2Proof.Laws.ReadsBack.Statement (.afree c pd a) :=
  readsBack_of rfl (fun f => some (.afree f.ctl f.pd f.a)) rfl rfl
theorem Sys2Proof.Laws.ReadsBack.astat (c : Ctl) (d a : RegCode) : Sys2Proof.Laws.ReadsBack.Statement (.astat c d a) :=
  readsBack_of rfl (fun f => some (.astat f.ctl f.d f.a)) rfl rfl
theorem Sys2Proof.Laws.ReadsBack.arsum (c : Ctl) (fx : Bool) (d : RegCode) (pd : PredCode) (a : RegCode) (b : SrcB) (k : RegCode) : Sys2Proof.Laws.ReadsBack.Statement (.arsum c fx d pd a b k) :=
  by
  cases fx <;> cases b <;> exact readsBack_of rfl (fun f => some (.arsum f.ctl (f.bit 0) f.d f.pd f.a f.srcB f.c)) rfl (by simp [Fields.withCtl, Fields.withB, Fields.srcB, Fields.ctl, Fields.base, Fields.sub, Fields.bit, flag, ofCode_code, rnd_ofCode_code, hint_ofCode_code, ord_ofW2_code, pcode_setWidth, low_setWidth, above_setWidth, below_shift, at_shift, BitVec.extractLsb'_or])
theorem Sys2Proof.Laws.ReadsBack.armax (c : Ctl) (d : RegCode) (pd : PredCode) (a : RegCode) (b : SrcB) (k : RegCode) : Sys2Proof.Laws.ReadsBack.Statement (.armax c d pd a b k) :=
  by
  cases b <;> exact readsBack_of rfl (fun f => some (.armax f.ctl f.d f.pd f.a f.srcB f.c)) rfl rfl
theorem Sys2Proof.Laws.ReadsBack.armin (c : Ctl) (d : RegCode) (pd : PredCode) (a : RegCode) (b : SrcB) (k : RegCode) : Sys2Proof.Laws.ReadsBack.Statement (.armin c d pd a b k) :=
  by
  cases b <;> exact readsBack_of rfl (fun f => some (.armin f.ctl f.d f.pd f.a f.srcB f.c)) rfl rfl
theorem Sys2Proof.Laws.ReadsBack.apfx (c : Ctl) (d : RegCode) (pd : PredCode) (a : RegCode) (b : SrcB) : Sys2Proof.Laws.ReadsBack.Statement (.apfx c d pd a b) :=
  by
  cases b <;> exact readsBack_of rfl (fun f => some (.apfx f.ctl f.d f.pd f.a f.srcB)) rfl rfl
theorem Sys2Proof.Laws.ReadsBack.apick (c : Ctl) (d : RegCode) (pd : PredCode) (a : RegCode) (b : SrcB) : Sys2Proof.Laws.ReadsBack.Statement (.apick c d pd a b) :=
  by
  cases b <;> exact readsBack_of rfl (fun f => some (.apick f.ctl f.d f.pd f.a f.srcB)) rfl rfl
theorem Sys2Proof.Laws.ReadsBack.htclaim (c : Ctl) (tab : BitVec 2) (pd : PredCode) (a : RegCode) : Sys2Proof.Laws.ReadsBack.Statement (.htclaim c tab pd a) :=
  readsBack_of rfl (fun f => some (.htclaim f.ctl (f.sub 0 2) f.pd f.a)) rfl (by simp [Fields.withCtl, Fields.withB, Fields.srcB, Fields.ctl, Fields.base, Fields.sub, Fields.bit, flag, ofCode_code, rnd_ofCode_code, hint_ofCode_code, ord_ofW2_code, pcode_setWidth, low_setWidth, above_setWidth, below_shift, at_shift, BitVec.extractLsb'_or])
theorem Sys2Proof.Laws.ReadsBack.htfree (c : Ctl) (tab : BitVec 2) (pd : PredCode) (a : RegCode) : Sys2Proof.Laws.ReadsBack.Statement (.htfree c tab pd a) :=
  readsBack_of rfl (fun f => some (.htfree f.ctl (f.sub 0 2) f.pd f.a)) rfl (by simp [Fields.withCtl, Fields.withB, Fields.srcB, Fields.ctl, Fields.base, Fields.sub, Fields.bit, flag, ofCode_code, rnd_ofCode_code, hint_ofCode_code, ord_ofW2_code, pcode_setWidth, low_setWidth, above_setWidth, below_shift, at_shift, BitVec.extractLsb'_or])
theorem Sys2Proof.Laws.ReadsBack.htins (c : Ctl) (tab : BitVec 2) (raw : Bool) (d : RegCode) (pd : PredCode) (a : RegCode) (b : SrcB) : Sys2Proof.Laws.ReadsBack.Statement (.htins c tab raw d pd a b) :=
  by
  cases raw <;> cases b <;> exact readsBack_of rfl (fun f => some (.htins f.ctl (f.sub 0 2) (f.bit 3) f.d f.pd f.a f.srcB)) rfl (by simp [Fields.withCtl, Fields.withB, Fields.srcB, Fields.ctl, Fields.base, Fields.sub, Fields.bit, flag, ofCode_code, rnd_ofCode_code, hint_ofCode_code, ord_ofW2_code, pcode_setWidth, low_setWidth, above_setWidth, below_shift, at_shift, BitVec.extractLsb'_or])
theorem Sys2Proof.Laws.ReadsBack.htprobe (c : Ctl) (tab : BitVec 2) (d : RegCode) (pd : PredCode) (a : RegCode) : Sys2Proof.Laws.ReadsBack.Statement (.htprobe c tab d pd a) :=
  readsBack_of rfl (fun f => some (.htprobe f.ctl (f.sub 0 2) f.d f.pd f.a)) rfl (by simp [Fields.withCtl, Fields.withB, Fields.srcB, Fields.ctl, Fields.base, Fields.sub, Fields.bit, flag, ofCode_code, rnd_ofCode_code, hint_ofCode_code, ord_ofW2_code, pcode_setWidth, low_setWidth, above_setWidth, below_shift, at_shift, BitVec.extractLsb'_or])
theorem Sys2Proof.Laws.ReadsBack.htdel (c : Ctl) (tab : BitVec 2) (d a : RegCode) : Sys2Proof.Laws.ReadsBack.Statement (.htdel c tab d a) :=
  readsBack_of rfl (fun f => some (.htdel f.ctl (f.sub 0 2) f.d f.a)) rfl (by simp [Fields.withCtl, Fields.withB, Fields.srcB, Fields.ctl, Fields.base, Fields.sub, Fields.bit, flag, ofCode_code, rnd_ofCode_code, hint_ofCode_code, ord_ofW2_code, pcode_setWidth, low_setWidth, above_setWidth, below_shift, at_shift, BitVec.extractLsb'_or])
theorem Sys2Proof.Laws.ReadsBack.htacc (c : Ctl) (tab : BitVec 2) (raw : Bool) (a : RegCode) (b : SrcB) : Sys2Proof.Laws.ReadsBack.Statement (.htacc c tab raw a b) :=
  by
  cases raw <;> cases b <;> exact readsBack_of rfl (fun f => if f.bit 2 then some (.htaccRes f.ctl (f.sub 0 2) (f.bit 3) f.d f.a f.srcB) else some (.htacc f.ctl (f.sub 0 2) (f.bit 3) f.a f.srcB)) rfl (by simp [Fields.withCtl, Fields.withB, Fields.srcB, Fields.ctl, Fields.base, Fields.sub, Fields.bit, flag, ofCode_code, rnd_ofCode_code, hint_ofCode_code, ord_ofW2_code, pcode_setWidth, low_setWidth, above_setWidth, below_shift, at_shift, BitVec.extractLsb'_or])
theorem Sys2Proof.Laws.ReadsBack.htaccRes (c : Ctl) (tab : BitVec 2) (raw : Bool) (d a : RegCode) (b : SrcB) : Sys2Proof.Laws.ReadsBack.Statement (.htaccRes c tab raw d a b) :=
  by
  cases raw <;> cases b <;> exact readsBack_of rfl (fun f => if f.bit 2 then some (.htaccRes f.ctl (f.sub 0 2) (f.bit 3) f.d f.a f.srcB) else some (.htacc f.ctl (f.sub 0 2) (f.bit 3) f.a f.srcB)) rfl (by simp [Fields.withCtl, Fields.withB, Fields.srcB, Fields.ctl, Fields.base, Fields.sub, Fields.bit, flag, ofCode_code, rnd_ofCode_code, hint_ofCode_code, ord_ofW2_code, pcode_setWidth, low_setWidth, above_setWidth, below_shift, at_shift, BitVec.extractLsb'_or])
theorem Sys2Proof.Laws.ReadsBack.htdrain (c : Ctl) (tab : BitVec 2) (dgl bgl : Bool) (a bs k : RegCode) : Sys2Proof.Laws.ReadsBack.Statement (.htdrain c tab dgl bgl a bs k) :=
  by
  cases dgl <;> cases bgl <;> exact readsBack_of rfl (fun f => some (.htdrain f.ctl (f.sub 0 2) (f.bit 2) (f.bit 3) f.a f.b f.c)) rfl (by simp [Fields.withCtl, Fields.withB, Fields.srcB, Fields.ctl, Fields.base, Fields.sub, Fields.bit, flag, ofCode_code, rnd_ofCode_code, hint_ofCode_code, ord_ofW2_code, pcode_setWidth, low_setWidth, above_setWidth, below_shift, at_shift, BitVec.extractLsb'_or])
theorem Sys2Proof.Laws.ReadsBack.htstat (c : Ctl) (tab : BitVec 2) (d : RegCode) : Sys2Proof.Laws.ReadsBack.Statement (.htstat c tab d) :=
  readsBack_of rfl (fun f => some (.htstat f.ctl (f.sub 0 2) f.d)) rfl (by simp [Fields.withCtl, Fields.withB, Fields.srcB, Fields.ctl, Fields.base, Fields.sub, Fields.bit, flag, ofCode_code, rnd_ofCode_code, hint_ofCode_code, ord_ofW2_code, pcode_setWidth, low_setWidth, above_setWidth, below_shift, at_shift, BitVec.extractLsb'_or])
theorem Sys2Proof.Laws.ReadsBack.thset (c : Ctl) (slot : BitVec 4) (d a : RegCode) : Sys2Proof.Laws.ReadsBack.Statement (.thset c slot d a) :=
  readsBack_of rfl (fun f => some (.thset f.ctl (f.sub 0 4) f.d f.a)) rfl (by simp [Fields.withCtl, Fields.withB, Fields.srcB, Fields.ctl, Fields.base, Fields.sub, Fields.bit, flag, ofCode_code, rnd_ofCode_code, hint_ofCode_code, ord_ofW2_code, pcode_setWidth, low_setWidth, above_setWidth, below_shift, at_shift, BitVec.extractLsb'_or])
theorem Sys2Proof.Laws.ReadsBack.thget (c : Ctl) (d a : RegCode) : Sys2Proof.Laws.ReadsBack.Statement (.thget c d a) :=
  readsBack_of rfl (fun f => some (.thget f.ctl f.d f.a)) rfl rfl
theorem Sys2Proof.Laws.ReadsBack.thdrop (c : Ctl) (a : RegCode) : Sys2Proof.Laws.ReadsBack.Statement (.thdrop c a) :=
  readsBack_of rfl (fun f => if f.bit 0 then some (.thdropRevoke f.ctl f.a) else some (.thdrop f.ctl f.a)) rfl (by simp [Fields.withCtl, Fields.withB, Fields.srcB, Fields.ctl, Fields.base, Fields.sub, Fields.bit, flag, ofCode_code, rnd_ofCode_code, hint_ofCode_code, ord_ofW2_code, pcode_setWidth, low_setWidth, above_setWidth, below_shift, at_shift, BitVec.extractLsb'_or])
theorem Sys2Proof.Laws.ReadsBack.thdropRevoke (c : Ctl) (a : RegCode) : Sys2Proof.Laws.ReadsBack.Statement (.thdropRevoke c a) :=
  readsBack_of rfl (fun f => if f.bit 0 then some (.thdropRevoke f.ctl f.a) else some (.thdrop f.ctl f.a)) rfl (by simp [Fields.withCtl, Fields.withB, Fields.srcB, Fields.ctl, Fields.base, Fields.sub, Fields.bit, flag, ofCode_code, rnd_ofCode_code, hint_ofCode_code, ord_ofW2_code, pcode_setWidth, low_setWidth, above_setWidth, below_shift, at_shift, BitVec.extractLsb'_or])
theorem Sys2Proof.Laws.ReadsBack.cpy (c : Ctl) (bgl : Bool) (a bs k : RegCode) : Sys2Proof.Laws.ReadsBack.Statement (.cpy c bgl a bs k) :=
  by
  cases bgl <;> exact readsBack_of rfl (fun f => some (.cpy f.ctl (f.bit 0) f.a f.b f.c)) rfl (by simp [Fields.withCtl, Fields.withB, Fields.srcB, Fields.ctl, Fields.base, Fields.sub, Fields.bit, flag, ofCode_code, rnd_ofCode_code, hint_ofCode_code, ord_ofW2_code, pcode_setWidth, low_setWidth, above_setWidth, below_shift, at_shift, BitVec.extractLsb'_or])
theorem Sys2Proof.Laws.ReadsBack.cpyg (c : Ctl) (bgl : Bool) (a bs k : RegCode) : Sys2Proof.Laws.ReadsBack.Statement (.cpyg c bgl a bs k) :=
  by
  cases bgl <;> exact readsBack_of rfl (fun f => some (.cpyg f.ctl (f.bit 0) f.a f.b f.c)) rfl (by simp [Fields.withCtl, Fields.withB, Fields.srcB, Fields.ctl, Fields.base, Fields.sub, Fields.bit, flag, ofCode_code, rnd_ofCode_code, hint_ofCode_code, ord_ofW2_code, pcode_setWidth, low_setWidth, above_setWidth, below_shift, at_shift, BitVec.extractLsb'_or])
theorem Sys2Proof.Laws.ReadsBack.cpys (c : Ctl) (bgl : Bool) (a bs k : RegCode) : Sys2Proof.Laws.ReadsBack.Statement (.cpys c bgl a bs k) :=
  by
  cases bgl <;> exact readsBack_of rfl (fun f => if f.bit 1 then some (.cpysRadd f.ctl (f.bit 0) f.a f.b f.c) else some (.cpys f.ctl (f.bit 0) f.a f.b f.c)) rfl (by simp [Fields.withCtl, Fields.withB, Fields.srcB, Fields.ctl, Fields.base, Fields.sub, Fields.bit, flag, ofCode_code, rnd_ofCode_code, hint_ofCode_code, ord_ofW2_code, pcode_setWidth, low_setWidth, above_setWidth, below_shift, at_shift, BitVec.extractLsb'_or])
theorem Sys2Proof.Laws.ReadsBack.cpysRadd (c : Ctl) (bgl : Bool) (a bs k : RegCode) : Sys2Proof.Laws.ReadsBack.Statement (.cpysRadd c bgl a bs k) :=
  by
  cases bgl <;> exact readsBack_of rfl (fun f => if f.bit 1 then some (.cpysRadd f.ctl (f.bit 0) f.a f.b f.c) else some (.cpys f.ctl (f.bit 0) f.a f.b f.c)) rfl (by simp [Fields.withCtl, Fields.withB, Fields.srcB, Fields.ctl, Fields.base, Fields.sub, Fields.bit, flag, ofCode_code, rnd_ofCode_code, hint_ofCode_code, ord_ofW2_code, pcode_setWidth, low_setWidth, above_setWidth, below_shift, at_shift, BitVec.extractLsb'_or])
theorem Sys2Proof.Laws.ReadsBack.cpyr (c : Ctl) (bgl : Bool) (a bs k : RegCode) : Sys2Proof.Laws.ReadsBack.Statement (.cpyr c bgl a bs k) :=
  by
  cases bgl <;> exact readsBack_of rfl (fun f => some (.cpyr f.ctl (f.bit 0) f.a f.b f.c)) rfl (by simp [Fields.withCtl, Fields.withB, Fields.srcB, Fields.ctl, Fields.base, Fields.sub, Fields.bit, flag, ofCode_code, rnd_ofCode_code, hint_ofCode_code, ord_ofW2_code, pcode_setWidth, low_setWidth, above_setWidth, below_shift, at_shift, BitVec.extractLsb'_or])
theorem Sys2Proof.Laws.ReadsBack.mrsv (c : Ctl) (wide : Bool) (pd : PredCode) (a bs : RegCode) : Sys2Proof.Laws.ReadsBack.Statement (.mrsv c wide pd a bs) :=
  by
  cases wide <;> exact readsBack_of rfl (fun f => some (.mrsv f.ctl (f.bit 0) f.pd f.a f.b)) rfl (by simp [Fields.withCtl, Fields.withB, Fields.srcB, Fields.ctl, Fields.base, Fields.sub, Fields.bit, flag, ofCode_code, rnd_ofCode_code, hint_ofCode_code, ord_ofW2_code, pcode_setWidth, low_setWidth, above_setWidth, below_shift, at_shift, BitVec.extractLsb'_or])
theorem Sys2Proof.Laws.ReadsBack.mrel (c : Ctl) (a bs : RegCode) : Sys2Proof.Laws.ReadsBack.Statement (.mrel c a bs) :=
  readsBack_of rfl (fun f => some (.mrel f.ctl f.a f.b)) rfl rfl
theorem Sys2Proof.Laws.ReadsBack.mpri (c : Ctl) (a bs : RegCode) : Sys2Proof.Laws.ReadsBack.Statement (.mpri c a bs) :=
  readsBack_of rfl (fun f => some (.mpri f.ctl f.a f.b)) rfl rfl
theorem Sys2Proof.Laws.ReadsBack.mzero (c : Ctl) (a : RegCode) : Sys2Proof.Laws.ReadsBack.Statement (.mzero c a) :=
  readsBack_of rfl (fun f => some (.mzero f.ctl f.a)) rfl rfl
theorem Sys2Proof.Laws.ReadsBack.mma (c : Ctl) (tile : BitVec 3) (a bs k : RegCode) : Sys2Proof.Laws.ReadsBack.Statement (.mma c tile a bs k) :=
  readsBack_of rfl (fun f => some (.mma f.ctl (f.sub 0 3) f.a f.b f.c)) rfl (by simp [Fields.withCtl, Fields.withB, Fields.srcB, Fields.ctl, Fields.base, Fields.sub, Fields.bit, flag, ofCode_code, rnd_ofCode_code, hint_ofCode_code, ord_ofW2_code, pcode_setWidth, low_setWidth, above_setWidth, below_shift, at_shift, BitVec.extractLsb'_or])
theorem Sys2Proof.Laws.ReadsBack.mmat (c : Ctl) (tile : BitVec 3) (bgl : Bool) (a bs k : RegCode) : Sys2Proof.Laws.ReadsBack.Statement (.mmat c tile bgl a bs k) :=
  by
  cases bgl <;> exact readsBack_of rfl (fun f => some (.mmat f.ctl (f.sub 0 3) (f.bit 3) f.a f.b f.c)) rfl (by simp [Fields.withCtl, Fields.withB, Fields.srcB, Fields.ctl, Fields.base, Fields.sub, Fields.bit, flag, ofCode_code, rnd_ofCode_code, hint_ofCode_code, ord_ofW2_code, pcode_setWidth, low_setWidth, above_setWidth, below_shift, at_shift, BitVec.extractLsb'_or])
theorem Sys2Proof.Laws.ReadsBack.mld (c : Ctl) (tile : BitVec 3) (acct : BitVec 2) (a bs k : RegCode) : Sys2Proof.Laws.ReadsBack.Statement (.mld c tile acct a bs k) :=
  readsBack_of rfl (fun f => some (.mld f.ctl (f.sub 0 3) (f.sub 3 2) f.a f.b f.c)) rfl (by simp [Fields.withCtl, Fields.withB, Fields.srcB, Fields.ctl, Fields.base, Fields.sub, Fields.bit, flag, ofCode_code, rnd_ofCode_code, hint_ofCode_code, ord_ofW2_code, pcode_setWidth, low_setWidth, above_setWidth, below_shift, at_shift, BitVec.extractLsb'_or])
theorem Sys2Proof.Laws.ReadsBack.mst (c : Ctl) (tile : BitVec 3) (acct : BitVec 2) (a bs k : RegCode) : Sys2Proof.Laws.ReadsBack.Statement (.mst c tile acct a bs k) :=
  readsBack_of rfl (fun f => some (.mst f.ctl (f.sub 0 3) (f.sub 3 2) f.a f.b f.c)) rfl (by simp [Fields.withCtl, Fields.withB, Fields.srcB, Fields.ctl, Fields.base, Fields.sub, Fields.bit, flag, ofCode_code, rnd_ofCode_code, hint_ofCode_code, ord_ofW2_code, pcode_setWidth, low_setWidth, above_setWidth, below_shift, at_shift, BitVec.extractLsb'_or])
theorem Sys2Proof.Laws.ReadsBack.csrr (c : Ctl) (d : RegCode) (csr : BitVec 12) : Sys2Proof.Laws.ReadsBack.Statement (.csrr c d csr) :=
  readsBack_of rfl (fun f => some (.csrr f.ctl f.d (f.sub 0 12))) rfl (by simp [Fields.withCtl, Fields.withB, Fields.srcB, Fields.ctl, Fields.base, Fields.sub, Fields.bit, flag, ofCode_code, rnd_ofCode_code, hint_ofCode_code, ord_ofW2_code, pcode_setWidth, low_setWidth, above_setWidth, below_shift, at_shift, BitVec.extractLsb'_or])
theorem Sys2Proof.Laws.ReadsBack.csrw (c : Ctl) (a : RegCode) (csr : BitVec 12) : Sys2Proof.Laws.ReadsBack.Statement (.csrw c a csr) :=
  readsBack_of rfl (fun f => some (.csrw f.ctl f.a (f.sub 0 12))) rfl (by simp [Fields.withCtl, Fields.withB, Fields.srcB, Fields.ctl, Fields.base, Fields.sub, Fields.bit, flag, ofCode_code, rnd_ofCode_code, hint_ofCode_code, ord_ofW2_code, pcode_setWidth, low_setWidth, above_setWidth, below_shift, at_shift, BitVec.extractLsb'_or])
theorem Sys2Proof.Laws.ReadsBack.tlbiPage (c : Ctl) (loc : Bool) (a : RegCode) : Sys2Proof.Laws.ReadsBack.Statement (.tlbiPage c loc a) :=
  by
  cases loc <;> exact readsBack_of rfl (fun f => if f.bit 0 then some (.tlbiAll f.ctl (f.bit 2) f.a) else some (.tlbiPage f.ctl (f.bit 2) f.a)) rfl (by simp [Fields.withCtl, Fields.withB, Fields.srcB, Fields.ctl, Fields.base, Fields.sub, Fields.bit, flag, ofCode_code, rnd_ofCode_code, hint_ofCode_code, ord_ofW2_code, pcode_setWidth, low_setWidth, above_setWidth, below_shift, at_shift, BitVec.extractLsb'_or])
theorem Sys2Proof.Laws.ReadsBack.tlbiAll (c : Ctl) (loc : Bool) (a : RegCode) : Sys2Proof.Laws.ReadsBack.Statement (.tlbiAll c loc a) :=
  by
  cases loc <;> exact readsBack_of rfl (fun f => if f.bit 0 then some (.tlbiAll f.ctl (f.bit 2) f.a) else some (.tlbiPage f.ctl (f.bit 2) f.a)) rfl (by simp [Fields.withCtl, Fields.withB, Fields.srcB, Fields.ctl, Fields.base, Fields.sub, Fields.bit, flag, ofCode_code, rnd_ofCode_code, hint_ofCode_code, ord_ofW2_code, pcode_setWidth, low_setWidth, above_setWidth, below_shift, at_shift, BitVec.extractLsb'_or])
theorem Sys2Proof.Laws.ReadsBack.l1wb (c : Ctl) : Sys2Proof.Laws.ReadsBack.Statement (.l1wb c) :=
  readsBack_of rfl (fun f => some (.l1wb f.ctl)) rfl rfl
theorem Sys2Proof.Laws.ReadsBack.halt (c : Ctl) : Sys2Proof.Laws.ReadsBack.Statement (.halt c) :=
  readsBack_of rfl (fun f => some (.halt f.ctl)) rfl rfl
theorem Sys2Proof.Laws.ReadsBack.clauseIssue (core port : Nat) : Sys2Proof.Laws.ReadsBack.Statement (.clauseIssue core port) := nofun
theorem Sys2Proof.Laws.ReadsBack.regangBoundRelease (gid : Nat) (addr : VAddr) : Sys2Proof.Laws.ReadsBack.Statement (.regangBoundRelease gid addr) := nofun
theorem Sys2Proof.Laws.ReadsBack.detRegangBound (gid : Nat) (addr : VAddr) : Sys2Proof.Laws.ReadsBack.Statement (.detRegangBound gid addr) := nofun
theorem Sys2Proof.Laws.ReadsBack.minClockRelease (core port : Nat) : Sys2Proof.Laws.ReadsBack.Statement (.minClockRelease core port) := nofun
theorem Sys2Proof.Laws.ReadsBack.detYield (core port : Nat) : Sys2Proof.Laws.ReadsBack.Statement (.detYield core port) := nofun
theorem Sys2Proof.Laws.ReadsBack.waitWake (gid quad : Nat) : Sys2Proof.Laws.ReadsBack.Statement (.waitWake gid quad) := nofun
theorem Sys2Proof.Laws.ReadsBack.loadDataReturn (op line : Nat) : Sys2Proof.Laws.ReadsBack.Statement (.loadDataReturn op line) := nofun
theorem Sys2Proof.Laws.ReadsBack.atomicStepAtHome (op : Nat) : Sys2Proof.Laws.ReadsBack.Statement (.atomicStepAtHome op) := nofun
theorem Sys2Proof.Laws.ReadsBack.releaseAtHome (op : Nat) : Sys2Proof.Laws.ReadsBack.Statement (.releaseAtHome op) := nofun
theorem Sys2Proof.Laws.ReadsBack.remoteAcquire (op : Nat) : Sys2Proof.Laws.ReadsBack.Statement (.remoteAcquire op) := nofun
theorem Sys2Proof.Laws.ReadsBack.pullCore (core : Nat) (upTo : Word) : Sys2Proof.Laws.ReadsBack.Statement (.pullCore core upTo) := nofun
theorem Sys2Proof.Laws.ReadsBack.updateOnlyRecall (line : Nat) : Sys2Proof.Laws.ReadsBack.Statement (.updateOnlyRecall line) := nofun
theorem Sys2Proof.Laws.ReadsBack.l1Eviction (core line : Nat) : Sys2Proof.Laws.ReadsBack.Statement (.l1Eviction core line) := nofun
theorem Sys2Proof.Laws.ReadsBack.homeEviction (line : Nat) : Sys2Proof.Laws.ReadsBack.Statement (.homeEviction line) := nofun
theorem Sys2Proof.Laws.ReadsBack.leafwrite (op : Nat) : Sys2Proof.Laws.ReadsBack.Statement (.leafwrite op) := nofun
theorem Sys2Proof.Laws.ReadsBack.rangeStep (op : Nat) : Sys2Proof.Laws.ReadsBack.Statement (.rangeStep op) := nofun
theorem Sys2Proof.Laws.ReadsBack.descendStep (op : Nat) : Sys2Proof.Laws.ReadsBack.Statement (.descendStep op) := nofun
theorem Sys2Proof.Laws.ReadsBack.regionBuild (op : Nat) : Sys2Proof.Laws.ReadsBack.Statement (.regionBuild op) := nofun
theorem Sys2Proof.Laws.ReadsBack.swageAccept (core : Nat) : Sys2Proof.Laws.ReadsBack.Statement (.swageAccept core) := nofun
theorem Sys2Proof.Laws.ReadsBack.swageCredit (core cmd move : Nat) : Sys2Proof.Laws.ReadsBack.Statement (.swageCredit core cmd move) := nofun
theorem Sys2Proof.Laws.ReadsBack.cpyrPermit (core cmd : Nat) : Sys2Proof.Laws.ReadsBack.Statement (.cpyrPermit core cmd) := nofun
theorem Sys2Proof.Laws.ReadsBack.drainCredit (op n : Nat) : Sys2Proof.Laws.ReadsBack.Statement (.drainCredit op n) := nofun
theorem Sys2Proof.Laws.ReadsBack.anvilGrant (cluster : Nat) : Sys2Proof.Laws.ReadsBack.Statement (.anvilGrant cluster) := nofun
theorem Sys2Proof.Laws.ReadsBack.passStep (cluster : Nat) : Sys2Proof.Laws.ReadsBack.Statement (.passStep cluster) := nofun
theorem Sys2Proof.Laws.ReadsBack.mmatTrigger (cluster req : Nat) : Sys2Proof.Laws.ReadsBack.Statement (.mmatTrigger cluster req) := nofun
theorem Sys2Proof.Laws.ReadsBack.anvilFaultSuspend (cluster : Nat) : Sys2Proof.Laws.ReadsBack.Statement (.anvilFaultSuspend cluster) := nofun
theorem Sys2Proof.Laws.ReadsBack.impreciseStoreFault (core entry : Nat) : Sys2Proof.Laws.ReadsBack.Statement (.impreciseStoreFault core entry) := nofun
theorem Sys2Proof.Laws.ReadsBack.placement (part : Nat) : Sys2Proof.Laws.ReadsBack.Statement (.placement part) := nofun
theorem Sys2Proof.Laws.ReadsBack.teamEnd (team : Nat) : Sys2Proof.Laws.ReadsBack.Statement (.teamEnd team) := nofun
theorem Sys2Proof.Laws.ReadsBack.launchEnd (launch : Nat) : Sys2Proof.Laws.ReadsBack.Statement (.launchEnd launch) := nofun
theorem Sys2Proof.Laws.ReadsBack.hintCheck (launch idx : Nat) : Sys2Proof.Laws.ReadsBack.Statement (.hintCheck launch idx) := nofun
theorem Sys2Proof.Laws.ReadsBack.preemptionRequest (ctx : Nat) : Sys2Proof.Laws.ReadsBack.Statement (.preemptionRequest ctx) := nofun
theorem Sys2Proof.Laws.ReadsBack.deadline (ctx : Nat) : Sys2Proof.Laws.ReadsBack.Statement (.deadline ctx) := nofun
theorem Sys2Proof.Laws.ReadsBack.suspension (ctx : Nat) : Sys2Proof.Laws.ReadsBack.Statement (.suspension ctx) := nofun
theorem Sys2Proof.Laws.ReadsBack.timelimit (ctx : Nat) : Sys2Proof.Laws.ReadsBack.Statement (.timelimit ctx) := nofun
theorem Sys2Proof.Laws.ReadsBack.eccCorrected (strike : Strike) : Sys2Proof.Laws.ReadsBack.Statement (.eccCorrected strike) := nofun
theorem Sys2Proof.Laws.ReadsBack.eccUncorrectable (strike : Strike) : Sys2Proof.Laws.ReadsBack.Statement (.eccUncorrectable strike) := nofun
theorem Sys2Proof.Laws.ReadsBack.coreRejoin (core : Nat) : Sys2Proof.Laws.ReadsBack.Statement (.coreRejoin core) := nofun
theorem Sys2Proof.Laws.ReadsBack.scrub (sector : Nat) : Sys2Proof.Laws.ReadsBack.Statement (.scrub sector) := nofun
theorem Sys2Proof.Laws.ReadsBack.linkDown (link : Nat) : Sys2Proof.Laws.ReadsBack.Statement (.linkDown link) := nofun
theorem Sys2Proof.Laws.ReadsBack.peerInboundAccess (link addr : Nat) (data : Option (List Byte)) : Sys2Proof.Laws.ReadsBack.Statement (.peerInboundAccess link addr data) := nofun
theorem Sys2Proof.Laws.ReadsBack.hostCompletionError (op line : Nat) : Sys2Proof.Laws.ReadsBack.Statement (.hostCompletionError op line) := nofun
theorem Sys2Proof.Laws.ReadsBack.thermalThrottle (die temp : Nat) : Sys2Proof.Laws.ReadsBack.Statement (.thermalThrottle die temp) := nofun
theorem Sys2Proof.Laws.ReadsBack.thermalStop (die temp : Nat) : Sys2Proof.Laws.ReadsBack.Statement (.thermalStop die temp) := nofun
theorem Sys2Proof.Laws.ReadsBack.eventPost (func : Nat) : Sys2Proof.Laws.ReadsBack.Statement (.eventPost func) := nofun
theorem Sys2Proof.Laws.ReadsBack.launchPortWrite (func off : Nat) (data : List Byte) : Sys2Proof.Laws.ReadsBack.Statement (.launchPortWrite func off data) := nofun
theorem Sys2Proof.Laws.ReadsBack.bar2Write (func addr : Nat) (data : List Byte) : Sys2Proof.Laws.ReadsBack.Statement (.bar2Write func addr data) := nofun
theorem Sys2Proof.Laws.ReadsBack.bar2Read (func addr len : Nat) : Sys2Proof.Laws.ReadsBack.Statement (.bar2Read func addr len) := nofun
theorem Sys2Proof.Laws.ReadsBack.registerWrite (func off : Nat) (data : List Byte) : Sys2Proof.Laws.ReadsBack.Statement (.registerWrite func off data) := nofun
theorem Sys2Proof.Laws.ReadsBack.ctxcreate (h : Hdr) (img : Nat) : Sys2Proof.Laws.ReadsBack.Statement (.ctxcreate h img) := nofun
theorem Sys2Proof.Laws.ReadsBack.ctxdestroy (h : Hdr) : Sys2Proof.Laws.ReadsBack.Statement (.ctxdestroy h) := nofun
theorem Sys2Proof.Laws.ReadsBack.preempt (h : Hdr) : Sys2Proof.Laws.ReadsBack.Statement (.preempt h) := nofun
theorem Sys2Proof.Laws.ReadsBack.hostResume (h : Hdr) (g : GroupName) : Sys2Proof.Laws.ReadsBack.Statement (.hostResume h g) := nofun
theorem Sys2Proof.Laws.ReadsBack.hostReturn (h : Hdr) (g : GroupName) : Sys2Proof.Laws.ReadsBack.Statement (.hostReturn h g) := nofun
theorem Sys2Proof.Laws.ReadsBack.hostKill (h : Hdr) (g : GroupName) : Sys2Proof.Laws.ReadsBack.Statement (.hostKill h g) := nofun
theorem Sys2Proof.Laws.ReadsBack.ptwrite (h : Hdr) (pa : Nat) (value : DWord) : Sys2Proof.Laws.ReadsBack.Statement (.ptwrite h pa value) := nofun
theorem Sys2Proof.Laws.ReadsBack.invalPage (h : Hdr) (va : VAddr) : Sys2Proof.Laws.ReadsBack.Statement (.invalPage h va) := nofun
theorem Sys2Proof.Laws.ReadsBack.invalAll (h : Hdr) : Sys2Proof.Laws.ReadsBack.Statement (.invalAll h) := nofun
theorem Sys2Proof.Laws.ReadsBack.admitApprove (h : Hdr) (hid : Nat) : Sys2Proof.Laws.ReadsBack.Statement (.admitApprove h hid) := nofun
theorem Sys2Proof.Laws.ReadsBack.admitRefuse (h : Hdr) (hid : Nat) : Sys2Proof.Laws.ReadsBack.Statement (.admitRefuse h hid) := nofun
theorem Sys2Proof.Laws.ReadsBack.rgrantGrant (h : Hdr) (rid : Nat) : Sys2Proof.Laws.ReadsBack.Statement (.rgrantGrant h rid) := nofun
theorem Sys2Proof.Laws.ReadsBack.rgrantRefuse (h : Hdr) (rid : Nat) : Sys2Proof.Laws.ReadsBack.Statement (.rgrantRefuse h rid) := nofun
theorem Sys2Proof.Laws.ReadsBack.frameTrap (h : Hdr) (g : GroupName) (dst : Nat) : Sys2Proof.Laws.ReadsBack.Statement (.frameTrap h g dst) := nofun
theorem Sys2Proof.Laws.ReadsBack.frameRecord (h : Hdr) (hid dst : Nat) : Sys2Proof.Laws.ReadsBack.Statement (.frameRecord h hid dst) := nofun
theorem Sys2Proof.Laws.ReadsBack.pset (h : Hdr) (img : Nat) : Sys2Proof.Laws.ReadsBack.Statement (.pset h img) := nofun
theorem Sys2Proof.Laws.ReadsBack.attest (h : Hdr) (nonce : List Byte) (dst : Nat) : Sys2Proof.Laws.ReadsBack.Statement (.attest h nonce dst) := nofun
theorem Sys2Proof.Laws.ReadsBack.errlog (h : Hdr) (len dst : Nat) : Sys2Proof.Laws.ReadsBack.Statement (.errlog h len dst) := nofun
theorem Sys2Proof.Laws.ReadsBack.errlogCerts (h : Hdr) (len dst : Nat) : Sys2Proof.Laws.ReadsBack.Statement (.errlogCerts h len dst) := nofun
theorem Sys2Proof.Laws.ReadsBack.peerwinOutbound (h : Hdr) (link len : Nat) : Sys2Proof.Laws.ReadsBack.Statement (.peerwinOutbound h link len) := nofun
theorem Sys2Proof.Laws.ReadsBack.peerwinInbound (h : Hdr) (link ext len : Nat) : Sys2Proof.Laws.ReadsBack.Statement (.peerwinInbound h link ext len) := nofun
theorem Sys2Proof.Laws.ReadsBack.fwstageImage (h : Hdr) (stage len src : Nat) : Sys2Proof.Laws.ReadsBack.Statement (.fwstageImage h stage len src) := nofun
theorem Sys2Proof.Laws.ReadsBack.fwstageSvn (h : Hdr) (stage svn : Nat) : Sys2Proof.Laws.ReadsBack.Statement (.fwstageSvn h stage svn) := nofun
theorem Sys2Proof.Laws.ReadsBack.power (h : Hdr) (watts : Nat) : Sys2Proof.Laws.ReadsBack.Statement (.power h watts) := nofun
theorem Sys2Proof.Laws.ReadsBack.storeAcknowledgement (op : Nat) : Sys2Proof.Laws.ReadsBack.Statement (.storeAcknowledgement op) := nofun
theorem Sys2Proof.Laws.ReadsBack.unitEnd (cluster : Nat) : Sys2Proof.Laws.ReadsBack.Statement (.unitEnd cluster) := nofun
theorem Sys2Proof.Laws.ReadsBack.crucibleOperationApplied (core : Nat) : Sys2Proof.Laws.ReadsBack.Statement (.crucibleOperationApplied core) := nofun
theorem Sys2Proof.Laws.ReadsBack.linkRetry (link : Nat) : Sys2Proof.Laws.ReadsBack.Statement (.linkRetry link) := nofun
theorem Sys2Proof.Laws.ReadsBack.moduleReset : Sys2Proof.Laws.ReadsBack.Statement (.moduleReset) := nofun
theorem Sys2Proof.Laws.ReadsBack.powerThrottle : Sys2Proof.Laws.ReadsBack.Statement (.powerThrottle) := nofun
end

