-- ==== Sys2Proof/Laws/Registers.lean ====
section
/-!
SUPPORT. Writing registers and predicates: read after write for single registers, register sets and destinations over
lanes, and what a register instruction's results leave as they were.
-/
namespace Sys2Proof.Machine

/-! ## Lanes -/

theorem mem_lanesOf (m : LaneMask) (l : Nat) : l ∈ lanesOf m ↔ m.getLsbD l = true := by
  simp only [lanesOf, List.mem_filter, List.mem_range]
  constructor
  · exact fun h => h.2
  · intro h
    refine ⟨?_, h⟩
    by_contra hl
    rw [BitVec.getLsbD_of_ge _ _ (by omega)] at h
    exact absurd h (by simp)

theorem lanesOf_nodup (m : LaneMask) : (lanesOf m).Nodup := List.nodup_range.filter _

/-- The lowest lane of a mask is in it. -/
theorem lowestLane_mem {m : LaneMask} {l : Nat} (h : lowestLane m = some l) : m.getLsbD l = true :=
  List.find?_some h

/-- The lowest lane is the first of the mask's lanes. -/
theorem lowestLane_eq_head (m : LaneMask) : lowestLane m = (lanesOf m).head? := by
  unfold lowestLane lanesOf
  rw [List.head?_filter]

/-- The lanes of a meet are those of the first mask that the second holds. -/
theorem lanesOf_and (m p : LaneMask) : lanesOf (m &&& p) = (lanesOf m).filter p.getLsbD := by
  unfold lanesOf
  rw [List.filter_filter]
  congr 1
  funext l
  simp [Bool.and_comm]

/-! ## One register -/

theorem readReg_writeReg (g : Group) (l r l' r' : Nat) (v : Word) :
    readReg (writeReg g l r v) l' r' = if r = r' ∧ (r < 96 → l = l') then v else readReg g l' r' := by
  unfold writeReg readReg
  by_cases hr : r < 96
  · by_cases hr' : r' < 96
    · simp only [hr, hr', if_true, Store.get_set, forall_const]
      by_cases h : r = r' ∧ l = l'
      · obtain ⟨rfl, rfl⟩ := h; simp
      · rw [if_neg h, if_neg (by omega)]
    · have : ¬ (r = r' ∧ (r < 96 → l = l')) := by rintro ⟨rfl, _⟩; exact hr' hr
      rw [if_neg this]; simp only [hr, hr', if_true, if_false]
  · by_cases hr' : r' < 96
    · have : ¬ (r = r' ∧ (r < 96 → l = l')) := by rintro ⟨rfl, _⟩; exact hr hr'
      rw [if_neg this]; simp only [hr, hr', if_true, if_false]
    · simp only [hr, hr', if_false, Store.get_set, false_implies, and_true]
      by_cases h : r = r'
      · simp [h]
      · rw [if_neg h, if_neg (by omega)]

theorem writeReg_fields (g : Group) (l r : Nat) (v : Word) :
    writeReg g l r v = { g with v := (writeReg g l r v).v, sr := (writeReg g l r v).sr } := by
  unfold writeReg; split <;> rfl

/-! ## Register sets -/

theorem writeSet_fields (g : Group) (l r v n : Nat) :
    writeSet g l r v n = { g with v := (writeSet g l r v n).v, sr := (writeSet g l r v n).sr } := by
  induction n generalizing g r v with
  | zero => rfl
  | succ n ih =>
    simp only [writeSet]
    rw [ih, writeReg_fields]

theorem readReg_writeSet (g : Group) (l r v n l' r' : Nat) :
    readReg (writeSet g l r v n) l' r' =
      if (r ≤ r' ∧ r' < r + n) ∧ (r' < 96 → l = l') then BitVec.ofNat 32 (v / 2 ^ (32 * (r' - r)))
      else readReg g l' r' := by
  induction n generalizing g r v with
  | zero =>
    have : ¬ ((r ≤ r' ∧ r' < r + 0) ∧ (r' < 96 → l = l')) := by omega
    simp only [writeSet, this, if_false]
  | succ n ih =>
    simp only [writeSet, ih, readReg_writeReg]
    by_cases hl : r' < 96 → l = l'
    · by_cases h : r = r'
      · subst h
        have h1 : ¬ ((r + 1 ≤ r ∧ r < r + 1 + n) ∧ (r < 96 → l = l')) := by omega
        have h2 : (r ≤ r ∧ r < r + (n + 1)) ∧ (r < 96 → l = l') := ⟨by omega, hl⟩
        rw [if_neg h1, if_pos ⟨rfl, hl⟩, if_pos h2]
        simp
      · by_cases h3 : r + 1 ≤ r' ∧ r' < r + 1 + n
        · rw [if_pos ⟨h3, hl⟩, if_pos ⟨by omega, hl⟩, Nat.div_div_eq_div_mul, ← Nat.pow_add]
          have : 32 + 32 * (r' - (r + 1)) = 32 * (r' - r) := by omega
          rw [this]
        · rw [if_neg (fun k => h3 k.1), if_neg (fun k => h k.1), if_neg (fun k => by omega)]
    · have e1 : ¬ ((r + 1 ≤ r' ∧ r' < r + 1 + n) ∧ (r' < 96 → l = l')) := fun k => hl k.2
      have e2 : ¬ (r = r' ∧ (r < 96 → l = l')) := by rintro ⟨rfl, k⟩; exact hl k
      have e3 : ¬ ((r ≤ r' ∧ r' < r + (n + 1)) ∧ (r' < 96 → l = l')) := fun k => hl k.2
      rw [if_neg e1, if_neg e2, if_neg e3]

/-- The 32-bit limbs of a number give it back, modulo their width. -/
theorem limbs (v n : Nat) :
    (List.range n).foldr (fun i acc => (BitVec.ofNat 32 (v / 2 ^ (32 * i))).toNat + 2 ^ 32 * acc) 0 = v % 2 ^ (32 * n) := by
  have gen : ∀ (n k : Nat), (List.range' k n).foldr
      (fun i acc => (BitVec.ofNat 32 (v / 2 ^ (32 * i))).toNat + 2 ^ 32 * acc) 0 = v / 2 ^ (32 * k) % 2 ^ (32 * n) := by
    intro n
    induction n with
    | zero => intro k; simp [Nat.mod_one]
    | succ n ih =>
      intro k
      rw [List.range'_succ, List.foldr_cons, ih, BitVec.toNat_ofNat,
        show 32 * (k + 1) = 32 * k + 32 by omega, Nat.pow_add, ← Nat.div_div_eq_div_mul,
        show 32 * (n + 1) = 32 + 32 * n by omega, Nat.pow_add, Nat.mod_mul]
  have := gen n 0
  simpa [List.range_eq_range'] using this

/-- A value written to a register set reads back. -/
theorem readSet_writeSet (g : Group) (l : Nat) (d : RegCode) (w v : Nat) (hv : v < 2 ^ w) :
    readSet (writeSet g l d.toNat v ((w + 31) / 32)) l d w = v := by
  unfold readSet
  have : ∀ (xs : List Nat), (∀ i ∈ xs, i < (w + 31) / 32) →
      xs.foldr (fun i acc => (readReg (writeSet g l d.toNat v ((w + 31) / 32)) l (d.toNat + i)).toNat + 2 ^ 32 * acc) 0 =
      xs.foldr (fun i acc => (BitVec.ofNat 32 (v / 2 ^ (32 * i))).toNat + 2 ^ 32 * acc) 0 := by
    intro xs hx
    induction xs with
    | nil => rfl
    | cons x xs ih =>
      have hx' := hx x (by simp)
      rw [List.foldr_cons, List.foldr_cons, ih (fun i hi => hx i (by simp [hi])), readReg_writeSet,
        if_pos ⟨by omega, fun _ => rfl⟩, Nat.add_sub_cancel_left]
  rw [this _ (fun i hi => List.mem_range.mp hi), limbs]
  have h1 : v < 2 ^ (32 * ((w + 31) / 32)) := lt_of_lt_of_le hv (Nat.pow_le_pow_right (by omega) (by omega))
  have h2 : v < 2 ^ (max w 32) := lt_of_lt_of_le hv (Nat.pow_le_pow_right (by omega) (by omega))
  rw [Nat.mod_eq_of_lt h1, Nat.mod_eq_of_lt h2]

/-- A set of another lane, or of other registers, reads as before. -/
theorem readSet_congr (g g' : Group) (l : Nat) (d : RegCode) (w : Nat)
    (h : ∀ r, d.toNat ≤ r → r < d.toNat + (w + 31) / 32 → readReg g' l r = readReg g l r) :
    readSet g' l d w = readSet g l d w := by
  unfold readSet
  congr 1
  have : ∀ (xs : List Nat), (∀ i ∈ xs, i < (w + 31) / 32) →
      xs.foldr (fun i acc => (readReg g' l (d.toNat + i)).toNat + 2 ^ 32 * acc) 0 =
      xs.foldr (fun i acc => (readReg g l (d.toNat + i)).toNat + 2 ^ 32 * acc) 0 := by
    intro xs hx
    induction xs with
    | nil => rfl
    | cons x xs ih =>
      have hx' := hx x (by simp)
      rw [List.foldr_cons, List.foldr_cons, ih (fun i hi => hx i (by simp [hi])), h _ (by omega) (by omega)]
  exact this _ (fun i hi => List.mem_range.mp hi)

/-! ## Destinations over lanes -/

theorem writeDst_fields (g : Group) (pres : LaneMask) (d : RegCode) (w : Nat) (outs : List (Nat × Nat)) :
    writeDst g pres d w outs =
      { g with v := (writeDst g pres d w outs).v, sr := (writeDst g pres d w outs).sr } := by
  have fold : ∀ (outs : List (Nat × Nat)) (g : Group) (n : Nat),
      outs.foldl (fun g o => writeSet g o.1 d.toNat o.2 n) g = { g with
        v := (outs.foldl (fun g o => writeSet g o.1 d.toNat o.2 n) g).v,
        sr := (outs.foldl (fun g o => writeSet g o.1 d.toNat o.2 n) g).sr } := by
    intro outs
    induction outs with
    | nil => intro g n; rfl
    | cons o outs ih => intro g n; simp only [List.foldl_cons]; rw [ih, writeSet_fields]
  unfold writeDst
  split
  · exact fold outs g _
  · split
    · exact writeSet_fields _ _ _ _ _
    · rfl

/-- A register outside the sets that the lanes write reads as before. -/
theorem readReg_foldSet (d n l' r' : Nat) (outs : List (Nat × Nat)) (g : Group)
    (h : ∀ o ∈ outs, ¬ ((d ≤ r' ∧ r' < d + n) ∧ (r' < 96 → o.1 = l'))) :
    readReg (outs.foldl (fun g o => writeSet g o.1 d o.2 n) g) l' r' = readReg g l' r' := by
  induction outs generalizing g with
  | nil => rfl
  | cons o outs ih =>
    rw [List.foldl_cons, ih _ (fun o' ho' => h o' (List.mem_cons_of_mem _ ho')), readReg_writeSet,
      if_neg (h o List.mem_cons_self)]

/-- Registers that a destination does not name, or lanes that it does not write, read as before. -/
theorem readReg_writeDst (g : Group) (pres : LaneMask) (d : RegCode) (w : Nat) (outs : List (Nat × Nat)) (l r : Nat)
    (h : ¬ ((d.toNat ≤ r ∧ r < d.toNat + (w + 31) / 32) ∧ (r < 96 → ∃ o ∈ outs, o.1 = l))) :
    readReg (writeDst g pres d w outs) l r = readReg g l r := by
  unfold writeDst
  split
  · refine readReg_foldSet _ _ _ _ _ _ (fun o ho k => h ⟨k.1, fun hr => ⟨o, ho, k.2 hr⟩⟩)
  · rename_i hd
    split
    · rename_i o ho
      rw [readReg_writeSet, if_neg]
      rintro ⟨k, _⟩
      exact h ⟨k, fun hr => absurd hr (by omega)⟩
    · rfl

/-- A V destination holds, in each lane written, that lane's value. -/
theorem readSet_writeDst_v (g : Group) (pres : LaneMask) (d : RegCode) (w : Nat) (outs : List (Nat × Nat))
    (hd : d.toNat + (w + 31) / 32 ≤ 96) (hw : 0 < w) (nd : (outs.map Prod.fst).Nodup) (o : Nat × Nat) (ho : o ∈ outs)
    (hv : o.2 < 2 ^ w) : readSet (writeDst g pres d w outs) o.1 d w = o.2 := by
  unfold writeDst
  rw [if_pos (by omega)]
  induction outs generalizing g with
  | nil => cases ho
  | cons x outs ih =>
    rw [List.map_cons, List.nodup_cons] at nd
    rw [List.foldl_cons]
    rcases List.mem_cons.mp ho with rfl | ho'
    · rw [readSet_congr (writeSet g o.1 d.toNat o.2 ((w + 31) / 32)), readSet_writeSet _ _ _ _ _ hv]
      intro r h1 h2
      refine readReg_foldSet _ _ _ _ _ _ (fun o' ho' k => nd.1 ?_)
      rw [← k.2 (by omega)]
      exact List.mem_map_of_mem ho'
    · exact ih _ nd.2 ho'

/-- An S destination holds the value of the first present lane among those written. -/
theorem readSet_writeDst_s (g : Group) (pres : LaneMask) (d : RegCode) (w : Nat) (outs : List (Nat × Nat))
    (hd : 96 ≤ d.toNat) (o : Nat × Nat) (ho : outs.find? (fun o => pres.getLsbD o.1) = some o) (hv : o.2 < 2 ^ w) :
    readSet (writeDst g pres d w outs) 0 d w = o.2 := by
  unfold writeDst
  rw [if_neg (by omega), ho]
  exact readSet_writeSet _ _ _ _ _ hv

/-! ## Predicates -/

theorem writePred_fields (g : Group) (l : Nat) (p : PredCode) (v : Bool) :
    writePred g l p v = { g with p := (writePred g l p v).p } := by
  unfold writePred; split <;> rfl

theorem readPred_writePred (g : Group) (l : Nat) (p : PredCode) (v : Bool) (l' : Nat) (p' : PredCode) :
    readPred (writePred g l p v) l' p' = if p.toNat < 12 ∧ l = l' ∧ p = p' then v else readPred g l' p' := by
  unfold writePred readPred
  by_cases hp : p.toNat < 12
  · simp only [hp, if_true, true_and, Store.get_set]
    by_cases h : l = l' ∧ p = p'
    · obtain ⟨rfl, rfl⟩ := h
      have : ¬ p = 15#4 := by rintro rfl; simp at hp
      cases v <;> simp [this]
    · have : ¬ (16 * l + p.toNat = 16 * l' + p'.toNat) := by
        intro e
        have h1 := p.isLt
        have h2 := p'.isLt
        exact h ⟨by omega, BitVec.eq_of_toNat_eq (by omega)⟩
      simp [this, h]
  · simp [hp]

theorem readReg_writePred (g : Group) (l : Nat) (p : PredCode) (v : Bool) (l' r' : Nat) :
    readReg (writePred g l p v) l' r' = readReg g l' r' := by
  rw [writePred_fields]; rfl

/-! ## The results of the lanes -/

/-- The predicate part of `writeOuts`. -/
def outsPred (pd : Option PredCode) (outs : List (Nat × LaneOut)) (g : Group) : Group :=
  match pd with
  | some p => outs.foldl (fun g o => match o.2.p with | some v => writePred g o.1 p v | none => g) g
  | none => g

/-- The STICKY part of `writeOuts`. -/
def outsSticky (pres : LaneMask) (outs : List (Nat × LaneOut)) (g : Group) : Group :=
  outs.foldl (fun g o => if pres.getLsbD o.1 then stickyOr g o.2.fl else g) g

/-- The register part of `writeOuts`. -/
def outsReg (pres : LaneMask) (r : Regs) (outs : List (Nat × LaneOut)) (g : Group) : Group :=
  match r.dst with
  | (d, w) :: _ => writeDst g pres d w (outs.filterMap (fun o => o.2.d.map (fun v => (o.1, v))))
  | [] => g

theorem writeOuts_eq (g : Group) (pres : LaneMask) (r : Regs) (outs : List (Nat × LaneOut)) :
    writeOuts g pres r outs = outsSticky pres outs (outsPred r.pdst outs (outsReg pres r outs g)) := rfl

theorem outsReg_fields (pres : LaneMask) (r : Regs) (outs : List (Nat × LaneOut)) (g : Group) :
    outsReg pres r outs g = { g with v := (outsReg pres r outs g).v, sr := (outsReg pres r outs g).sr } := by
  unfold outsReg
  split
  · exact writeDst_fields _ _ _ _ _
  · rfl

theorem outsPred_fields (pd : Option PredCode) (outs : List (Nat × LaneOut)) (g : Group) :
    outsPred pd outs g = { g with p := (outsPred pd outs g).p } := by
  unfold outsPred
  split
  · rename_i p
    induction outs generalizing g with
    | nil => rfl
    | cons o outs ih =>
      rw [List.foldl_cons, ih]
      split
      · rw [writePred_fields]
      · rfl
  · rfl

theorem outsSticky_fields (pres : LaneMask) (outs : List (Nat × LaneOut)) (g : Group) :
    outsSticky pres outs g = { g with sticky := (outsSticky pres outs g).sticky } := by
  unfold outsSticky
  induction outs generalizing g with
  | nil => rfl
  | cons o outs ih =>
    rw [List.foldl_cons, ih]
    split <;> rfl

/-- What the lanes' results may change of a group: registers, predicates, STICKY. -/
theorem writeOuts_fields (g : Group) (pres : LaneMask) (r : Regs) (outs : List (Nat × LaneOut)) :
    writeOuts g pres r outs = { g with
      v := (writeOuts g pres r outs).v, sr := (writeOuts g pres r outs).sr, p := (writeOuts g pres r outs).p,
      sticky := (writeOuts g pres r outs).sticky } := by
  rw [writeOuts_eq, outsSticky_fields, outsPred_fields, outsReg_fields]

theorem readReg_outsPred (pd : Option PredCode) (outs : List (Nat × LaneOut)) (g : Group) (l r : Nat) :
    readReg (outsPred pd outs g) l r = readReg g l r := by rw [outsPred_fields]; rfl
theorem readReg_outsSticky (pres : LaneMask) (outs : List (Nat × LaneOut)) (g : Group) (l r : Nat) :
    readReg (outsSticky pres outs g) l r = readReg g l r := by rw [outsSticky_fields]; rfl
theorem readPred_outsSticky (pres : LaneMask) (outs : List (Nat × LaneOut)) (g : Group) (l : Nat) (p : PredCode) :
    readPred (outsSticky pres outs g) l p = readPred g l p := by rw [outsSticky_fields]; rfl
theorem readPred_outsReg (pres : LaneMask) (r : Regs) (outs : List (Nat × LaneOut)) (g : Group) (l : Nat) (p : PredCode) :
    readPred (outsReg pres r outs g) l p = readPred g l p := by rw [outsReg_fields]; rfl

/-- Registers after the lanes' results. -/
theorem readReg_writeOuts (g : Group) (pres : LaneMask) (r : Regs) (outs : List (Nat × LaneOut)) (l n : Nat) :
    readReg (writeOuts g pres r outs) l n = readReg (outsReg pres r outs g) l n := by
  rw [writeOuts_eq, readReg_outsSticky, readReg_outsPred]

/-- Register sets after the lanes' results. -/
theorem readSet_writeOuts (g : Group) (pres : LaneMask) (r : Regs) (outs : List (Nat × LaneOut)) (l : Nat) (d : RegCode)
    (w : Nat) : readSet (writeOuts g pres r outs) l d w = readSet (outsReg pres r outs g) l d w :=
  readSet_congr _ _ _ _ _ (fun r' _ _ => readReg_writeOuts g pres r outs l r')

/-- An S destination is not written when no lane given is present (R27). -/
theorem writeDst_none (g : Group) (pres : LaneMask) (d : RegCode) (w : Nat) (outs : List (Nat × Nat))
    (h96 : 96 ≤ d.toNat) (h : ∀ o ∈ outs, pres.getLsbD o.1 = false) : writeDst g pres d w outs = g := by
  have hn : ¬ d.toNat < 96 := by omega
  unfold writeDst
  simp only [hn, if_false]
  rw [List.find?_eq_none.mpr (by simpa using h)]

/-- Registers outside the destination read as before. -/
theorem readReg_outsReg (pres : LaneMask) (r : Regs) (outs : List (Nat × LaneOut)) (g : Group) (l n : Nat)
    (h : ∀ d w, r.dst.head? = some (d, w) →
      ¬ ((d.toNat ≤ n ∧ n < d.toNat + (w + 31) / 32) ∧ (n < 96 → ∃ o ∈ outs, o.1 = l))) :
    readReg (outsReg pres r outs g) l n = readReg g l n := by
  unfold outsReg
  split
  · rename_i d w tl hd
    refine readReg_writeDst _ _ _ _ _ _ _ (fun k => h d w (by simp [hd]) ⟨k.1, fun hn => ?_⟩)
    obtain ⟨o, ho, rfl⟩ := k.2 hn
    obtain ⟨o', ho', e⟩ := List.mem_filterMap.mp ho
    cases hv : o'.2.d with
    | none => simp [hv] at e
    | some v =>
      simp only [hv, Option.map_some, Option.some.injEq] at e
      exact ⟨o', ho', by rw [← e]⟩
  · rfl

/-- Predicates outside the destination read as before. -/
theorem readPred_outsPred (pd : Option PredCode) (outs : List (Nat × LaneOut)) (g : Group) (l : Nat) (p : PredCode)
    (h : ¬ (pd = some p ∧ ∃ o ∈ outs, o.1 = l)) : readPred (outsPred pd outs g) l p = readPred g l p := by
  unfold outsPred
  split
  · rename_i p'
    induction outs generalizing g with
    | nil => rfl
    | cons o outs ih =>
      rw [List.foldl_cons, ih]
      · split
        · rw [readPred_writePred, if_neg]
          rintro ⟨_, rfl, rfl⟩
          exact h ⟨rfl, o, List.mem_cons_self, rfl⟩
        · rfl
      · rintro ⟨e, o', ho', hl⟩
        exact h ⟨e, o', List.mem_cons_of_mem _ ho', hl⟩
  · rfl

/-- A destination predicate holds, in each lane written, that lane's result. -/
theorem readPred_outsPred_self (p : PredCode) (hp : p.toNat < 12) (outs : List (Nat × LaneOut)) (g : Group)
    (nd : (outs.map Prod.fst).Nodup) (o : Nat × LaneOut) (ho : o ∈ outs) (v : Bool) (hv : o.2.p = some v) :
    readPred (outsPred (some p) outs g) o.1 p = v := by
  induction outs generalizing g with
  | nil => cases ho
  | cons x outs ih =>
    rw [List.map_cons, List.nodup_cons] at nd
    have step : outsPred (some p) (x :: outs) g =
        outsPred (some p) outs (match x.2.p with | some v => writePred g x.1 p v | none => g) := rfl
    rw [step]
    rcases List.mem_cons.mp ho with rfl | ho'
    · rw [readPred_outsPred, hv]
      · simp [readPred_writePred, hp]
      · rintro ⟨_, o', ho', hl⟩
        exact nd.1 (hl ▸ List.mem_map_of_mem ho')
    · exact ih _ nd.2 ho'

/-- A bit of STICKY after the lanes' results: as before, or raised by a present lane (R30). -/
theorem sticky_outsSticky (pres : LaneMask) (outs : List (Nat × LaneOut)) (g : Group) (k : Nat) :
    (outsSticky pres outs g).sticky.getLsbD k = true ↔
      (g.sticky.getLsbD k = true ∨
        ∃ o ∈ outs, pres.getLsbD o.1 = true ∧ (stickyOr { g with sticky := 0 } o.2.fl).sticky.getLsbD k = true) := by
  unfold outsSticky
  induction outs generalizing g with
  | nil => simp
  | cons o outs ih =>
    rw [List.foldl_cons, ih]
    cases hp : pres.getLsbD o.1
    · simp [hp, stickyOr]
    · simp only [if_true, List.mem_cons, exists_eq_or_imp, hp, true_and]
      have : (stickyOr g o.2.fl).sticky.getLsbD k = true ↔
          g.sticky.getLsbD k = true ∨ (stickyOr { g with sticky := 0 } o.2.fl).sticky.getLsbD k = true := by
        simp [stickyOr]
      rw [this, or_assoc]
      simp [stickyOr]

/-! ## A register instruction -/

theorem overtake_only (e : Env) (s : State) (keys : List Nat) : OnlyGang e s (overtake s e.gid keys) where
  machine := rfl
  memory _ := rfl
  cores _ _ := rfl
  core := rfl
  ports _ _ := rfl
  groups _ _ := rfl
  flights := by
    simp only [overtake, List.map_map]
    apply List.map_congr_left
    intro f _
    simp only [Function.comp]
    split <;> rfl

theorem overtake_group (s : State) (gid : Nat) (keys : List Nat) (n : Nat) :
    (overtake s gid keys).group n = s.group n := rfl

/-- The lanes' results of an instruction, lane by lane. -/
def outsOf (lanes : LaneMask) (f : Nat → LaneOut) : List (Nat × LaneOut) := (lanesOf lanes).map (fun l => (l, f l))

theorem outsOf_fst (lanes : LaneMask) (f : Nat → LaneOut) : (outsOf lanes f).map Prod.fst = lanesOf lanes := by
  simp [outsOf, Function.comp_def]

theorem mem_outsOf (lanes : LaneMask) (f : Nat → LaneOut) (o : Nat × LaneOut) :
    o ∈ outsOf lanes f ↔ lanes.getLsbD o.1 = true ∧ o.2 = f o.1 := by
  simp only [outsOf, List.mem_map, mem_lanesOf]
  constructor
  · rintro ⟨l, hl, rfl⟩; exact ⟨hl, rfl⟩
  · rintro ⟨hl, h⟩; exact ⟨o.1, hl, by rw [← h]⟩

/-- The group after a register instruction: the lanes' results, and the counters. -/
theorem afterLanes_group (i : Instr) (e : Env) (outs : List (Nat × LaneOut)) :
    SoftGroup (writeOuts e.g e.pres (regsOf i) outs) ((afterLanes i e outs).group e.gid) := by
  have h := retire_retires e ((overtake e.s e.gid (writtenKeys (regsOf i) (maskOf (outs.map (fun o => o.1))) e.pres)).setGroup
    e.gid (writeOuts e.g e.pres (regsOf i) outs))
  have k := h.group
  have q := h.quads
  simp only [State.setGroup_group_self] at k q
  exact ⟨k, q⟩

theorem SoftGroup.readReg {g g' : Group} (h : SoftGroup g g') (l r : Nat) :
    Machine.readReg g' l r = Machine.readReg g l r := by rw [h.group]; rfl
theorem SoftGroup.readSet {g g' : Group} (h : SoftGroup g g') (l : Nat) (d : RegCode) (w : Nat) :
    Machine.readSet g' l d w = Machine.readSet g l d w := readSet_congr _ _ _ _ _ (fun r _ _ => h.readReg l r)
theorem SoftGroup.readPred {g g' : Group} (h : SoftGroup g g') (l : Nat) (p : PredCode) :
    Machine.readPred g' l p = Machine.readPred g l p := by rw [h.group]; rfl
theorem SoftGroup.sticky {g g' : Group} (h : SoftGroup g g') : g'.sticky = g.sticky := by rw [h.group]

/-- What a register instruction leaves as it was. -/
theorem afterLanes_frame (i : Instr) (e : Env) (lanes : LaneMask) (f : Nat → LaneOut) :
    RegFrame e (afterLanes i e (outsOf lanes f)) lanes (regsOf i).dst.head? (regsOf i).pdst := by
  have hs := afterLanes_group i e (outsOf lanes f)
  have hr := retire_retires e ((overtake e.s e.gid
    (writtenKeys (regsOf i) (maskOf ((outsOf lanes f).map (fun o => o.1))) e.pres)).setGroup
    e.gid (writeOuts e.g e.pres (regsOf i) (outsOf lanes f)))
  have hw := writeOuts_fields e.g e.pres (regsOf i) (outsOf lanes f)
  have hq : (writeOuts e.g e.pres (regsOf i) (outsOf lanes f)).quads = e.g.quads := by rw [hw]
  refine ⟨((overtake_only e e.s _).trans (onlyGang_setGroup e _ _)).trans hr.only, ?_, fun q => ?_, ?_, hr.moves,
    fun l r h => ?_, fun l p h => ?_⟩
  · rw [hs.group, hw]
  · have := hs.quads q
    rw [show (writeOuts e.g e.pres (regsOf i) (outsOf lanes f)).quad q = e.g.quad q by simp [Group.quad, hq]] at this
    exact this
  · have hc := hr.counted
    simp only [State.setGroup_group_self] at hc
    refine ⟨?_, fun q x hx => hc.dix q x (by rw [hq]; exact hx)⟩
    have h1 : (writeOuts e.g e.pres (regsOf i) (outsOf lanes f)).lclk = e.g.lclk := by rw [hw]
    rw [← h1]
    exact hc.lclk
  · rw [hs.readReg, readReg_writeOuts]
    refine readReg_outsReg _ _ _ _ _ _ (fun d w hd k => h d w hd ⟨k.1, fun hn => ?_⟩)
    obtain ⟨o, ho, rfl⟩ := k.2 hn
    exact ((mem_outsOf _ _ _).mp ho).1
  · rw [hs.readPred, writeOuts_eq, readPred_outsSticky, readPred_outsPred, readPred_outsReg]
    rintro ⟨hp, o, ho, rfl⟩
    exact h ⟨hp, ((mem_outsOf _ _ _).mp ho).1⟩

/-- The destination of a register instruction holds the lanes' results. -/
theorem afterLanes_dst (i : Instr) (e : Env) (lanes : LaneMask) (f : Nat → LaneOut)
    (d : RegCode) (w : Nat) (tl : List (RegCode × Nat)) (hd : (regsOf i).dst = (d, w) :: tl) (hw : 0 < w)
    (ha : d.toNat < 96 → d.toNat + (w + 31) / 32 ≤ 96) (val : Nat → Nat)
    (hf : ∀ l, lanes.getLsbD l = true → (f l).d = some (val l))
    (hv : ∀ l, lanes.getLsbD l = true → val l < 2 ^ w) :
    DstHolds e (afterLanes i e (outsOf lanes f)) lanes d w (fun l v => v = val l) := by
  have hs := afterLanes_group i e (outsOf lanes f)
  have hm : (outsOf lanes f).filterMap (fun o => o.2.d.map (fun v => (o.1, v))) =
      (lanesOf lanes).map (fun l => (l, val l)) := by
    rw [outsOf, List.filterMap_map]
    rw [← List.filterMap_eq_map]
    apply List.filterMap_congr
    intro l hl
    simp [hf l ((mem_lanesOf _ _).mp hl)]
  constructor
  · intro h96 l hl
    rw [hs.readSet, readSet_writeOuts]
    unfold outsReg
    rw [hd]
    simp only [hm]
    exact readSet_writeDst_v e.g e.pres d w _ (ha h96) hw
      (by simpa [Function.comp_def] using lanesOf_nodup lanes) (l, val l)
      (List.mem_map.mpr ⟨l, (mem_lanesOf _ _).mpr hl, rfl⟩) (hv l hl)
  constructor
  · intro h96 l hl
    have hmem := lowestLane_mem hl
    rw [hs.readSet, readSet_writeOuts]
    unfold outsReg
    rw [hd]
    simp only [hm]
    refine readSet_writeDst_s e.g e.pres d w _ h96 (l, val l) ?_ (hv l ?_)
    · rw [lowestLane_eq_head, lanesOf_and, List.head?_filter] at hl
      rw [List.find?_map, show ((fun o : Nat × Nat => e.pres.getLsbD o.1) ∘ fun l => (l, val l)) = e.pres.getLsbD from rfl,
        hl]
      rfl
    · simp only [BitVec.getLsbD_and, Bool.and_eq_true] at hmem
      exact hmem.1
  · intro h96 h0 l r
    rw [hs.readReg, readReg_writeOuts]
    unfold outsReg
    rw [hd]
    simp only [hm]
    rw [writeDst_none _ _ _ _ _ h96]
    intro o ho
    obtain ⟨k, hk, rfl⟩ := List.mem_map.mp ho
    have hk' := (mem_lanesOf _ _).mp hk
    have := congrArg (fun m : LaneMask => m.getLsbD k) h0
    simpa [hk'] using this

/-- The destination predicate of a register instruction holds the lanes' results. -/
theorem afterLanes_pred (i : Instr) (e : Env) (lanes : LaneMask) (f : Nat → LaneOut)
    (p : PredCode) (hp : (regsOf i).pdst = some p) (val : Nat → Bool)
    (hf : ∀ l, lanes.getLsbD l = true → (f l).p = some (val l)) :
    PredHolds e (afterLanes i e (outsOf lanes f)) lanes p (fun l v => v = val l) := by
  intro h12 l hl
  rw [(afterLanes_group i e (outsOf lanes f)).readPred, writeOuts_eq, readPred_outsSticky, hp]
  exact readPred_outsPred_self p h12 (outsOf lanes f) _ (by rw [outsOf_fst]; exact lanesOf_nodup lanes) (l, f l)
    ((mem_outsOf _ _ _).mpr ⟨hl, rfl⟩) (val l) (hf l hl)

/-- STICKY after a register instruction: the flags its present lanes raised are added. -/
theorem afterLanes_sticky (i : Instr) (e : Env) (lanes : LaneMask) (f : Nat → LaneOut) :
    StickyAdds e (afterLanes i e (outsOf lanes f)) lanes
      (fun l k => (stickyOr { e.g with sticky := 0 } (f l).fl).sticky.getLsbD k = true) := by
  intro k
  rw [(afterLanes_group i e (outsOf lanes f)).sticky, writeOuts_eq, sticky_outsSticky]
  have h1 : (outsPred (regsOf i).pdst (outsOf lanes f) (outsReg e.pres (regsOf i) (outsOf lanes f) e.g)).sticky =
      e.g.sticky := by rw [outsPred_fields, outsReg_fields]
  rw [h1]
  constructor
  · rintro (h | ⟨o, ho, hp, hk⟩)
    · exact .inl h
    · obtain ⟨h2, h3⟩ := (mem_outsOf _ _ _).mp ho
      refine .inr ⟨o.1, h2, hp, ?_⟩
      show (stickyOr { e.g with sticky := 0 } (f o.1).fl).sticky.getLsbD k = true
      rw [← h3]
      simpa [stickyOr] using hk
  · rintro (h | ⟨l, hl, hp, hk⟩)
    · exact .inl h
    · exact .inr ⟨(l, f l), (mem_outsOf _ _ _).mpr ⟨hl, rfl⟩, hp, by simpa [stickyOr] using hk⟩

/-! ## Instructions whose meaning is the lanes' results -/

/-- A destination of an instruction that issues stays within the V or the S registers. -/
theorem Issues.dst_fits {i : Instr} {s : State} {e : Env} (h : Issues i s e) {d : RegCode} {w : Nat}
    (hd : (d, w) ∈ (regsOf i).dst) (hw : (w + 31) / 32 ∣ 96) : d.toNat < 96 → d.toNat + (w + 31) / 32 ≤ 96 := by
  intro h96
  have hr := h.regs
  simp only [Env.regsOk, Bool.and_eq_true, List.all_eq_true, List.mem_append] at hr
  have hk := hr.1 (d, w) (.inr hd)
  simp only [regOk, h96, if_true, Bool.and_eq_true, beq_iff_eq] at hk
  obtain ⟨m, hm⟩ := hw
  obtain ⟨q, hq⟩ := Nat.dvd_of_mod_eq_zero hk.1
  rw [hq] at h96 ⊢
  rw [hm] at h96 ⊢
  have : q < m := Nat.lt_of_mul_lt_mul_left h96
  calc (w + 31) / 32 * q + (w + 31) / 32 = (w + 31) / 32 * (q + 1) := by ring
    _ ≤ (w + 31) / 32 * m := Nat.mul_le_mul_left _ this

theorem perLane_next {i : Instr} {s : State} {e : Env} (h : Issues i s e) (f : Env → Nat → LaneOut) :
    perLane i s f = .next (afterLanes i e (outsOf (e.lanes i) (f e))) := by
  rw [perLane, instr_of_issues h]; rfl

theorem gather_next {i : Instr} {s : State} {e : Env} (h : Issues i s e) (f : Env → List Nat → Nat → LaneOut) :
    gather i s f = .next (afterLanes i e (outsOf (e.lanes i) (f e (presentOf e i)))) := by
  rw [gather, instr_of_issues h]; rfl

/-- Results without flags leave STICKY. -/
theorem afterLanes_sticky_eq (i : Instr) (e : Env) (lanes : LaneMask) (f : Nat → LaneOut)
    (hf : ∀ l, lanes.getLsbD l = true → (f l).fl = {}) :
    ((afterLanes i e (outsOf lanes f)).group e.gid).sticky = e.g.sticky := by
  apply BitVec.eq_of_getLsbD_eq
  intro k _
  have h := afterLanes_sticky i e lanes f k
  have no : ¬ ∃ l, lanes.getLsbD l = true ∧ e.pres.getLsbD l = true ∧
      (stickyOr { e.g with sticky := 0 } (f l).fl).sticky.getLsbD k = true := by
    rintro ⟨l, hl, _, hk⟩
    rw [hf l hl] at hk
    simp [stickyOr, b2n] at hk
  rw [or_iff_left no] at h
  exact Bool.eq_iff_iff.mpr h

/-- An instruction whose lanes give one register value each. -/
theorem runsReg_of {i : Instr} {s : State} {e : Env} (h : Issues i s e) {f : Nat → LaneOut}
    (hx : exec i s = .next (afterLanes i e (outsOf (e.lanes i) f))) {d : RegCode} {w : Nat}
    (hd : (regsOf i).dst = [(d, w)]) (hp : (regsOf i).pdst = none) (hw0 : 0 < w) (hw : (w + 31) / 32 ∣ 96)
    {rel : Nat → Nat → Prop} (val : Nat → Nat) (hf : ∀ l, (f l).d = some (val l)) (hn : ∀ l, (f l).fl = {})
    (hv : ∀ l, (e.lanes i).getLsbD l = true → val l < 2 ^ w)
    (hr : ∀ l, (e.lanes i).getLsbD l = true → rel l (val l)) : RunsReg i s e d w rel := by
  refine ⟨_, hx, ?_, ?_, afterLanes_sticky_eq i e _ f (fun l _ => hn l)⟩
  · have := afterLanes_frame i e (e.lanes i) f
    rwa [hd, hp] at this
  · have hd' := afterLanes_dst i e (e.lanes i) f d w [] hd hw0 (h.dst_fits (by simp [hd]) hw) val (fun l _ => hf l) hv
    refine ⟨fun h1 l hl => ?_, fun h1 l hl => ?_, hd'.2.2⟩
    · rw [hd'.1 h1 l hl]; exact hr l hl
    · have hm := lowestLane_mem hl
      rw [BitVec.getLsbD_and, Bool.and_eq_true] at hm
      rw [hd'.2.1 h1 l hl]; exact hr l hm.1

/-- An instruction whose lanes give one register value each, with flags. -/
theorem runsFlag_of {i : Instr} {s : State} {e : Env} (h : Issues i s e) {f : Nat → LaneOut}
    (hx : exec i s = .next (afterLanes i e (outsOf (e.lanes i) f))) {d : RegCode} {w : Nat}
    (hd : (regsOf i).dst = [(d, w)]) (hp : (regsOf i).pdst = none) (hw0 : 0 < w) (hw : (w + 31) / 32 ∣ 96)
    {rel : Nat → Nat → Prop} {raised : Nat → Nat → Prop} (val : Nat → Nat) (hf : ∀ l, (f l).d = some (val l))
    (hv : ∀ l, (e.lanes i).getLsbD l = true → val l < 2 ^ w)
    (hr : ∀ l, (e.lanes i).getLsbD l = true → rel l (val l))
    (hs : ∀ l k, (e.lanes i).getLsbD l = true →
      ((stickyOr { e.g with sticky := 0 } (f l).fl).sticky.getLsbD k = true ↔ raised l k)) :
    RunsFlag i s e d w rel raised := by
  refine ⟨_, hx, ?_, ?_, fun k => ?_⟩
  · have := afterLanes_frame i e (e.lanes i) f
    rwa [hd, hp] at this
  · have hd' := afterLanes_dst i e (e.lanes i) f d w [] hd hw0 (h.dst_fits (by simp [hd]) hw) val (fun l _ => hf l) hv
    refine ⟨fun h1 l hl => ?_, fun h1 l hl => ?_, hd'.2.2⟩
    · rw [hd'.1 h1 l hl]; exact hr l hl
    · have hm := lowestLane_mem hl
      rw [BitVec.getLsbD_and, Bool.and_eq_true] at hm
      rw [hd'.2.1 h1 l hl]; exact hr l hm.1
  · rw [afterLanes_sticky i e (e.lanes i) f k]
    constructor
    · rintro (h1 | ⟨l, hl, hp', hk⟩)
      · exact .inl h1
      · exact .inr ⟨l, hl, hp', (hs l k hl).mp hk⟩
    · rintro (h1 | ⟨l, hl, hp', hk⟩)
      · exact .inl h1
      · exact .inr ⟨l, hl, hp', (hs l k hl).mpr hk⟩

/-- An instruction whose lanes give one predicate each. -/
theorem runsPred_of {i : Instr} {s : State} {e : Env} {f : Nat → LaneOut}
    (hx : exec i s = .next (afterLanes i e (outsOf (e.lanes i) f))) {pd : PredCode}
    (hd : (regsOf i).dst = []) (hp : (regsOf i).pdst = some pd) {rel : Nat → Bool → Prop} (val : Nat → Bool)
    (hf : ∀ l, (f l).p = some (val l)) (hn : ∀ l, (f l).fl = {})
    (hr : ∀ l, (e.lanes i).getLsbD l = true → rel l (val l)) : RunsPred i s e pd rel := by
  refine ⟨_, hx, ?_, fun h12 l hl => ?_, afterLanes_sticky_eq i e _ f (fun l _ => hn l)⟩
  · have := afterLanes_frame i e (e.lanes i) f
    rwa [hd, hp] at this
  · rw [afterLanes_pred i e (e.lanes i) f pd hp val (fun l _ => hf l) h12 l hl]
    exact hr l hl

/-- A register set's value fits its width. -/
theorem readSet_lt (g : Group) (l : Nat) (r : RegCode) (w : Nat) (hw : 32 ≤ w) : readSet g l r w < 2 ^ w := by
  unfold readSet
  rw [Nat.max_eq_left hw]
  exact Nat.mod_lt _ (by positivity)

/-- An operand B's value fits its width, when its literal does (R52). -/
theorem readB_lt (g : Group) (l : Nat) (b : SrcB) (w : Nat) (hw : 32 ≤ w) (hb : b.fits w = true) :
    readB g l b w < 2 ^ w := by
  cases b with
  | reg r => exact readSet_lt g l r w hw
  | lit v =>
    simp only [SrcB.fits, decide_eq_true_eq] at hb
    exact hb.2

end Sys2Proof.Machine
end

