-- ==== Sys2Proof/Tests/Slice0.lean ====
section
/-!
SUPPORT. Tests: ill-formed terms, words decoded, single instructions on small states, and for each statement with
hypotheses a state that meets them. Expected values come from the spec's rules, by hand.
-/
namespace Sys2Proof.Tests
set_option Elab.async false
open Sys2Proof.Machine

/-! ## Small states -/

/-- A launch record of one team of 4 lanes with 96 V registers, its code at 0x1000: byte 39 holds CLUSTER, CHECK and DET
(bits 2 to 4), `pages` counts 4 KiB of scratchpad (R335). -/
def recordOf (bits39 pages : Nat) : List Byte :=
  List.replicate 33 0 ++ [0x10] ++ List.replicate 5 0 ++ [BitVec.ofNat 8 bits39] ++ List.replicate 5 0 ++
    [BitVec.ofNat 8 pages] ++ [0x76] ++ List.replicate 17 0

/-- A state in which port 0 of core 0 has an instruction in issue (log 20): launch 0, team 1, group 2, quad 0, with
4 KiB of scratchpad and some V and S registers. -/
def lab (i : Instr) (v : Store 32 := []) (sr : Store 32 := []) (bits39 : Nat := 0) : State :=
  let s := placeClause State.reset (encode i)
  let s := s.setLaunch 0 { s.launch 0 with record := recordOf bits39 1 }
  s.setGroup 2 { s.group 2 with v, sr }

/-- The same in a handler (R301). -/
def labInh (i : Instr) (v : Store 32 := []) (sr : Store 32 := []) : State :=
  let s := lab i v sr
  s.setGroup 2 { s.group 2 with frame := { (s.group 2).frame with tstate := 0x400 } }

/-- The environment of the port in turn. -/
def envOf (s : State) : Env :=
  match s.env? with
  | some e => e
  | none => ⟨s, 0, 0, placedIssue 0 [], {}, {}, {}, 0, 0, 0⟩

/-- What `Issues` asks, as a test. -/
def issuesB (i : Instr) (s : State) : Bool :=
  let e := envOf s
  s.env?.isSome && !acquireHolds s e.gid e.is.quads && !e.illegal i && e.regsOk i &&
    (!e.hazard i || (!e.l.check && !e.l.det))

theorem env_of {s : State} (h : s.env?.isSome = true) : s.env? = some (envOf s) := by
  unfold envOf
  cases hs : s.env? with
  | none => simp [hs] at h
  | some e => rfl

theorem issues_of {i : Instr} {s : State} (h : issuesB i s = true) : Issues i s (envOf s) := by
  simp only [issuesB, Bool.and_eq_true, Bool.or_eq_true, Bool.not_eq_true'] at h
  obtain ⟨⟨⟨⟨h1, h2⟩, h3⟩, h5⟩, h6⟩ := h
  refine ⟨env_of h1, h2, h3, h5, fun k => ?_⟩
  · rcases h6 with h6 | h6
    · simp [h6] at k
    · exact h6

theorem issues_all {is : List Instr} {f : Instr → State} (h : is.all (fun i => issuesB i (f i)) = true) :
    ∀ i ∈ is, Issues i (f i) (envOf (f i)) :=
  fun i hi => issues_of (List.all_eq_true.mp h i hi)

/-- What holds of the 128 lanes holds of those of a mask. -/
theorem lanes_of {m : LaneMask} {P : Nat → Prop} (h : ∀ l, l < 128 → m.getLsbD l = true → P l) :
    ∀ l, m.getLsbD l = true → P l := by
  intro l hl
  by_cases k : l < 128
  · exact h l k hl
  · rw [BitVec.getLsbD_of_ge m l (by omega)] at hl
    simp at hl

theorem mem_of_aget? {α : Type} {m : List (Nat × α)} {k : Nat} {x : α} (h : aget? m k = some x) : (k, x) ∈ m := by
  induction m with
  | nil => simp [aget?] at h
  | cons p m ih =>
    obtain ⟨j, y⟩ := p
    by_cases e : j = k
    · subst e
      simp only [aget?, if_true] at h
      cases h
      exact List.mem_cons_self
    · simp only [aget?, if_neg e] at h
      exact List.mem_cons_of_mem _ (ih h)

/-- What holds of a map's entries holds of those looked up. -/
theorem entries_of {α : Type} {m : List (Nat × α)} {P : Nat → α → Prop} (h : ∀ p ∈ m, P p.1 p.2) :
    ∀ k x, aget? m k = some x → P k x := fun _ _ hx => h _ (mem_of_aget? hx)

/-! ## Ill-formed terms -/

/-- R55, R60, R63: a fixed-latency instruction selects no flag; a reserved guard code. -/
theorem test_illFormed_guard :
    WellFormed (.nop ⟨15, false, true⟩) = false ∧ WellFormed (.yield ⟨12, false, false⟩) = false ∧
    WellFormed (.ld ⟨13, false, true⟩ .b32 .ca 1 2 0) = false ∧ WellFormed (.ld ⟨15, false, true⟩ .b32 .ca 1 2 0) = true := by
  decide

/-- R26, R55: an S operand where a V one is required, a V operand where an S one is, no destination predicate. -/
theorem test_illFormed_operands :
    WellFormed (.ld noGuard .b32 .ca 1 100 0) = false ∧ WellFormed (.lds noGuard .b32 1 2 0) = false ∧
    WellFormed (.ppoint 5) = false ∧ WellFormed (.isetp noGuard .i32 0 15 1 (.reg 2)) = false ∧
    WellFormed (.isetp noGuard .i32 0 11 1 (.reg 2)) = true ∧ WellFormed (.voteAny noGuard 12 0) = false ∧
    WellFormed (.arsum noGuard false 1 12 100 (.reg 2) 3) = false ∧ WellFormed (.arsum noGuard false 1 15 100 (.reg 2) 3) = true := by
  decide

/-- R51, R52: a displacement that is no multiple of 4, a literal with reserved bits. -/
theorem test_illFormed_literals :
    WellFormed (.bra noGuard 2) = false ∧ WellFormed (.call 0xFFFFFFFD) = false ∧ WellFormed (.mark 4) = true ∧
    WellFormed (.iadd noGuard .i32 false 1 2 (.lit 0x100000000)) = false ∧
    WellFormed (.iadd noGuard .i32 false 1 2 (.lit 0xFFFFFFFF)) = true ∧
    WellFormed (.st noGuard .b8 .ca 2 (.lit 0x100) 0) = false ∧ WellFormed (.st noGuard .b128 .ca 2 (.lit 0) 0) = false := by
  decide

/-- R53, R62, R151, R152: types an instruction does not accept; a field past the operand. -/
theorem test_illFormed_types :
    WellFormed (.iadd noGuard .b32 false 1 2 (.reg 3)) = false ∧ WellFormed (.and noGuard .i32 1 2 (.reg 3)) = false ∧
    WellFormed (.iaddc noGuard .i32 1 0 2 (.reg 3) 0) = false ∧ WellFormed (.mov noGuard .b128 4 8) = true ∧
    WellFormed (.isetp noGuard .i32 6 0 1 (.reg 2)) = false ∧ WellFormed (.fsetp noGuard 14 0 1 (.reg 2)) = false ∧
    WellFormed (.bfe noGuard .b32 1 2 20 13) = false ∧ WellFormed (.bfe noGuard .b32 1 2 20 12) = true ∧
    WellFormed (.adecl noGuard 0 100 (.reg 1) 102 3) = false ∧ WellFormed (.adecl noGuard 0 100 (.reg 1) 102 31) = false := by
  decide

/-- R54, R79, R175: rounding modes, conversion pairs and dot-product pairs. -/
theorem test_illFormed_pairs :
    WellFormed (.fadd noGuard .sr 1 2 (.reg 3)) = false ∧ WellFormed (.cvt noGuard .f32 .f16 .sr false 1 2) = false ∧
    WellFormed (.cvt noGuard .f16 .f32 .sr false 1 2) = true ∧ WellFormed (.cvt noGuard .f32 .f32 .rne false 1 2) = false ∧
    WellFormed (.cvtp noGuard .tf32 .f32 .rne false 1 2 (.reg 3)) = false ∧
    WellFormed (.cvtx noGuard .f32 .e4m3 4 1 2) = false ∧ WellFormed (.cvtx noGuard .f32 .e4m3 3 1 2) = true ∧
    WellFormed (.dot2 noGuard .f32 .i16 1 2 (.reg 3)) = false ∧
    WellFormed (.dot4 noGuard .f32 .e4m3 false 1 0 1 (.reg 2) 3) = false ∧
    WellFormed (.dot8 noGuard .i32 .i4 true 0 0 1 (.reg 2) 3) = false := by
  decide

/-- R31, R32, R54, R187: special-register reads, ACQ's hints. -/
theorem test_illFormed_special :
    WellFormed (.sprRead noGuard .b32 1 16) = false ∧ WellFormed (.sprRead noGuard .b32 2 10) = false ∧
    WellFormed (.sprRead noGuard .b32 100 0) = false ∧ WellFormed (.sprRead noGuard .b32 100 3) = true ∧
    WellFormed (.acq noGuard .b32 .na 1 2 0) = false ∧ WellFormed (.acq noGuard .b32 .ro 1 100 0) = false ∧
    WellFormed (.acq noGuard .b32 .ro 1 2 0) = true := by
  decide

/-! ## Words written out from the encoding tables (R48 to R62) -/

theorem test_decode_control :
    decode [0x00200000] = some (.yield noGuard, []) ∧
    decode [0x80400000, 0x007F0000, 0x0000002A] = some (.trap ⟨3, true, false⟩ 0x2A, []) ∧
    decode [0x81000000, 0x004F0000, 0xFFFFFFF0] = some (.bra ⟨2, false, false⟩ 0xFFFFFFF0, []) ∧
    decode [0x00803300] = some (.ppoint 102, []) := by
  decide

theorem test_decode_lanes :
    decode [0x48A08200, 0x00000001, 0x00000000] = some (.shflXor noGuard .b32 2 4 (.lit 1), []) ∧
    decode [0x89020080, 0x01EF3400, 0x00000000] = some (.ballot noGuard .b128 8 1, []) ∧
    decode [0x8B410300, 0x01EF2000, 0x00000001] = some (.scanMax noGuard .n64 true 4 6, []) := by
  decide

theorem test_decode_integer :
    decode [0x8C004103, 0x01EF0C40, 0x00000000] = some (.iadd noGuard .i32 true 1 2 (.reg 3), []) ∧
    decode [0x8C208206, 0x0BE42000, 0x00000000] = some (.iaddc noGuard .n64 2 4 4 (.reg 6) 5, []) ∧
    decode [0x90608200, 0x01EF1000, 0x00002803] = some (.bfe noGuard .i64 2 4 3 40, []) ∧
    decode [0x12010500] = some (.sprRead noGuard .b64 4 10, []) := by
  decide

theorem test_decode_predicates :
    decode [0x98000103, 0x01E11C00, 0x00000005] = some (.isetp noGuard .n32 5 1 2 (.reg 3), []) ∧
    decode [0x9A000082, 0x07E00000, 0x000000E8] = some (.plop noGuard 0 1 2 3 0xE8, []) := by
  decide

theorem test_decode_float :
    decode [0x9C404103, 0x09EF4500, 0x00000000] = some (.ffma noGuard .rup 1 2 (.reg 3) 4, []) ∧
    decode [0x5E008200, 0x00000000, 0x3FF00000] = some (.dadd noGuard .rne 2 4 (.lit 0x3FF0000000000000), []) := by
  decide

theorem test_decode_convert :
    decode [0xA8018380, 0x01EF5280, 0x00000011] = some (.cvt noGuard .e4m3 .f32 .sr false 6 7, []) ∧
    decode [0xA9220082, 0x07EF4400, 0x000000B4] = some (.dot4 noGuard .f32 .e4m3 true 1 8 1 (.reg 2) 3, []) := by
  decide

theorem test_decode_memory :
    decode [0xAC008200, 0x01EFB018, 0xFFFFFFF8] = some (.ld ⟨15, false, true⟩ .b64 .na 2 4 0xFFFFFFF8, []) ∧
    decode [0xEE203200, 0x05EF2C00, 0x00000010, 0xDEADBEEF, 0x00000000] = some (.stc noGuard .b32 100 (.lit 0xDEADBEEF) 2 0x10, []) := by
  decide

theorem test_decode_atomic :
    decode [0xB400B185, 0x01EF4400, 0x00000003] = some (.atomAdd noGuard .f32 .ar 2 99 (.reg 5), []) ∧
    decode [0xB5C08200, 0x01EF3008, 0x00000020] = some (.acq noGuard .b64 .ro 2 4 0x20, []) := by
  decide

theorem test_decode_barrier :
    decode [0xB6803369, 0x01E20000, 0x00000001] = some (.wait noGuard true 2 102 (.reg 105), []) ∧
    decode [0xB6A03307, 0xD1EF0000, 0x00000000] = some (.rinit noGuard false 102 (.reg 7) 104, []) := by
  decide

theorem test_decode_region :
    decode [0xB9033414, 0x2BE10000, 0x00000001] = some (.arsum noGuard true 12 1 104 (.reg 20) 21, []) := by
  decide

theorem test_decode_table :
    decode [0xBAA20286, 0x01EF0000, 0x0000000F] = some (.htaccRes noGuard 3 true 8 5 (.reg 6), []) := by
  decide

theorem test_decode_swage :
    decode [0xBBC0366E, 0xD5EF0000, 0x00000001] = some (.cpyr noGuard true 108 110 106, []) := by
  decide

theorem test_decode_anvil :
    decode [0xBC003469, 0x01E20000, 0x00000001] = some (.mrsv noGuard true 2 104 105, []) ∧
    decode [0xBD40366E, 0xE3EF0000, 0x00000015] = some (.mld noGuard 5 2 108 110 113, []) := by
  decide

theorem test_decode_system :
    decode [0xBE010000, 0x01EF0000, 0x00000010] = some (.csrr noGuard 4 0x010, []) ∧
    decode [0xBE403400, 0x01EF0000, 0x00000005] = some (.tlbiAll noGuard true 104, []) := by
  decide

/-- R50, R63: reserved bits of word 1, a reserved OP, a reserved FN and a word that is missing are refused. -/
theorem test_decode_refuses :
    decode [0x8C004103, 0x01EF0C41, 0x00000000] = none ∧ decode [0x3F000000] = none ∧ decode [0x00E00000] = none ∧
    decode [0x8C004103, 0x01EF0C40] = none := by
  decide

/-! ## Single instructions -/

/-- The state an instruction leaves; the state itself where it stops. -/
def after (i : Instr) (s : State) : State :=
  match exec i s with
  | .next t => t
  | _ => s

/-- Register `r` of a lane, the STICKY register, and a predicate, after an instruction that ran on a small state. -/
def regAfter (i : Instr) (v : Store 32) (l r : Nat) : Word := readReg ((after i (lab i v)).group 2) l r
def stickyAfter (i : Instr) (v : Store 32) : Word := ((after i (lab i v)).group 2).sticky
def predAfter (i : Instr) (v : Store 32) (l : Nat) (p : PredCode) : Bool := readPred ((after i (lab i v)).group 2) l p

/-- R150: 0x7FFFFFFF + 1 saturates under SAT and raises OVF; without SAT it wraps. -/
theorem test_iadd :
    regAfter (.iadd noGuard .i32 true 1 2 (.reg 3)) [(2, 0x7FFFFFFF), (3, 1)] 0 1 = 0x7FFFFFFF ∧
    stickyAfter (.iadd noGuard .i32 true 1 2 (.reg 3)) [(2, 0x7FFFFFFF), (3, 1)] = 1 ∧
    regAfter (.iadd noGuard .i32 false 1 2 (.reg 3)) [(2, 0x7FFFFFFF), (3, 1)] 0 1 = 0x80000000 := by decide +kernel

/-- R150: an unsigned difference below zero saturates at 0; a source that is also the destination is read first. -/
theorem test_isub :
    regAfter (.isub noGuard .n32 true 2 2 (.reg 3)) [(2, 1), (3, 2)] 0 2 = 0 ∧
    regAfter (.isub noGuard .n32 false 2 2 (.reg 3)) [(2, 1), (3, 2)] 0 2 = 0xFFFFFFFF := by decide +kernel

/-- R150: 64-bit addition with a carry in gives the carry out. -/
theorem test_iaddc :
    regAfter (.iaddc noGuard .n64 4 1 2 (.lit 0) 15) [(2, 0xFFFFFFFF), (3, 0xFFFFFFFF)] 0 4 = 0 ∧
    predAfter (.iaddc noGuard .n64 4 1 2 (.lit 0) 15) [(2, 0xFFFFFFFF), (3, 0xFFFFFFFF)] 0 1 = true := by decide +kernel

/-- R150: the high half of (-2^31)·(-2^31) = 2^62. -/
theorem test_imulh : regAfter (.imulh noGuard .i32 1 2 (.reg 2)) [(2, 0x80000000)] 0 1 = 0x40000000 := by decide +kernel

/-- R151: a shift by the width gives 0, or the sign; a funnel shift counts modulo 32; CLZ of 0 is the width. -/
theorem test_shifts :
    regAfter (.shl noGuard .b32 1 2 (.lit 32)) [(2, 0xFFFFFFFF)] 0 1 = 0 ∧
    regAfter (.sar noGuard .b32 1 2 (.lit 33)) [(2, 0x80000000)] 0 1 = 0xFFFFFFFF ∧
    regAfter (.fshf noGuard 1 2 (.reg 3) 4) [(2, 0x80000000), (3, 1), (4, 31)] 0 1 = 3 ∧
    regAfter (.clz noGuard .b64 1 2) [] 0 1 = 64 := by decide +kernel

/-- R152: bits 8 to 11 of 0xF00 as a signed field are -1; BFI of length 0 changes nothing. -/
theorem test_bitFields :
    regAfter (.bfe noGuard .i32 1 2 8 4) [(2, 0xF00)] 0 1 = 0xFFFFFFFF ∧
    regAfter (.bfi noGuard .b32 1 2 (.lit 0xFF) 4 0) [(2, 0x123)] 0 1 = 0x123 ∧
    regAfter (.bfi noGuard .b32 1 2 (.lit 0xFF) 4 8) [(2, 0x1)] 0 1 = 0xFF1 := by decide +kernel

/-- R153: LEA adds the sign-extended index, shifted. -/
theorem test_lea :
    regAfter (.lea noGuard 4 2 (.lit 0xFFFFFFFF) 3) [(2, 0x1000)] 0 4 = 0xFF8 ∧
    regAfter (.lea noGuard 4 2 (.lit 0xFFFFFFFF) 3) [(2, 0x1000)] 0 5 = 0 := by decide +kernel

/-- R147: QBC takes lane 3's value; SHFL up by 1 keeps lane 0's own. -/
theorem test_exchange :
    regAfter (.qbc noGuard .b32 1 2 3) [(2, 10), (386, 13)] 0 1 = 13 ∧
    regAfter (.shflUp noGuard .b32 1 2 (.lit 1)) [(2, 10), (130, 11)] 0 1 = 10 ∧
    regAfter (.shflUp noGuard .b32 1 2 (.lit 1)) [(2, 10), (130, 11)] 1 1 = 10 := by decide +kernel

/-- R148: an exclusive sum of 5, 6, 7, 8 by lane; the largest of four signed values; the ballot of four true predicates. -/
theorem test_gather :
    regAfter (.scanAdd noGuard .i32 true 1 2) [(2, 5), (130, 6), (258, 7), (386, 8)] 2 1 = 11 ∧
    regAfter (.scanAdd noGuard .i32 true 1 2) [(2, 5), (130, 6), (258, 7), (386, 8)] 0 1 = 0 ∧
    regAfter (.reduxMax noGuard .i32 1 2) [(2, 0xFFFFFFFF), (130, 0xFFFFFFFE), (258, 0x80000000), (386, 0xFFFFFFFD)] 0 1 =
      0xFFFFFFFF ∧
    regAfter (.ballot noGuard .b32 1 15) [] 0 1 = 0xF := by decide +kernel

/-- R162: 1 + 2^-24 rounds to 1 under RNE, up under RUP; R163: FMIN of +0 and -0 is -0, and of a NaN the other. -/
theorem test_float :
    regAfter (.fadd noGuard .rne 1 2 (.reg 3)) [(2, 0x3F800000), (3, 0x33800000)] 0 1 = 0x3F800000 ∧
    regAfter (.fadd noGuard .rup 1 2 (.reg 3)) [(2, 0x3F800000), (3, 0x33800000)] 0 1 = 0x3F800001 ∧
    regAfter (.fmin noGuard 1 2 (.reg 3)) [(2, 0), (3, 0x80000000)] 0 1 = 0x80000000 ∧
    regAfter (.fmin noGuard 1 2 (.reg 3)) [(2, 0x7FC00000), (3, 0x40000000)] 0 1 = 0x40000000 := by decide +kernel

/-- R162: the fused product and sum rounds once: (1 + 2^-23)² - 1 = 2^-22 + 2^-46, rounded up. -/
theorem test_ffma :
    regAfter (.ffma noGuard .rup 1 2 (.reg 2) 3) [(2, 0x3F800001), (3, 0xBF800000)] 0 1 = 0x34800001 := by decide +kernel

/-- R167: 1/3 rounds to 0x3EAAAAAB; the root of 2 to 0x3FB504F3; 2^3 is 8; the logarithm of 0 is -∞. -/
theorem test_functions :
    regAfter (.frcp noGuard .rne 1 2) [(2, 0x40400000)] 0 1 = 0x3EAAAAAB ∧
    regAfter (.fsqrt noGuard .rne 1 2) [(2, 0x40000000)] 0 1 = 0x3FB504F3 ∧
    regAfter (.fexp2 noGuard .rne 1 2) [(2, 0x40400000)] 0 1 = 0x41000000 ∧
    regAfter (.flog2 noGuard .rne 1 2) [] 0 1 = 0xFF800000 := by decide +kernel

/-- R76: 1000.0 saturates in E4M3 at 448 (0x7E) with OVF; a NaN in I32 is 0 with INV. -/
theorem test_cvt :
    regAfter (.cvt noGuard .e4m3 .f32 .rne false 1 2) [(2, 0x447A0000)] 0 1 = 0x7E ∧
    stickyAfter (.cvt noGuard .e4m3 .f32 .rne false 1 2) [(2, 0x447A0000)] = 1 ∧
    regAfter (.cvt noGuard .i32 .f32 .rtz false 1 2) [(2, 0x7FC00000)] 0 1 = 0 ∧
    stickyAfter (.cvt noGuard .i32 .f32 .rtz false 1 2) [(2, 0x7FC00000)] = 2 := by decide +kernel

/-- R177: 1·2 + 3·(-4) + 10 = 0 in I32. -/
theorem test_dot2 :
    regAfter (.dot2 noGuard .i32 .i16 1 2 (.reg 3)) [(1, 10), (2, 0x00030001), (3, 0xFFFC0002)] 0 1 = 0 := by decide +kernel

/-- R155, R157: a signed comparison; an unordered one is false for LT and true for its inverse's code. -/
theorem test_setp :
    predAfter (.isetp noGuard .i32 2 1 2 (.lit 0)) [(2, 0xFFFFFFFF)] 0 1 = true ∧
    predAfter (.isetp noGuard .n32 2 1 2 (.lit 0)) [(2, 0xFFFFFFFF)] 0 1 = false ∧
    predAfter (.fsetp noGuard 2 1 2 (.lit 0)) [(2, 0x7FC00000)] 0 1 = false := by decide +kernel

/-- R31: SPR selectors 0 (LANEID) and 7 (NLANES). -/
theorem test_spr :
    regAfter (.sprRead noGuard .b32 1 0) [] 3 1 = 3 ∧ regAfter (.sprRead noGuard .b32 1 7) [] 0 1 = 4 := by decide +kernel

/-- R134: a branch every lane takes continues at its target, and a lane's own guard sends the others past it. -/
theorem test_bra :
    (((after (.bra noGuard 0x40) (lab (.bra noGuard 0x40))).group 2).quad 0).pc = 0x1040 ∧
    (((after (.bra ⟨0, false, false⟩ 0x40) (lab (.bra ⟨0, false, false⟩ 0x40))).group 2).quad 0).pc = 0x1010 := by
  decide +kernel

/-- R136, R139: MARK pushes an entry; EXIT of the last lanes ends the group. -/
theorem test_stack :
    (((after (.mark 0x80) (lab (.mark 0x80))).group 2).quad 0).resident.length = 1 ∧
    ((after (.exit noGuard) (lab (.exit noGuard))).team 1).live = 0 := by decide +kernel

/-- R141, R305: TRAP 0x2A in four lanes: TSTATE holds the code, the cause 0x0A of TRAPN, INH, HDR and AFTER; TVEC is the next pc. -/
theorem test_trap :
    let t := after (.trap noGuard 0x2A) (lab (.trap noGuard 0x2A))
    ((t.group 2).frame.tstate.extractLsb' 24 8, (t.group 2).frame.tstate.getLsbD 10, (t.group 2).frame.tfault,
      ((t.group 2).quad 0).pc) = (0x2A, true, 0xF, 0x40000) := by decide +kernel

/-- R181: STS stores lane L at L times the width past the row's offset, little-endian. -/
theorem test_sts :
    let t := after (.sts noGuard .b32 100 (.lit 0x12345678) 0x10) (lab (.sts noGuard .b32 100 (.lit 0x12345678) 0x10))
    readBytes (t.team 1).pad 0x10 8 = [0x78, 0x56, 0x34, 0x12, 0x78, 0x56, 0x34, 0x12] ∧ Store.get (t.team 1).pad 0x20 = 0 := by
  decide +kernel

/-- R90, R181: an ST leaves dirty bytes in the core's line, and the home as it was. -/
theorem test_st :
    let i := Instr.st noGuard .b16 .ca 4 (.lit 0xABCD) 0x2004
    let t := after i (lab i)
    ((t.core 0).line (devPlace 0x2000 / 256)).state = .d ∧
    Store.get ((t.core 0).line (devPlace 0x2000 / 256)).bytes 5 = 0xAB ∧ Store.get t.mem (devPlace 0x2005) = 0 := by
  decide +kernel

/-- R60, R87: an LD goes in flight for its four lanes and marks flag F3. -/
theorem test_ld :
    let i := Instr.ld noGuard .b32 .ca 1 4 0x1000
    let s := lab i
    let s := s.setCore 0 ((s.core 0).setPort 0 { (s.core 0).port 0 with issue := some { placedIssue 2 (encode i) with seta := 3 } })
    let t := after i s
    (t.flights.map (fun f => f.2.pieces.length), Store.get (t.group 2).flags 3) = ([4], 1) := by decide +kernel

/-- R85, R302: an address past the space traps with ADDR (cause 5) in every lane; a misaligned one with ALIGN (6). -/
theorem test_ld_traps :
    let i := Instr.ld noGuard .b32 .ca 1 4 0xFFFFFFFF
    let j := Instr.ld noGuard .b32 .ca 1 4 2
    let cause := fun (t : State) => (t.group 2).frame.tstate.toNat / 2 ^ 16 % 2 ^ 8
    cause (after i (lab i)) = Cause.addr.code ∧ cause (after j (lab j)) = Cause.align.code := by decide +kernel

/-- R183: atomic values: an F32 sum, a signed minimum, a failing comparison. -/
theorem test_atomicNew :
    atomicNew 0 .f32 0x3F800000 0x40000000 0 = some 0x40400000 ∧ atomicNew 1 .i32 1 0xFFFFFFFF 0 = some 0xFFFFFFFF ∧
    atomicNew 7 .b32 1 2 3 = none ∧ atomicNew 7 .b32 2 2 3 = some 3 := by decide +kernel

/-- R193: BINIT with 5 expected arrivals: EXP 5 and every other field 0. -/
theorem test_binit :
    let i := Instr.binit noGuard false 100 (.lit 5)
    bytesAt (after i (lab i [] [(4, 0x40)])) (.pad 1 0x40) 16 = barBytes ⟨0, 5, false, 0, 0, 0⟩ := by decide +kernel

/-- R196: WAIT on a phase not yet passed blocks its quad. -/
theorem test_wait :
    let i := Instr.wait noGuard false 1 100 (.lit 0)
    (((after i (lab i [] [(4, 0x40)])).group 2).quad 0).waiting = some ⟨.pad 1 0x40, 0⟩ := by decide +kernel

/-- R198: RINIT with 2 slots of 3 arrivals: its header, then a barrier with EXP 3. -/
theorem test_rinit :
    let i := Instr.rinit noGuard false 100 (.lit 2) 101
    let t := after i (lab i [] [(4, 0x40), (5, 3)])
    bytesAt t (.pad 1 0x40) 16 = toBytes 2 16 ∧ bytesAt t (.pad 1 0x60) 16 = barBytes ⟨0, 3, false, 0, 0, 0⟩ := by
  decide +kernel

/-- R188: REL of plain memory goes in flight under one store-origin entry. -/
theorem test_rel :
    let i := Instr.rel ⟨0, true, false⟩ .b32 4 (.lit 1) 0x2000
    let t := after i (lab i)
    t.flights.map (fun f => f.2.kind) = [.release] ∧ (t.core 0).origins.length = 1 := by decide +kernel

/-- R221, R223: HTCLAIM of a record with B = 3 is refused, one with B = 4 claims 1 KiB. -/
theorem test_htclaim :
    let i := Instr.htclaim noGuard 1 0 104
    (((after i (lab i [] [(8, 3 * 2 ^ 19 + 3 * 2 ^ 6)])).team 1).table 1).claimed = false ∧
    (((after i (lab i [] [(8, 3 * 2 ^ 19 + 4 * 2 ^ 6)])).team 1).table 1).claimed = true := by decide +kernel

/-- R267: MRSV maps tiles 0 and 2 of mask 5 with priority 6 in bits 35 to 37 of their status. -/
theorem test_mrsv :
    let i := Instr.mrsv noGuard false 1 104 105
    let t := after i (lab i [] [(8, 5), (9, 6)])
    ((t.team 1).tile 0).mapped = true ∧ ((t.team 1).tile 1).mapped = false ∧
    ((t.team 1).tile 2).status.extractLsb' 35 3 = 6 ∧ readPred (t.group 2) 0 1 = true := by decide +kernel

/-- R301: CSRR reads TVEC; CSRW of TVECL keeps its two lowest bits clear. -/
theorem test_csr :
    let i := Instr.csrr noGuard 1 0x000
    let j := Instr.csrw noGuard 104 0x000
    readReg ((after i (labInh i)).group 2) 0 1 = 0x40000 ∧
    ((after j (labInh j [] [(8, 0x12347)])).ctx 0).tvec = 0x12344 := by decide +kernel

/-- R64: outside a handler a system instruction traps with ILLOP. -/
theorem test_system_traps :
    let i := Instr.csrr noGuard 1 0x000
    (((after i (lab i)).group 2).frame.tstate.toNat / 2 ^ 16 % 2 ^ 8) = Cause.illop.code := by decide +kernel

/-- R319: HALT parks its group. -/
theorem test_halt : ((after (.halt noGuard) (labInh (.halt noGuard))).group 2).park = true := by decide +kernel

/-- R370: a write of EQLOG2; R385: 110 °C stops the module; POWER sets the limit (its answer is event 1). -/
theorem test_host :
    ((after (.registerWrite 0 72 (toBytes 6 4)) State.reset).func 0).eqlog2 = 6 ∧
    (after (.thermalStop 0 110) State.reset).iluic.stopped = true ∧
    (after (.power ⟨0, 0, 0, 7⟩ 900) State.reset).iluic.limit = 900 ∧
    ((after (.power ⟨0, 0, 0, 7⟩ 900) State.reset).func 0).waiting.map (fun e => (e.type, e.status, e.tag)) = [(1, 0, 7)] := by
  decide +kernel

/-- Log 20: a step runs the placed instruction: MOVI r1 ← 0x55. -/
theorem test_step :
    (match step (State.reset.withFetchWord 96 (0x00000055 * 2 ^ 64 + 0x01EF0000 * 2 ^ 32 + 0x92004000 + 0x00200000)) with
      | .next t => t.tick
      | _ => 0) = 1 := by decide +kernel

/-! ## States that meet the statements' hypotheses: register instructions -/

/-- ExchangesGatherAndCombine: each of its instructions issues, with sources in and out of range. -/
def exchanges : List Instr :=
  [.qswz noGuard .b32 1 2 0x1B, .qbc noGuard .b64 2 4 3, .shflIdx noGuard .b32 1 2 (.lit 127), .shflUp noGuard .b32 1 2 (.lit 1),
   .shflDown noGuard .b32 1 2 (.lit 128), .shflXor noGuard .b32 1 2 (.reg 3), .ballot noGuard .b32 1 0,
   .ballot noGuard .b128 100 15, .voteAll noGuard 0 1, .voteAny noGuard 11 1, .voteUni noGuard 0 15, .matchAny noGuard .b64 1 2,
   .elect noGuard 0, .reduxAdd noGuard .i32 1 2, .reduxMin noGuard .i32 1 2, .reduxMax noGuard .n64 2 4,
   .reduxAnd noGuard .n32 1 2, .reduxOr noGuard .n32 1 2, .reduxXor noGuard .i64 2 4, .scanAdd noGuard .i32 false 1 2,
   .scanMin noGuard .i32 true 1 2, .scanMax noGuard .i32 true 1 2, .scanAnd noGuard .i32 false 1 2,
   .scanOr noGuard .i32 true 1 2, .scanXor noGuard .i32 false 1 2]

theorem witness_ExchangesGatherAndCombine : ∀ i ∈ exchanges, Issues i (lab i) (envOf (lab i)) :=
  issues_all (by decide +kernel)

def integers : List Instr :=
  [.iadd noGuard .i32 true 1 2 (.reg 3), .isub noGuard .n64 false 2 4 (.lit 5), .imul noGuard .i64 true 2 4 (.reg 6),
   .imad noGuard .i32 true 1 2 (.reg 3) 4, .iabs noGuard .i32 true 1 2, .iaddc noGuard .n32 1 15 2 (.reg 3) 15,
   .iaddc noGuard .n64 2 11 4 (.reg 6) 0, .imulh noGuard .i32 1 2 (.reg 3), .imin noGuard .i64 100 102 (.reg 104),
   .imax noGuard .n32 1 2 (.reg 3)]

theorem witness_IntegerArithmetic : ∀ i ∈ integers, Issues i (lab i) (envOf (lab i)) := issues_all (by decide +kernel)

/-- Shift counts at and past the width; fields of length 0, and up to the top bit. -/
def logics : List Instr :=
  [.and noGuard .b32 1 2 (.reg 3), .or noGuard .b64 2 4 (.reg 6), .xor noGuard .b32 1 2 (.lit 0), .not noGuard .b32 1 2,
   .shl noGuard .b32 1 2 (.lit 31), .shr noGuard .b32 1 2 (.lit 32), .sar noGuard .b64 2 4 (.lit 0xFFFFFFFF),
   .fshf noGuard 1 2 (.reg 3) 4, .popc noGuard .b32 1 2, .clz noGuard .b64 1 2, .brev noGuard .b32 1 2,
   .bfe noGuard .i32 1 2 0 0, .bfe noGuard .i64 2 4 0 64, .bfe noGuard .b32 1 2 31 1, .bfi noGuard .b32 1 2 (.reg 3) 0 32,
   .bfi noGuard .b64 2 4 (.reg 6) 63 1]

theorem witness_LogicShiftsAndBitFields : ∀ i ∈ logics, Issues i (lab i) (envOf (lab i)) := issues_all (by decide +kernel)

def moves : List Instr :=
  [.lea noGuard 2 4 (.reg 6) 31, .mov noGuard .b128 4 8, .movi noGuard 1 0xFFFFFFFF, .sel noGuard .b64 2 4 (.reg 6) 0,
   .isetp noGuard .i32 0 0 1 (.reg 2), .isetp noGuard .n64 5 11 2 (.reg 4), .fsetp noGuard 6 0 1 (.reg 2),
   .fsetp noGuard 7 0 1 (.reg 2), .fsetp noGuard 13 0 1 (.reg 2), .dsetp noGuard 0 0 2 (.reg 4),
   .plop noGuard 0 0 15 11 0xE8]

theorem witness_MovesSelectionAndPredicates : ∀ i ∈ moves, Issues i (lab i) (envOf (lab i)) := issues_all (by decide +kernel)

/-- Every selector of R31, and an SPR write. -/
def specials : List Instr :=
  ((List.range 16).map (fun n =>
    .sprRead noGuard (if 10 ≤ n ∧ n ≤ 14 then .b64 else .b32) 2 (BitVec.ofNat 7 n))) ++ [.sprWrite noGuard (.reg 1)]

theorem witness_SpecialRegisters : ∀ i ∈ specials, Issues i (lab i) (envOf (lab i)) := issues_all (by decide +kernel)

def floats : List Instr :=
  [.fadd noGuard .rne 1 2 (.reg 3), .fmul noGuard .rtz 1 2 (.reg 3), .ffma noGuard .rup 1 2 (.reg 3) 4,
   .dadd noGuard .rdn 2 4 (.reg 6), .dmul noGuard .rna 2 4 (.reg 6), .dfma noGuard .rne 2 4 (.reg 6) 8,
   .hadd2 noGuard .f16 .rne 1 2 (.reg 3), .hmul2 noGuard .bf16 .rne 1 2 (.reg 3), .hfma2 noGuard .f16 .rne 1 2 (.reg 3) 4,
   .fscale noGuard .rne 1 2 (.lit 0x7FFFFFFF), .fmin noGuard 1 2 (.reg 3), .fmax noGuard 1 2 (.reg 3),
   .fclass noGuard .f32 1 2, .fclass noGuard .f64 1 2]

theorem witness_FloatInstructionsRun : ∀ i ∈ floats, Issues i (lab i) (envOf (lab i)) := issues_all (by decide +kernel)

/-- A type of each width, and terms that are integers. -/
theorem witness_ExactArithmetic :
    (Ty.f64 ∈ [Ty.f64, .f32, .f16, .bf16] ∧ Ty.bf16 ∈ [Ty.f64, .f32, .f16, .bf16] ∧ Rnd.rdn ≠ .sr) ∧
    ∀ x ∈ [FVal.fin true 5 0, FVal.fin false 0 0], ∃ neg m, x = .fin neg m 0 := by
  refine ⟨by decide, ?_⟩
  intro x hx
  simp only [List.mem_cons, List.not_mem_nil, or_false] at hx
  rcases hx with rfl | rfl
  · exact ⟨true, 5, rfl⟩
  · exact ⟨false, 0, rfl⟩

theorem witness_RoundingAndConversion :
    (2 ^ 64 - 1 < 2 ^ 64 ∧ ((0 : Int) = 0 ∨ Ty.e4m3 = .fx64)) ∧ (0 < 2 ^ 64 ∧ ((-40 : Int) = 0 ∨ Ty.fx64 = .fx64)) := by decide

def conversions : List Instr :=
  [.cvt noGuard .e4m3 .f32 .sr false 1 2, .cvt noGuard .fx64 .f64 .rne false 2 4, .cvtp noGuard .e2m1 .f32 .rne true 1 2 (.reg 3),
   .cvtx noGuard .f32 .e2m1 7 1 2, .cvtx noGuard .i32 .i8 3 1 2, .frcp noGuard .rne 1 2, .frsq noGuard .rup 1 2,
   .fsqrt noGuard .rtz 1 2, .fexp2 noGuard .rne 1 2, .flog2 noGuard .rdn 1 2, .fsin noGuard .rne 1 2, .fcos noGuard .rna 1 2,
   .dot2 noGuard .i32 .n16 1 2 (.reg 3), .dot4 noGuard .f32 .e4m3 true 3 1 2 (.reg 3) 4, .dot4 noGuard .i32 .i8 false 0 1 2 (.reg 3) 0,
   .dot8 noGuard .f32 .e2m1 true 0 1 2 (.reg 3) 4]

theorem witness_ConversionsFunctionsAndDotsRun : ∀ i ∈ conversions, Issues i (lab i) (envOf (lab i)) :=
  issues_all (by decide +kernel)

/-- An argument of each kind: a NaN, infinities, zeros, a negative number, an integer and a power of two. -/
theorem witness_FunctionsAreRounded :
    value .f32 0x7FC00000 = .nan ∧ value .f32 0xFF800000 = .inf true ∧
    (∃ e, value .f32 0x80000000 = .fin true 0 e) ∧
    (∃ m e, value .f32 0xBF800000 = .fin true m e ∧ m ≠ 0) ∧
    ∃ m e, value .f32 0x41000000 = .fin false m e ∧ m ≠ 0 ∧ ratOf false m e = (8 : Int) ∧ ratOf false m e = 2 ^ (3 : Int) := by
  refine ⟨by decide +kernel, by decide +kernel, ⟨_, rfl⟩, ⟨_, _, rfl, by decide⟩, 0x800000, -20, by decide +kernel,
    by decide, ?_, ?_⟩ <;> norm_num [ratOf]

/-! ## States that meet the statements' hypotheses: control flow and exceptions -/

/-- Change the group of a small state, or quad 0 of it. -/
def withGroup (s : State) (f : Group → Group) : State := s.setGroup 2 (f (s.group 2))
def withQuad (s : State) (f : Quad → Quad) : State :=
  withGroup s (fun g => { g with quads := aset g.quads 0 (f (g.quad 0)) })

/-- What `StacksOk` asks, as a test. -/
def stackB (p : Nat × Quad) : Bool :=
  decide (p.1 < 32 ∧ p.2.resident.length ≤ 16 ∧ p.2.spilled % 8 = 0 ∧ (p.2.resident = [] → p.2.spilled = 0) ∧ p.2.depth ≤ 256)

def stacksB (e : Env) : Bool :=
  let p := e.s.part (partOf (e.s.launch (e.s.team e.g.team).launch).ctx)
  decide (p.pstack % 8 = 0 ∧ p.pstack + 2 ^ 16 * (96 * coreIndex p e.g.core + e.g.slot + 1) ≤ 2 ^ 39) && e.g.quads.all stackB

theorem stack_of {p : Nat × Quad} (h : stackB p = true) : p.1 < 32 ∧ StackOk p.2 := by
  have k := of_decide_eq_true h
  exact ⟨k.1, k.2⟩

theorem stacks_of {e : Env} (h : stacksB e = true) : StacksOk e := by
  simp only [stacksB, Bool.and_eq_true, decide_eq_true_eq] at h
  refine ⟨h.1, fun q x _ hx => ?_⟩
  exact stack_of (List.all_eq_true.mp h.2 _ (mem_of_aget? hx))

/-- What `Deliverable` asks, as a test. -/
def deliverableB (e : Env) (cause : Cause) (lanes : LaneMask) : Bool :=
  !e.inh && decide (lanes ≠ 0) && (List.range 32).all (fun q => laneNibble lanes q == 0 || e.is.quads.getLsbD q) &&
    e.g.quads.all (fun p => !e.is.quads.getLsbD p.1 ||
      (p.2.kind != .absent && p.2.kind != .ended && (laneNibble lanes p.1 == 0 || decide (p.2.depth < 256)))) &&
    (cause != .xlate || !(e.s.part (partOf e.ctx)).split.getLsbD 0) && stacksB e

theorem deliverable_of {e : Env} {cause : Cause} {lanes : LaneMask} (h : deliverableB e cause lanes = true) :
    Deliverable e cause lanes := by
  simp only [deliverableB, Bool.and_eq_true, Bool.not_eq_true', decide_eq_true_eq] at h
  obtain ⟨⟨⟨⟨⟨h1, h2⟩, h3⟩, h4⟩, h5⟩, h6⟩ := h
  have out : ∀ q, 32 ≤ q → laneNibble lanes q = 0 := by
    intro q hq
    apply BitVec.eq_of_getLsbD_eq
    intro i hi
    simp only [laneNibble, BitVec.getLsbD_extractLsb', hi, decide_true, Bool.true_and]
    rw [BitVec.getLsbD_of_ge lanes (4 * q + i) (by omega)]
    simp
  have at_ := fun q x (hx : aget? e.g.quads q = some x) => List.all_eq_true.mp h4 _ (mem_of_aget? hx)
  refine ⟨h1, h2, fun q hq => ?_, fun q x hq hx => ?_, fun q x hq hx hn => ?_, fun hc => ?_, stacks_of h6⟩
  · by_cases k : q < 32
    · have := List.all_eq_true.mp h3 q (List.mem_range.mpr k)
      simp only [Bool.or_eq_true, beq_iff_eq] at this
      exact this.resolve_left hq
    · exact absurd (out q (by omega)) hq
  · have := at_ q x hx
    simp only [hq, Bool.not_true, Bool.false_or, Bool.and_eq_true, bne_iff_ne] at this
    exact this.1
  · have := at_ q x hx
    simp only [hq, Bool.not_true, Bool.false_or, Bool.and_eq_true, Bool.or_eq_true, beq_iff_eq, decide_eq_true_eq] at this
    exact this.2.resolve_left hn
  · simpa [hc] using h5

/-- What holds of a gang's quads in the map holds of those looked up. -/
theorem gang_of {e : Env} {P : Nat → Quad → Prop} (h : ∀ p ∈ e.g.quads, e.is.quads.getLsbD p.1 = true → P p.1 p.2) :
    ∀ q x, e.is.quads.getLsbD q = true → aget? e.g.quads q = some x → P q x :=
  fun _ _ hq hx => h _ (mem_of_aget? hx) hq

theorem hasQuad_of {e : Env} (h : e.is.quads.getLsbD 0 = true) (k : (aget? e.g.quads 0).isSome = true) : HasQuad e := by
  obtain ⟨x, hx⟩ := Option.isSome_iff_exists.mp k
  exact ⟨0, x, h, hx⟩

/-- A branch that no lane takes, all take, and one of four takes on a stack of 255 entries. -/
def braState (p : Store 1) (deep : Bool) : State :=
  withQuad (withGroup (lab (.bra ⟨0, false, false⟩ 0x40)) (fun g => { g with p })) (fun x =>
    if deep then { x with resident := List.replicate 15 (stackEntry 1 0xF 0 0x1000), spilled := 240 } else x)

def braStates : List State := [braState [] false, braState [(0, 1), (16, 1), (32, 1), (48, 1)] false, braState [(0, 1)] true]

/-- A BRX of four lanes to two targets, one of them the instruction's own successor, on a stack of 255 entries. -/
def brxState : State :=
  withQuad (lab (.brx noGuard 4) [(4, 0x2000), (132, 0x2000), (260, 0x1010), (388, 0x1010)]) (fun x =>
    { x with resident := List.replicate 15 (stackEntry 1 0xF 0 0x1000), spilled := 240 })

theorem witness_BranchesDivergeByQuad :
    (∀ s ∈ braStates, Issues (.bra ⟨0, false, false⟩ 0x40) s (envOf s) ∧ HasQuad (envOf s) ∧ StacksOk (envOf s) ∧
      ∀ q x, (envOf s).is.quads.getLsbD q = true → aget? (envOf s).g.quads q = some x →
        laneNibble ((envOf s).lanes (.bra ⟨0, false, false⟩ 0x40)) q = 0 ∨
        laneNibble ((envOf s).lanes (.bra ⟨0, false, false⟩ 0x40)) q = liveMask x ∨ x.depth < 256) ∧
    (let s := brxState
     let e := envOf s
     let lanes := e.lanes (.brx noGuard 4)
     let good := fun (l : Nat) => readSet e.g l 4 64 < 2 ^ 49 ∧ readSet e.g l 4 64 % 4 = 0
     let dest := fun (l : Nat) =>
       if lanes.getLsbD l = true ∧ good l then BitVec.ofNat 49 (readSet e.g l 4 64) else e.is.after
     let mine := fun (q : Nat) (x : Quad) => lanesOf (nibbleLanes q (liveMask x))
     Issues (.brx noGuard 4) s e ∧ HasQuad e ∧ StacksOk e ∧
     (∀ l, lanes.getLsbD l = true → e.pres.getLsbD l = true → good l) ∧
     ∀ q x, e.is.quads.getLsbD q = true → aget? e.g.quads q = some x → x.depth + (distinct ((mine q x).map dest)).length ≤ 257) := by
  refine ⟨fun s hs => ?_, ?_⟩
  · have a : braStates.all (fun s => issuesB (.bra ⟨0, false, false⟩ 0x40) s && (envOf s).is.quads.getLsbD 0 &&
        (aget? (envOf s).g.quads 0).isSome && stacksB (envOf s) && (envOf s).g.quads.all (fun p =>
          decide ((envOf s).is.quads.getLsbD p.1 = true → (laneNibble ((envOf s).lanes (.bra ⟨0, false, false⟩ 0x40)) p.1 = 0 ∨
            laneNibble ((envOf s).lanes (.bra ⟨0, false, false⟩ 0x40)) p.1 = liveMask p.2 ∨ p.2.depth < 256)))) = true := by
      decide +kernel
    have b := List.all_eq_true.mp a s hs
    simp only [Bool.and_eq_true] at b
    refine ⟨issues_of b.1.1.1.1, hasQuad_of b.1.1.1.2 b.1.1.2, stacks_of b.1.2, fun q x hq hx => ?_⟩
    exact of_decide_eq_true (List.all_eq_true.mp b.2 _ (mem_of_aget? hx)) hq
  · refine ⟨issues_of (by decide +kernel), hasQuad_of (by decide +kernel) (by decide +kernel), stacks_of (by decide +kernel),
      lanes_of (by decide +kernel), gang_of (by decide +kernel)⟩

theorem noneSuspended_of {e : Env} (h : (e.s.cluster (e.g.core / 4)).table.isEmpty = true) : NoneSuspended e := by
  intro r hr
  rw [List.isEmpty_iff.mp h] at hr
  exact absurd hr List.not_mem_nil

def full (x : Quad) : Quad := { x with resident := List.replicate 15 (stackEntry 1 0xF 0 0x1000), spilled := 240 }

/-- RET on a CALL entry, JOIN on an empty stack and on a MARK entry, EXIT on a full stack of which no entry is read. -/
def popStates : List (Instr × State) :=
  [(.ret, withQuad (lab .ret) (fun x => { x with resident := [stackEntry 3 0xF 0 0x2000] })),
   (.join, lab .join),
   (.join, withQuad (lab .join) (fun x => { x with resident := [stackEntry 2 0x3 0 0x2000] })),
   (.exit noGuard, withQuad (lab (.exit noGuard)) (fun x => { x with
     resident := List.replicate 16 (stackEntry 1 0xF 0 0x1000), spilled := 240 }))]

/-- An EXIT in a handler that no lane takes. -/
def exitInh : State := withQuad (labInh (.exit ⟨15, true, false⟩)) (fun x => { x with handler := true })

theorem witness_CallStackPushesAndPops :
    (∀ i ∈ [Instr.call 0x40, .mark 0xFFFFFFF0], let s := withQuad (lab i) full
      Issues i s (envOf s) ∧ HasQuad (envOf s) ∧ StacksOk (envOf s) ∧
      ∀ q x, (envOf s).is.quads.getLsbD q = true → aget? (envOf s).g.quads q = some x → x.depth < 256) ∧
    (∀ p ∈ popStates, let e := envOf p.2
      Issues p.1 p.2 e ∧ HasQuad e ∧ StacksOk e ∧ NoneSuspended e ∧ (∀ x ∈ e.g.quads, x.2.regang = none) ∧
      (∀ q x, e.is.quads.getLsbD q = true → aget? e.g.quads q = some x →
        match p.1 with
        | .ret => ∃ en, x.resident.head? = some en ∧ entryKind en = 3
        | .join => (x.resident = [] ∧ x.mask ≠ 0) ∨ ∃ en, x.resident.head? = some en ∧ (entryKind en = 1 ∨ entryKind en = 2)
        | _ => True) ∧ e.inh = false) ∧
    (let s := exitInh
     let e := envOf s
     Issues (.exit ⟨15, true, false⟩) s e ∧ HasQuad e ∧ StacksOk e ∧ NoneSuspended e ∧ (∀ x ∈ e.g.quads, x.2.regang = none) ∧
      e.inh = true ∧ ∃ q x z, aget? e.g.quads q = some x ∧ z.handler = true ∧ z.handled = false ∧
        if e.is.quads.getLsbD q then Unwinds s e.g q { (x.goto e.is.after) with
          exited := x.exited ||| laneNibble (e.lanes (.exit ⟨15, true, false⟩)) q
          mask := x.mask &&& ~~~ (x.exited ||| laneNibble (e.lanes (.exit ⟨15, true, false⟩)) q) } z else z = x) := by
  refine ⟨fun i hi => ?_, fun p hp => ?_, ?_⟩
  · have a : [Instr.call 0x40, .mark 0xFFFFFFF0].all (fun i => let s := withQuad (lab i) full
        issuesB i s && (envOf s).is.quads.getLsbD 0 && (aget? (envOf s).g.quads 0).isSome && stacksB (envOf s) &&
        (envOf s).g.quads.all (fun p => decide (p.2.depth < 256))) = true := by decide +kernel
    have b := List.all_eq_true.mp a i hi
    simp only [Bool.and_eq_true] at b
    exact ⟨issues_of b.1.1.1.1, hasQuad_of b.1.1.1.2 b.1.1.2, stacks_of b.1.2,
      gang_of (fun p hp _ => of_decide_eq_true (List.all_eq_true.mp b.2 p hp))⟩
  · have a : popStates.all (fun p => let e := envOf p.2
        issuesB p.1 p.2 && e.is.quads.getLsbD 0 && (aget? e.g.quads 0).isSome && stacksB e &&
        (e.s.cluster (e.g.core / 4)).table.isEmpty &&
        decide (∀ x ∈ e.g.quads, x.2.regang = none) && !e.inh) = true := by decide +kernel
    have b := List.all_eq_true.mp a p hp
    simp only [Bool.and_eq_true, decide_eq_true_eq, Bool.not_eq_true'] at b
    refine ⟨issues_of b.1.1.1.1.1.1, hasQuad_of b.1.1.1.1.1.2 b.1.1.1.1.2, stacks_of b.1.1.1.2, noneSuspended_of b.1.1.2, b.1.2, ?_, b.2⟩
    simp only [popStates, List.mem_cons, List.not_mem_nil, or_false] at hp
    rcases hp with rfl | rfl | rfl | rfl
    · exact gang_of (e := envOf (withQuad (lab .ret) (fun x => { x with resident := [stackEntry 3 0xF 0 0x2000] })))
        (fun p hp hq => ⟨stackEntry 3 0xF 0 0x2000, by revert p; decide +kernel, by decide +kernel⟩)
    · exact gang_of (e := envOf (lab .join)) (fun p hp hq => .inl (by revert p; decide +kernel))
    · exact gang_of (e := envOf (withQuad (lab .join) (fun x => { x with resident := [stackEntry 2 0x3 0 0x2000] })))
        (fun p hp hq => .inr ⟨stackEntry 2 0x3 0 0x2000, by revert p; decide +kernel, by decide +kernel⟩)
    · exact fun _ _ _ _ => trivial
  · refine ⟨issues_of (by decide +kernel), hasQuad_of (by decide +kernel) (by decide +kernel), stacks_of (by decide +kernel),
      noneSuspended_of (by decide +kernel), by decide +kernel, by decide +kernel, 0, (envOf exitInh).g.quad 0,
      { (((envOf exitInh).g.quad 0).goto (envOf exitInh).is.after) with
        exited := ((envOf exitInh).g.quad 0).exited ||| laneNibble ((envOf exitInh).lanes (.exit ⟨15, true, false⟩)) 0
        mask := ((envOf exitInh).g.quad 0).mask &&& ~~~ (((envOf exitInh).g.quad 0).exited |||
          laneNibble ((envOf exitInh).lanes (.exit ⟨15, true, false⟩)) 0) },
      by decide +kernel, by decide +kernel, by decide +kernel, ?_⟩
    rw [if_pos (by decide +kernel)]
    exact .live (by decide +kernel)

/-- A group of two quads, of which the second is still on its way to the REGANG, or waits there. -/
def regangState (here : Bool) : State :=
  withGroup (lab .regang) (fun g => { g with quads := aset g.quads 1 { kind := .header, mask := 0xF, pc := 0x2000
                                                                       regang := if here then some (0x1004, 0, 0) else none } })

theorem unpassed_of {det : Bool} {g : Group} (h : g.quads.all (fun x => match x.2.regang with
    | some r => !(if det then decide (1536 ≤ (g.lclk - r.2.2).toNat) else decide (64 ≤ r.2.1))
    | none => true) = true) : ∀ addr, boundPassed det g addr = false := by
  intro addr
  simp only [boundPassed, List.any_eq_false]
  intro x hx
  simp only [regangWaiters, List.mem_filter, List.mem_map] at hx
  obtain ⟨p, hp, e⟩ := hx.1
  have := List.all_eq_true.mp h p hp
  rw [e] at this
  revert this
  cases x.regang <;> cases det <;> simp

theorem witness_RegangGathersAGroup : ∀ s ∈ [regangState false, regangState true], let e := envOf s
    Issues .regang s e ∧ e.g.park = false ∧
    (∃ q x, e.is.quads.getLsbD q = true ∧ aget? e.g.quads q = some x ∧ regangCounts e.inh x = true) ∧
    (∀ q x, e.is.quads.getLsbD q = true → aget? e.g.quads q = some x → e.inh = true → x.handler = true) ∧
    (e.g.quads.map Prod.fst).Nodup ∧ ∀ addr, boundPassed e.l.det e.g addr = false := by
  intro s hs
  simp only [List.mem_cons, List.not_mem_nil, or_false] at hs
  rcases hs with rfl | rfl
  · exact ⟨issues_of (by decide +kernel), by decide +kernel, ⟨0, (envOf (regangState false)).g.quad 0, by decide +kernel,
      by decide +kernel, by decide +kernel⟩, gang_of (by decide +kernel), by decide +kernel, unpassed_of (by decide +kernel)⟩
  · exact ⟨issues_of (by decide +kernel), by decide +kernel, ⟨0, (envOf (regangState true)).g.quad 0, by decide +kernel,
      by decide +kernel, by decide +kernel⟩, gang_of (by decide +kernel), by decide +kernel, unpassed_of (by decide +kernel)⟩

theorem witness_RetiringAndTrappingInstructions :
    (∀ i ∈ [Instr.nop noGuard, .yield noGuard, .ppoint 100], Issues i (lab i) (envOf (lab i)) ∧ (envOf (lab i)).is.isLast = true ∧
      ((lab i).ctx (envOf (lab i)).ctx).stopping = none) ∧
    (∀ p ∈ [(Instr.trap noGuard 255, Cause.trapn), (.brk noGuard, .brk)], let e := envOf (lab p.1)
      Issues p.1 (lab p.1) e ∧ Deliverable e p.2 (e.lanes p.1 &&& e.pres)) ∧
    (∀ i ∈ [Instr.trap ⟨15, true, false⟩ 0, .brk ⟨15, true, false⟩], let e := envOf (lab i)
      Issues i (lab i) e ∧ e.lanes i &&& e.pres = 0) := by
  refine ⟨fun i hi => ⟨issues_all (f := lab) (by decide +kernel) i hi, ?_⟩, fun p hp => ?_, fun i hi => ⟨issues_all (f := lab) (by decide +kernel) i hi, ?_⟩⟩
  · revert i; decide +kernel
  · have a : [(Instr.trap noGuard 255, Cause.trapn), (.brk noGuard, .brk)].all (fun p => let e := envOf (lab p.1)
      issuesB p.1 (lab p.1) && deliverableB e p.2 (e.lanes p.1 &&& e.pres)) = true := by decide +kernel
    have b := List.all_eq_true.mp a p hp
    simp only [Bool.and_eq_true] at b
    exact ⟨issues_of b.1, deliverable_of b.2⟩
  · revert i; decide +kernel

/-- An ill-formed term, a system instruction outside a handler, a pair that is not aligned, and a source still pending
under CHECK. -/
def failing : List (Instr × State × Cause) :=
  let i := Instr.iadd noGuard .i32 false 96 2 (.reg 3)
  let f : Flight := { gid := 2, team := 1, ctx := 0, core := 0, kind := .result, dst := some 2, lanes := 1, vals := [(0, 5)] }
  [(.iadd noGuard .b32 false 1 2 (.reg 3), lab i, .illop), (.l1wb noGuard, lab (.l1wb noGuard), .illop),
   (.iadd noGuard .i64 false 1 2 (.reg 4), lab i, .illreg), (i, { lab i [] [] 8 with flights := [(7, f)] }, .depmiss)]

theorem witness_FailedChecksTrap : ∀ p ∈ failing, let e := envOf p.2.1
    p.2.1.env? = some e ∧ isEvent p.1 = false ∧ acquireHolds p.2.1 e.gid e.is.quads = false ∧
    p.2.2 = (if WellFormed p.1 = false ∨ (isSystem p.1 = true ∧ e.inh = false) then .illop
      else if e.regsOk p.1 = false then .illreg else .depmiss) ∧
    (WellFormed p.1 = false ∨ (isSystem p.1 = true ∧ e.inh = false) ∨ e.regsOk p.1 = false ∨
      (e.hazard p.1 = true ∧ e.l.check = true)) ∧
    Deliverable e p.2.2 (e.lanes p.1 &&& e.pres) := by
  intro p hp
  have a : failing.all (fun p => let e := envOf p.2.1
    p.2.1.env?.isSome && deliverableB e p.2.2 (e.lanes p.1 &&& e.pres) &&
    decide (isEvent p.1 = false ∧ acquireHolds p.2.1 e.gid e.is.quads = false ∧
      p.2.2 = (if WellFormed p.1 = false ∨ (isSystem p.1 = true ∧ e.inh = false) then .illop
        else if e.regsOk p.1 = false then .illreg else .depmiss) ∧
      (WellFormed p.1 = false ∨ (isSystem p.1 = true ∧ e.inh = false) ∨ e.regsOk p.1 = false ∨
        (e.hazard p.1 = true ∧ e.l.check = true)))) = true := by decide +kernel
  have b := List.all_eq_true.mp a p hp
  simp only [Bool.and_eq_true, decide_eq_true_eq] at b
  exact ⟨env_of b.1.1, b.2.1, b.2.2.1, b.2.2.2.1, b.2.2.2.2, deliverable_of b.1.2⟩

/-- RTT of the only handler quad, and of one of two. -/
def rttState (two : Bool) : State :=
  let s := withQuad (labInh .rtt) (fun x => { x with handler := true, resident := [stackEntry 4 0xF 1 0x1000] })
  if two then withGroup s (fun g => { g with quads := aset g.quads 1 { kind := .header, mask := 0xF, pc := 0x40000
                                                                       handler := true, resident := [stackEntry 4 0xF 1 0x1000] } }) else s

theorem witness_TrapReturnRestores : ∀ s ∈ [rttState false, rttState true], let e := envOf s
    Issues .rtt s e ∧ e.inh = true ∧ StacksOk e ∧ NoneSuspended e ∧ HasQuad e ∧ (∀ x ∈ e.g.quads, x.2.regang = none) ∧
    (e.g.quads.map Prod.fst).Nodup ∧ (∀ q x, aget? e.g.quads q = some x → q < 32 ∧ StackOk x) ∧
    ∀ q x, e.is.quads.getLsbD q = true → aget? e.g.quads q = some x → ∃ en, x.resident.head? = some en ∧ entryKind en = 4 := by
  intro s hs
  simp only [List.mem_cons, List.not_mem_nil, or_false] at hs
  rcases hs with rfl | rfl <;>
    exact ⟨issues_of (by decide +kernel), by decide +kernel, stacks_of (by decide +kernel),
      fun r hr => absurd hr (List.not_mem_nil), hasQuad_of (by decide +kernel) (by decide +kernel), by decide +kernel,
      by decide +kernel, entries_of (fun p hp => stack_of (by revert p; decide +kernel)),
      gang_of (fun p hp hq => ⟨stackEntry 4 0xF 1 0x1000, by revert p; decide +kernel, by decide +kernel⟩)⟩

/-- What `FullQuad` asks of quad 0, as a test. -/
def envB (e : Env) : Bool :=
  e.is.quads.getLsbD 0 && (aget? e.g.quads 0).isSome && decide (256 ≤ (e.g.quad 0).depth) &&
    (liveMask (e.g.quad 0)).getLsbD 0 && e.pres.getLsbD 0

/-- A BRA and a BRX of part of a quad on a full stack, and a BRX of a quad that has room for its TRAP entry alone. -/
def braFull : State := withQuad (braState [(0, 1)] false) (fun x =>
  { x with resident := List.replicate 16 (stackEntry 1 0xF 0 0x1000), spilled := 240 })
def brxFull : State := withQuad brxState (fun x => { x with resident := List.replicate 16 (stackEntry 1 0xF 0 0x1000) })
def brxShort : State := withQuad (lab (.brx noGuard 4) [(4, 0x2000), (132, 0x3000), (260, 0x4000), (388, 0x1010)]) (fun x =>
  { x with resident := List.replicate 15 (stackEntry 1 0xF 0 0x1000), spilled := 240 })

theorem fullQuad_of {e : Env} (h : (envB e) = true) : FullQuad e 0 (e.g.quad 0) := by
  simp only [envB, Bool.and_eq_true, decide_eq_true_eq] at h
  refine ⟨h.1.1.1.1, by omega, ?_, h.1.1.2, 0, by decide, h.1.2, h.2⟩
  have := h.1.1.1.2
  cases hq : aget? e.g.quads 0 with
  | none => simp [hq] at this
  | some x => simp [Group.quad, hq]

theorem witness_BranchesDivergeByQuad_full :
    (let i := Instr.bra ⟨0, false, false⟩ 0x40
     Issues i braFull (envOf braFull) ∧ HasQuad (envOf braFull) ∧ StacksOk (envOf braFull) ∧
      FullQuad (envOf braFull) 0 ((envOf braFull).g.quad 0) ∧ laneNibble ((envOf braFull).lanes i) 0 ≠ 0 ∧
      laneNibble ((envOf braFull).lanes i) 0 ≠ liveMask ((envOf braFull).g.quad 0)) ∧
    (∀ s ∈ [brxFull, brxShort], let e := envOf s
      let lanes := e.lanes (.brx noGuard 4)
      let good := fun (l : Nat) => readSet e.g l 4 64 < 2 ^ 49 ∧ readSet e.g l 4 64 % 4 = 0
      let dest := fun (l : Nat) =>
        if lanes.getLsbD l = true ∧ good l then BitVec.ofNat 49 (readSet e.g l 4 64) else e.is.after
      let mine := fun (q : Nat) (x : Quad) => lanesOf (nibbleLanes q (liveMask x))
      Issues (.brx noGuard 4) s e ∧ HasQuad e ∧ StacksOk e ∧ (∀ l, lanes.getLsbD l = true → e.pres.getLsbD l = true → good l) ∧
      1 < (distinct ((mine 0 (e.g.quad 0)).map dest)).length ∧
      (s = brxFull → FullQuad e 0 (e.g.quad 0)) ∧
      (s = brxShort → Deliverable e .addr 0xF ∧ 257 < (e.g.quad 0).depth + (distinct ((mine 0 (e.g.quad 0)).map dest)).length)) := by
  refine ⟨⟨issues_of (by decide +kernel), hasQuad_of (by decide +kernel) (by decide +kernel), stacks_of (by decide +kernel),
    fullQuad_of (by decide +kernel), by decide +kernel, by decide +kernel⟩, fun s hs => ?_⟩
  simp only [List.mem_cons, List.not_mem_nil, or_false] at hs
  rcases hs with rfl | rfl
  · exact ⟨issues_of (by decide +kernel), hasQuad_of (by decide +kernel) (by decide +kernel), stacks_of (by decide +kernel),
      lanes_of (by decide +kernel), by decide +kernel, fun _ => fullQuad_of (by decide +kernel),
      fun h => absurd h (by decide +kernel)⟩
  · exact ⟨issues_of (by decide +kernel), hasQuad_of (by decide +kernel) (by decide +kernel), stacks_of (by decide +kernel),
      lanes_of (by decide +kernel), by decide +kernel, fun h => absurd h (by decide +kernel),
      fun _ => ⟨deliverable_of (by decide +kernel), by decide +kernel⟩⟩

/-- A BRX of a lane past 2^49 and a misaligned one, or of the misaligned one alone; outside a handler and in one. -/
def brxBad (past inh : Bool) : State :=
  let v : Store 32 := (4, 0x2000) :: (if past then [(5, 0x20000)] else []) ++ [(132, 0x2002), (260, 0x1010), (388, 0x1010)]
  withQuad (if inh then labInh (.brx noGuard 4) v else lab (.brx noGuard 4) v) (fun x => { x with handler := inh })

theorem witness_BranchesDivergeByQuad_bad : ∀ past inh : Bool, let s := brxBad past inh
    let e := envOf s
    let lanes := e.lanes (.brx noGuard 4)
    let addr := fun (l : Nat) => readSet e.g l 4 64
    let good := fun (l : Nat) => addr l < 2 ^ 49 ∧ addr l % 4 = 0
    let own := fun (l : Nat) => if 2 ^ 49 ≤ addr l then Cause.addr else .align
    let bad : LaneMask := if past then 3 else 2
    let cause : Cause := if past then .addr else .align
    Issues (.brx noGuard 4) s e ∧ HasQuad e ∧ StacksOk e ∧ bad ≠ 0 ∧
    (∀ l, bad.getLsbD l = true ↔ lanes.getLsbD l = true ∧ e.pres.getLsbD l = true ∧ ¬ good l) ∧
    FirstCause bad own cause ∧ e.inh = inh ∧ lowestLane bad = some (if past then 0 else 1) ∧ (inh = false → Deliverable e cause bad) := by
  intro past inh
  have ge : ∀ l, 128 ≤ l → ∀ m : LaneMask, m.getLsbD l = false := fun l hl m => BitVec.getLsbD_of_ge m l hl
  refine ⟨issues_of ?_, hasQuad_of ?_ ?_, stacks_of ?_, ?_, fun l => ?_, ?_, ?_, ?_, fun hi => deliverable_of ?_⟩
  · cases past <;> cases inh <;> decide +kernel
  · cases past <;> cases inh <;> decide +kernel
  · cases past <;> cases inh <;> decide +kernel
  · cases past <;> cases inh <;> decide +kernel
  · cases past <;> decide
  · by_cases hl : l < 128
    · have k : ∀ past inh : Bool, ∀ l, l < 128 → ((if past then 3 else 2 : LaneMask).getLsbD l = true ↔
          ((envOf (brxBad past inh)).lanes (.brx noGuard 4)).getLsbD l = true ∧ (envOf (brxBad past inh)).pres.getLsbD l = true ∧
          ¬ (readSet (envOf (brxBad past inh)).g l 4 64 < 2 ^ 49 ∧ readSet (envOf (brxBad past inh)).g l 4 64 % 4 = 0)) := by
        decide +kernel
      exact k past inh l hl
    · simp [ge l (by omega)]
  · have k : ∀ inh : Bool, 2 ^ 49 ≤ readSet (envOf (brxBad true inh)).g 0 4 64 ∧ ¬ 2 ^ 49 ≤ readSet (envOf (brxBad false inh)).g 1 4 64 := by
      decide +kernel
    cases past
    · refine .inr (.inl ⟨rfl, ⟨1, rfl, if_neg (k inh).2⟩, fun ⟨l, hl, hx⟩ => ?_⟩)
      have : l = 1 := by
        by_cases h : l < 128
        · have j : ∀ l, l < 128 → (2 : LaneMask).getLsbD l = true → l = 1 := by decide
          exact j l h hl
        · exact absurd hl (by simp [ge l (by omega)])
      subst this
      exact Cause.noConfusion ((if_neg (k inh).2).symm.trans hx)
    · exact .inl ⟨rfl, 0, rfl, if_pos (k inh).1⟩
  · cases past <;> cases inh <;> decide +kernel
  · cases past <;> decide
  · subst hi
    cases past <;> decide +kernel

/-- CALL and MARK on a full stack; RET, JOIN and RTT whose quad's top entry is of another kind, or with no entry. -/
def callFull (i : Instr) : State :=
  withQuad (lab i) (fun x => { x with resident := List.replicate 16 (stackEntry 1 0xF 0 0x1000), spilled := 240 })
def wrongTop (i : Instr) (inh : Bool) (st : List DWord) : State :=
  withQuad (if inh then labInh i else lab i) (fun x => { x with handler := inh, resident := st })
def wrongTops : List (Instr × List Nat × List DWord) :=
  [(.ret, [3], []), (.ret, [3], [stackEntry 1 0xF 0 0x1000]), (.join, [1, 2], [stackEntry 3 0xF 0 0x1000]), (.rtt, [4], [])]

theorem kind_of {o : Option DWord} {K : List Nat} {en : DWord} (he : o = some en)
    (h : o.all (fun en => decide (entryKind en ∉ K)) = true) : entryKind en ∉ K := by
  subst he
  simpa using h

theorem witness_CallStackPushesAndPops_wrong :
    (∀ i ∈ [Instr.call 0x40, .mark 0x40], Issues i (callFull i) (envOf (callFull i)) ∧
      FullQuad (envOf (callFull i)) 0 ((envOf (callFull i)).g.quad 0)) ∧
    (∀ p ∈ wrongTops.take 3, ∀ inh : Bool, let e := envOf (wrongTop p.1 inh p.2.2)
      Issues p.1 (wrongTop p.1 inh p.2.2) e ∧ (∃ q, e.is.quads.getLsbD q = true ∧ match (e.g.quad q).resident.head? with
        | none => p.1 = .ret
        | some en => entryKind en ∉ p.2.1) ∧
      (inh = true → e.inh = true) ∧ (inh = false → Deliverable e .illop (e.lanes p.1 &&& e.pres))) := by
  refine ⟨fun i hi => ?_, fun p hp inh => ?_⟩
  · have a : [Instr.call 0x40, .mark 0x40].all (fun i => issuesB i (callFull i) && envB (envOf (callFull i))) = true := by
      decide +kernel
    have b := List.all_eq_true.mp a i hi
    simp only [Bool.and_eq_true] at b
    exact ⟨issues_of b.1, fullQuad_of b.2⟩
  · simp only [wrongTops, List.take, List.mem_cons, List.not_mem_nil, or_false] at hp
    rcases hp with rfl | rfl | rfl <;> cases inh <;>
      exact ⟨issues_of (by decide +kernel), ⟨0, by decide +kernel, by
          split
          · first
              | rfl
              | exact absurd (by assumption) (by decide +kernel)
          · exact kind_of (by assumption) (by decide +kernel)⟩, by decide +kernel,
        by first
          | exact fun h => Bool.noConfusion h
          | exact fun _ => deliverable_of (by decide +kernel)⟩

theorem witness_TrapReturnRestores_wrong : ∀ inh : Bool, let e := envOf (wrongTop .rtt inh [])
    Issues .rtt (wrongTop .rtt inh []) e ∧
    (∃ q, e.is.quads.getLsbD q = true ∧ ∀ en, (e.g.quad q).resident.head? = some en → entryKind en ≠ 4) ∧
    (inh = true → e.inh = true) ∧ (inh = false → Deliverable e .illop (e.lanes .rtt &&& e.pres)) := by
  intro inh
  cases inh
  · exact ⟨issues_of (by decide +kernel), ⟨0, by decide +kernel, fun en h => absurd h (by
      rw [show ((envOf (wrongTop .rtt false [])).g.quad 0).resident = [] by decide +kernel]; simp)⟩, by decide +kernel,
      fun _ => deliverable_of (by decide +kernel)⟩
  · exact ⟨issues_of (by decide +kernel), ⟨0, by decide +kernel, fun en h => absurd h (by
      rw [show ((envOf (wrongTop .rtt true [])).g.quad 0).resident = [] by decide +kernel]; simp)⟩, by decide +kernel,
      fun h => Bool.noConfusion h⟩

/-- PPOINT while a pre-emption of its context is under way: a record at A, one that is malformed, an address of its own
alignment. -/
def ppointState (a : Word) : State :=
  let s := lab (.ppoint 100) [] [(4, a)]
  s.setCtx 0 { s.ctx 0 with stopping := some 0 }

theorem witness_RetiringAndTrappingInstructions_stops : ∀ a ∈ [(0x2000 : Word), 0x2004], let s := ppointState a
    Issues (.ppoint 100) s (envOf s) ∧ (envOf s).is.isLast = true ∧ (s.ctx (envOf s).ctx).stopping ≠ none := by
  intro a ha
  have k : [(0x2000 : Word), 0x2004].all (fun a => let s := ppointState a
    issuesB (.ppoint 100) s && (envOf s).is.isLast && decide ((s.ctx (envOf s).ctx).stopping ≠ none)) = true := by decide +kernel
  have b := List.all_eq_true.mp k a ha
  simp only [Bool.and_eq_true, decide_eq_true_eq] at b
  exact ⟨issues_of b.1.1, b.1.2, b.2⟩

/-- A failed check without an active present lane, on a full stack, and in a handler. -/
def failOff : Instr := .ld ⟨15, true, true⟩ .b32 .ca 1 100 0
theorem witness_FailedChecksTrap_undelivered :
    (let s := lab failOff
     s.env? = some (envOf s) ∧ acquireHolds s (envOf s).gid (envOf s).is.quads = false ∧ WellFormed failOff = false ∧
      (envOf s).inh = false ∧ (envOf s).lanes failOff &&& (envOf s).pres = 0) ∧
    (let i := Instr.ld noGuard .b32 .ca 1 100 0
     let s := callFull i
     s.env? = some (envOf s) ∧ acquireHolds s (envOf s).gid (envOf s).is.quads = false ∧ WellFormed i = false ∧
      FullQuad (envOf s) 0 ((envOf s).g.quad 0) ∧ laneNibble ((envOf s).lanes i &&& (envOf s).pres) 0 ≠ 0) ∧
    (let i := Instr.ld noGuard .b32 .ca 1 100 0
     let s := labInh i
     s.env? = some (envOf s) ∧ acquireHolds s (envOf s).gid (envOf s).is.quads = false ∧ WellFormed i = false ∧ (envOf s).inh = true) :=
  ⟨⟨env_of (by decide +kernel), by decide +kernel⟩,
   ⟨env_of (by decide +kernel), by decide +kernel, by decide +kernel, fullQuad_of (by decide +kernel), by decide +kernel⟩,
   env_of (by decide +kernel), by decide +kernel⟩

/-- A CSR number that is reserved, and a write of a read-only one. -/
theorem witness_FailedChecksTrap_csr : ∀ p ∈ [(Instr.csrr noGuard 4 0xFFF, true), (.csrw noGuard 104 0x010, false)],
    let s := labInh p.1
    let e := envOf s
    s.env? = some e ∧ isEvent p.1 = false ∧ acquireHolds s e.gid e.is.quads = false ∧
      if p.2 then csrNamed 0xFFF = false else csrWritable 0x010 = false := by
  intro p hp
  have k : [(Instr.csrr noGuard 4 0xFFF, true), (.csrw noGuard 104 0x010, false)].all (fun p => let s := labInh p.1
    let e := envOf s
    s.env?.isSome && decide (isEvent p.1 = false ∧ acquireHolds s e.gid e.is.quads = false ∧
      if p.2 then csrNamed 0xFFF = false else csrWritable 0x010 = false)) = true := by decide +kernel
  have b := List.all_eq_true.mp k p hp
  simp only [Bool.and_eq_true, decide_eq_true_eq] at b
  exact ⟨env_of b.1, b.2.1, b.2.2.1, b.2.2.2⟩

/-! ## States that meet the statements' hypotheses: memory -/

/-- The translation of the placed page, and the place of an address in it. -/
def leafOf : Nat → Leaf := fun _ => ⟨0, 0, false, false, true, true, true, 38⟩
def at2000 : Nat → Nat := fun _ => devPlace 0x2000

theorem quiet_of {e : Env} (h : e.s.flights.isEmpty = true) : Quiet e := by
  intro f hf
  rw [List.isEmpty_iff.mp h] at hf
  exact absurd hf List.not_mem_nil

theorem syncOpen_of {s : State} {gid : Nat} (h : s.flights.isEmpty = true) : syncOpen s gid = false := by
  simp [syncOpen, flightsOf, List.isEmpty_iff.mp h]

theorem settled_of {e : Env} (h : e.s.flights.isEmpty = true) : Settled e := by
  refine ⟨quiet_of h, ?_⟩
  simp [readsOpen, flightsOf, List.isEmpty_iff.mp h]

theorem idle_of {e : Env} {lanes : LaneMask} {place : Nat → Place} (h : e.accessHeld = false)
    (k : ∀ l, l < 128 → lanes.getLsbD l = true →
      lineBusy e.s e.gid (place l) = false ∧ regionBusy e.s e.gid (place l) = false ∧
      ((place l).apart e.s = true → syncOpen e.s e.gid = false)) : Idle e lanes place := ⟨h, lanes_of k⟩

theorem room_of {s : State} {c n : Nat} (h : (s.core c).l1.length + n ≤ l1Lines) : HasRoom s c n := h

theorem noPartials_of {s : State} {n : Nat} (h : s.cores.all (fun k => k.2.l1.isEmpty) = true) : NoPartials s n := by
  intro k hk x hx
  rw [List.isEmpty_iff.mp (List.all_eq_true.mp h k hk)] at hx
  simp [aget?] at hx

theorem readBytes_congr {m m' : Store 8} {a n : Nat} (h : ∀ x, a ≤ x → x < a + n → Store.get m x = Store.get m' x) :
    readBytes m a n = readBytes m' a n := by
  induction n generalizing a with
  | zero => rfl
  | succ n ih =>
    simp only [readBytes]
    rw [h a (Nat.le_refl a) (by omega), ih fun x h1 h2 => h x (by omega) (by omega)]

/-- A virtual address that a leaf at level 1 maps, the leaf's entry outside some spans and not poisoned, leads to its place
whatever they hold. -/
theorem mapsFirm_of {s : State} {ctx va pa : Nat} {write : Bool} {spans : List (Nat × Nat)} (l : Leaf)
    (h : let a := devPlace ((s.ctx ctx).l1pt + 8 * (va / 2 ^ 38 % 2048))
      memInRange (s.part (partOf ctx)) 0 ((s.ctx ctx).l1pt + 8 * (va / 2 ^ 38 % 2048)) = true ∧ s.isPoisoned a = false ∧
      readEntry 1 (ofBytes (readBytes s.mem a 8)) = .leaf l ∧ (∀ z ∈ spans, a + 8 ≤ z.1 ∨ z.1 + z.2 ≤ a) ∧
      (write = true → l.w = true) ∧ l.place s ctx va = some pa) : MapsFirm s ctx va pa write spans := by
  intro u hp hc hl hn hb hm
  obtain ⟨h1, h2, h3, h4, h5, h6⟩ := h
  have ep : ∀ n, u.part n = s.part n := fun n => by unfold State.part; rw [hp]
  have ec : ∀ n, u.ctx n = s.ctx n := fun n => by unfold State.ctx; rw [hc]
  have el : ∀ n, u.link n = s.link n := fun n => by unfold State.link; rw [hl]
  refine ⟨l, ?_, h5, ?_⟩
  · have e2 : u.isPoisoned (devPlace ((s.ctx ctx).l1pt + 8 * (va / 2 ^ 38 % 2048))) = false := by
      have k : u.linkLost (devPlace ((s.ctx ctx).l1pt + 8 * (va / 2 ^ 38 % 2048))) =
          s.linkLost (devPlace ((s.ctx ctx).l1pt + 8 * (va / 2 ^ 38 % 2048))) := by
        unfold State.linkLost
        rw [hl]
      simp only [State.isPoisoned, Bool.or_eq_false_iff, List.contains_eq_mem, decide_eq_false_iff_not] at h2 ⊢
      exact ⟨fun m => h2.1 (hb _ m), k.trans h2.2⟩
    have e3 : readBytes u.mem (devPlace ((s.ctx ctx).l1pt + 8 * (va / 2 ^ 38 % 2048))) 8 =
        readBytes s.mem (devPlace ((s.ctx ctx).l1pt + 8 * (va / 2 ^ 38 % 2048))) 8 :=
      readBytes_congr fun x h7 h8 => hm x fun z hz => by rcases h4 z hz with k | k <;> omega
    unfold walk walkFrom
    rw [ep, ec]
    simp only [levelBits, memPlace, if_true, h1, recallCopies_none (hn _), e2, homeBytes_clean (hn _), e3, h3]
    rfl
  · rw [← h6]
    unfold Leaf.place
    simp only [ep, el]

def iLd : Instr := .ld noGuard .b32 .ca 1 4 0x2000
def iLds : Instr := .lds noGuard .b64 2 100 0xFE0
def iLdc : Instr := .ldc noGuard .b32 1 100 0 0
def iPref : Instr := .pref noGuard .ca 4 0x2000

/-- An LD of a page, an LDS of its scratchpad's last row, an LDC of a cluster launch's slot 0, a PREF. -/
theorem witness_LoadsAndPrefetchesGoInFlight :
    (let e := envOf (lab iLd)
     e.flagFull noGuard = false ∧ Issues iLd (lab iLd) e ∧
      GlobalOk e .read (loadRegion .b32) 4 (e.lanes iLd) (fun l => (readSet e.g l 4 64 : Int) + (0x2000 : BitVec 32).toInt) at2000 leafOf ∧
      Idle e (e.lanes iLd) (fun l => .glob (at2000 l))) ∧
    (let e := envOf (lab iLds)
     let row := fun (l : Nat) => ((readReg e.g 0 100).toNat : Int) + (0xFE0 : BitVec 32).toInt + (8 * l : Nat)
     e.flagFull noGuard = false ∧ Issues iLds (lab iLds) e ∧ PadOk (lab iLds) e.g.team 8 (e.lanes iLds) row ∧
      Idle e (e.lanes iLds) (fun l => .pad e.g.team (row l).toNat)) ∧
    (let s := lab iLdc [] [] 4
     let e := envOf s
     let row := fun (l : Nat) => ((readReg e.g 0 100).toNat : Int) + (0 : BitVec 32).toInt + (4 * l : Nat)
     e.flagFull noGuard = false ∧ Issues iLdc s e ∧ e.l.isCluster = true ∧ peerTeam s e 0 = some 1 ∧
      PadOk s 1 4 (e.lanes iLdc) row ∧ Idle e (e.lanes iLdc) (fun l => .pad 1 (row l).toNat)) ∧
    (let e := envOf (lab iPref)
     Issues iPref (lab iPref) e ∧ e.accessHeld = false ∧ HasRoom (lab iPref) e.core 128 ∧
      GlobalOk e .read (fun _ => true) 1 (e.lanes iPref) (fun l => (readSet e.g l 4 64 : Int) + (0x2000 : BitVec 32).toInt) at2000 leafOf ∧
      ∀ l, (e.lanes iPref).getLsbD l = true → NoPartials (lab iPref) (lineOf (at2000 l))) :=
  ⟨⟨by decide +kernel, issues_of (by decide +kernel), lanes_of (by decide +kernel), idle_of (by decide +kernel) (by decide +kernel)⟩,
   ⟨by decide +kernel, issues_of (by decide +kernel), lanes_of (by decide +kernel), idle_of (by decide +kernel) (by decide +kernel)⟩,
   ⟨by decide +kernel, issues_of (by decide +kernel), by decide +kernel, by decide +kernel, lanes_of (by decide +kernel),
     idle_of (by decide +kernel) (by decide +kernel)⟩,
   ⟨issues_of (by decide +kernel), by decide +kernel, room_of (by decide +kernel), lanes_of (by decide +kernel), fun _ _ => noPartials_of (by decide +kernel)⟩⟩

/-- A result of two lanes still to land, and a load of one line request of two. -/
def resultFlight : Flight := { gid := 2, team := 1, ctx := 0, core := 0, kind := .result, dst := some 94, width := 8,
                               vals := [(0, 5), (127, 6)], lanes := 1 }
def loadFlight : Flight := { gid := 2, team := 1, ctx := 0, core := 0, kind := .load, dst := some 1, width := 4, lanes := 3, pieces := [
  ⟨0, .glob (devPlace 0x203C), 4, 0, 0, none, false, 0x203C, 38, false, false⟩, ⟨1, .glob (devPlace 0x2100), 4, 0, 0, none, false, 0x2100, 38, false, false⟩] }

def flightState (f : Flight) : State := { lab .fence with flights := [(3, f)] }

theorem witness_LoadedDataLands :
    (∀ f ∈ [resultFlight, { resultFlight with kind := .holding }, loadFlight], aget? (flightState f).flights 3 = some f ∧ (∃ d, f.dst = some d ∧
      DstOk f d (f.pieces.map (fun p => p.lane) ++ f.vals.map Prod.fst)) ∧ f.pdst = none ∧ f.preds = [] ∧ (aget? (flightState f).groups f.gid).isSome = true ∧
      HasRoom (flightState f) f.core 1) ∧
    resultFlight.kind = .result ∧ loadFlight.kind = .load ∧
    (let here := loadFlight.pieces.filter (fun p => p.request == lineOf (devPlace 0x203C))
     here ≠ [] ∧ here ≠ loadFlight.pieces ∧ ∀ p ∈ here, ∀ pa, p.pa = .glob pa → p.got = none →
       pa % 64 + p.w ≤ 64 ∧ NoPartials (flightState loadFlight) (lineOf pa)) ∧
    (∀ p ∈ loadFlight.pieces,
      (presentLanes ((flightState loadFlight).launch ((flightState loadFlight).team 1).launch) 0).getLsbD p.lane = true) := by
  refine ⟨fun f hf => ?_, rfl, rfl, ⟨by decide +kernel, by decide +kernel,
    fun p hp pa hpa _ => ⟨?_, noPartials_of (by decide +kernel)⟩⟩, by decide +kernel⟩
  · simp only [List.mem_cons, List.not_mem_nil, or_false] at hf
    rcases hf with rfl | rfl | rfl
    · exact ⟨by decide +kernel, ⟨94, rfl, by decide, by decide⟩, rfl, rfl, by decide +kernel, room_of (by decide +kernel)⟩
    · exact ⟨by decide +kernel, ⟨94, rfl, by decide, by decide⟩, rfl, rfl, by decide +kernel, room_of (by decide +kernel)⟩
    · exact ⟨by decide +kernel, ⟨1, rfl, by decide, by decide⟩, rfl, rfl, by decide +kernel, room_of (by decide +kernel)⟩
  · have k : loadFlight.pieces.filter (fun p => p.request == lineOf (devPlace 0x203C)) =
        [⟨0, .glob (devPlace 0x203C), 4, 0, 0, none, false, 0x203C, 38, false, false⟩] := by decide +kernel
    rw [k, List.mem_singleton] at hp
    subst hp
    cases hpa
    decide +kernel

def iSt : Instr := .st noGuard .b128 .ca 4 (.reg 8) 0x20F0
def iSts : Instr := .sts noGuard .b32 100 (.reg 8) 0xFF0

/-- An ST that ends a line, an STS of the last row. -/
theorem witness_StoresAtIssue :
    (let s := lab iSt
     let e := envOf s
     let lanes := e.lanes iSt &&& e.pres
     let pa := fun (_ : Nat) => devPlace 0x20F0
     Issues iSt s e ∧ Settled e ∧ HasRoom s e.core 128 ∧
      GlobalOk e .write (storeRegion .b128) 16 lanes (fun l => (readSet e.g l 4 64 : Int) + (0x20F0 : BitVec 32).toInt) pa leafOf ∧
      Idle e lanes (fun l => .glob (pa l)) ∧ ∀ l, lanes.getLsbD l = true → regionHit s (pa l) = .none ∧ (leafOf l).agg = false ∧
        isDevice (pa l) = true ∧ pa l % 256 + 16 ≤ 256 ∧ ((s.core e.core).line (lineOf (pa l))).state ≠ .u) ∧
    (let s := lab iSts
     let e := envOf s
     let lanes := e.lanes iSts &&& e.pres
     let row := fun (l : Nat) => ((readReg e.g 0 100).toNat : Int) + (0xFF0 : BitVec 32).toInt + (4 * l : Nat)
     Issues iSts s e ∧ Settled e ∧ PadOk s e.g.team 4 lanes row ∧ Idle e lanes (fun l => .pad e.g.team (row l).toNat)) :=
  ⟨⟨issues_of (by decide +kernel), settled_of (by decide +kernel), room_of (by decide +kernel), lanes_of (by decide +kernel),
     idle_of (by decide +kernel) (by decide +kernel), lanes_of (by decide +kernel)⟩,
   ⟨issues_of (by decide +kernel), settled_of (by decide +kernel), lanes_of (by decide +kernel),
     idle_of (by decide +kernel) (by decide +kernel)⟩⟩

def iStRo : Instr := .st noGuard .b32 .ro 4 (.reg 8) 0x2000
def iStc : Instr := .stc noGuard .b32 100 (.reg 8) 0 0
def iStLeaf : Instr := .st noGuard .b32 .ca 4 (.reg 8) 0x2000

/-- A declared region of 16 I32 leaves at 0x2000 whose shadow stands at 0x3000: 4 entries of level 1, 4 of level 2. -/
def region0 : Region :=
  { ctx := 0, va := 0x2000, leaves := [⟨0, devPlace 0x2000, 64⟩], shadow := [⟨0, devPlace 0x3000, 64⟩], log2n := 4, attr := 3
    poisoned := false }

def withRegion (s : State) : State := { s with regions := [(512, region0)] }

def throughFlight (p : Place) : Flight :=
  { gid := 2, team := 1, ctx := 0, core := 0, kind := .through, pieces := [⟨0, p, 4, 7, 0, none, false, 0x2000, 38, false, false⟩,
      ⟨1, p, 4, 8, 0, none, false, 0x2000, 38, false, false⟩] }

theorem witness_StoresGoInFlightAndArrive :
    (∀ p ∈ [(iStRo, lab iStRo), (iStLeaf, withRegion (lab iStLeaf))], let e := envOf p.2
     let lanes := e.lanes p.1 &&& e.pres
     Settled e ∧ Issues p.1 p.2 e ∧ lanes ≠ 0 ∧
      GlobalOk e .write (storeRegion .b32) 4 lanes (fun l => (readSet e.g l 4 64 : Int) + (0x2000 : BitVec 32).toInt) at2000 leafOf ∧
      Idle e lanes (fun l => .glob (at2000 l)) ∧ (p.2.core e.core).origins.length < 256) ∧
    (∀ l, ((envOf (lab iStRo)).lanes iStRo &&& (envOf (lab iStRo)).pres).getLsbD l = true → regionHit (lab iStRo) (at2000 l) = .none) ∧
    (∀ l, ((envOf (withRegion (lab iStLeaf))).lanes iStLeaf &&& (envOf (withRegion (lab iStLeaf))).pres).getLsbD l = true →
      regionHit (withRegion (lab iStLeaf)) (at2000 l) = .leaf 512 region0) ∧
    (let s := lab iStc [] [] 4
     let e := envOf s
     let lanes := e.lanes iStc &&& e.pres
     let row := fun (l : Nat) => ((readReg e.g 0 100).toNat : Int) + (0 : BitVec 32).toInt + (4 * l : Nat)
     Settled e ∧ Issues iStc s e ∧ lanes ≠ 0 ∧ e.l.isCluster = true ∧ peerTeam s e 0 = some 1 ∧ PadOk s 1 4 lanes row ∧
      Idle e lanes (fun l => .pad 1 (row l).toNat)) ∧
    (let s := flightState (throughFlight (.glob (devPlace 0x2000)))
     aget? s.flights 3 = some (throughFlight (.glob (devPlace 0x2000))) ∧ (throughFlight (.glob (devPlace 0x2000))).refused = false ∧
      ∀ p ∈ (throughFlight (.glob (devPlace 0x2000))).pieces, ∃ pa, p.pa = .glob pa ∧ s.linkLost pa = false ∧
        regionHit s pa = .none ∧ NoPartials s (lineOf pa)) ∧
    (let s := flightState (throughFlight (.pad 1 0x40))
     (aget? s.teams 1).isSome = true ∧ ∀ p ∈ (throughFlight (.pad 1 0x40)).pieces, ∃ o, p.pa = .pad 1 o) := by
  refine ⟨fun p hp => ?_, lanes_of (by decide +kernel), lanes_of (by decide +kernel),
    ⟨settled_of (by decide +kernel), issues_of (by decide +kernel), by decide +kernel, by decide +kernel, by decide +kernel,
      lanes_of (by decide +kernel), idle_of (by decide +kernel) (by decide +kernel)⟩, ⟨by decide +kernel, rfl, fun p hp => ?_⟩,
    by decide +kernel, fun p hp => ?_⟩
  · simp only [List.mem_cons, List.not_mem_nil, or_false] at hp
    rcases hp with rfl | rfl <;>
      exact ⟨settled_of (by decide +kernel), issues_of (by decide +kernel), by decide +kernel, lanes_of (by decide +kernel),
        idle_of (by decide +kernel) (by decide +kernel), by decide +kernel⟩
  · simp only [throughFlight, List.mem_cons, List.not_mem_nil, or_false] at hp
    rcases hp with rfl | rfl <;>
      exact ⟨devPlace 0x2000, rfl, by decide +kernel, by decide +kernel, noPartials_of (by decide +kernel)⟩
  · simp only [throughFlight, List.mem_cons, List.not_mem_nil, or_false] at hp
    rcases hp with rfl | rfl <;> exact ⟨0x40, rfl⟩

/-! ## States that meet the statements' hypotheses: synchronisation -/

theorem core_l1 {s : State} (h : s.cores.all (fun k => k.2.l1.isEmpty) = true) (c : Nat) : (s.core c).l1 = [] := by
  unfold State.core
  cases hc : aget? s.cores c with
  | none => rfl
  | some k => exact List.isEmpty_iff.mp (List.all_eq_true.mp h _ (mem_of_aget? hc))

theorem noneLags_of {s : State} {c n : Nat} (h : s.cores.all (fun k => k.2.l1.isEmpty) = true) : NoneLags s c n := by
  intro x hx
  rw [core_l1 h] at hx
  exact absurd hx List.not_mem_nil

theorem groupReady_of {s : State} {f : Flight} (h : (aget? s.groups f.gid).isSome = true ∧ (s.group f.gid).pend.isEmpty = true) :
    GroupReady s f := by
  refine ⟨h.1, ?_⟩
  simp [lostLanes, List.isEmpty_iff.mp h.2]

theorem cleanFor_of {s : State} {c pa : Nat} (h : s.cores.all (fun k => k.2.l1.isEmpty) = true) : CleanFor s c pa := by
  refine ⟨noPartials_of h, fun x hx => ?_⟩
  rw [core_l1 h] at hx
  simp [aget?] at hx

theorem nothingToPull_of {s : State} {c line : Nat} (h : s.hallmarks.isEmpty = true) : NothingToPull s c line := by
  intro x hx
  have k : s.hallmark line = {} := by
    unfold State.hallmark
    rw [List.isEmpty_iff.mp h]
    rfl
  rw [k] at hx
  exact absurd hx List.not_mem_nil

theorem nothingWaits_of {s : State} (h : s.launches.all (fun l => l.2.deps.isEmpty) = true)
    (k : s.clusters.all (fun c => c.2.table.isEmpty) = true) : NothingWaits s := by
  refine ⟨fun l hl => List.isEmpty_iff.mp (List.all_eq_true.mp h l hl), fun c hc r hr => ?_⟩
  rw [List.isEmpty_iff.mp (List.all_eq_true.mp k c hc)] at hr
  exact absurd hr List.not_mem_nil

/-- Lane addresses 0x2000, 0x2004, … in r4. -/
def addrs : Store 32 := [(4, 0x2000), (132, 0x2004), (260, 0x2008), (388, 0x200C)]
def laneAddr : Nat → Nat := fun l => devPlace (0x2000 + 4 * l)

def atomics (a : RegCode) : List Instr :=
  [.atomAdd noGuard .f32 .plain 1 a (.reg 8), .atomMin noGuard .i32 .acq 1 a (.reg 8), .atomMax noGuard .n32 .rel 1 a (.reg 8),
   .atomAnd noGuard .n32 .ar 1 a (.reg 8), .atomOr noGuard .i32 .plain 1 a (.lit 1), .atomXor noGuard .n32 .plain 1 a (.reg 8),
   .atomExch noGuard .i32 .plain 1 a (.reg 8), .cas noGuard .b32 .ar 1 a (.reg 8) 9, .acq noGuard .b32 .ca 1 a 0]

/-- Each of them on global memory and in the scratchpad. -/
theorem witness_AtomicsGoInFlight :
    (∀ i ∈ atomics 4, let s := lab i addrs
     let e := envOf s
     let lanes := e.lanes i &&& e.pres
     Issues i s e ∧ e.l.det = false ∧ Quiet e ∧ e.flagFull noGuard = false ∧ (s.core e.core).origins.length < 256 ∧
      lostLanes e.g e.is.quads = 0 ∧
      GlobalOk e .both noRegion 4 lanes (fun l => (readSet e.g l 4 64 : Int) + (0 : BitVec 32).toInt) laneAddr leafOf ∧
      GlobalOk e .acquire noRegion 4 lanes (fun l => (readSet e.g l 4 64 : Int) + (0 : BitVec 32).toInt) laneAddr leafOf ∧
      Idle e lanes (fun l => .glob (laneAddr l))) ∧
    (∀ i ∈ atomics 100, let s := lab i [] [(4, 0xFFC)]
     let e := envOf s
     let lanes := e.lanes i &&& e.pres
     let ea := fun (_ : Nat) => ((readReg e.g 0 100).toNat : Int) + (0 : BitVec 32).toInt
     Issues i s e ∧ e.l.det = false ∧ Quiet e ∧ e.flagFull noGuard = false ∧ (s.core e.core).origins.length < 256 ∧
      lostLanes e.g e.is.quads = 0 ∧
      PadOk s e.g.team 4 lanes ea ∧ Idle e lanes (fun l => .pad e.g.team (ea l).toNat)) := by
  refine ⟨fun i hi => ?_, fun i hi => ?_⟩ <;> simp only [atomics, List.mem_cons, List.not_mem_nil, or_false] at hi <;>
    rcases hi with rfl | rfl | rfl | rfl | rfl | rfl | rfl | rfl | rfl
  all_goals refine ⟨issues_of (by decide +kernel), by decide +kernel, quiet_of (by decide +kernel), by decide +kernel,
    by decide +kernel, by decide +kernel, lanes_of (by decide +kernel), ?_⟩
  all_goals first
    | exact ⟨lanes_of (by decide +kernel), idle_of (by decide +kernel) (by decide +kernel)⟩
    | exact idle_of (by decide +kernel) (by decide +kernel)

theorem recordRoom_of {s : State} {n : Nat} (h : s.hallmarks.length + n ≤ sliceLines) : RecordRoom s n := h

/-- An operation at home: two lanes on one place, of device memory or of the scratchpad. -/
def homeFlight (kind : FlightKind) (p : Place) : Flight :=
  { gid := 2, team := 1, ctx := 0, core := 0, kind, dst := some 1, width := 4, lanes := 3, pieces := [
    ⟨0, p, 4, 7, 0, none, false, 0x2000, 38, false, false⟩, ⟨1, p, 4, 8, 0, none, false, 0x2000, 38, false, false⟩] }

theorem witness_AtomicOperationsAtHome :
    (Ty.f32 ∈ [Ty.i32, .n32, .i64, .n64, .b32, .b64, .f32] ∧ 0xFFFFFFFF < 2 ^ Ty.f32.width) ∧
    (∀ kind ∈ [FlightKind.atomic 7 .b32 .ar, .acquire true], let p := Place.glob (devPlace 0x20FC)
     let f := homeFlight kind p
     let s := flightState f
     aget? s.flights 3 = some f ∧ DstOk f 1 (f.vals.map Prod.fst ++ f.pieces.map (fun p => p.lane)) ∧
      (∀ p ∈ f.pieces, ∃ a, p.pa = .glob a ∧ a % 256 + p.w ≤ 256 ∧ CleanFor s f.core a ∧ NothingToPull s f.core (lineOf a)) ∧
      orderHolds s f.gid 3 true true = false ∧ releaseOpen s f.gid 3 = false ∧ readsOpen s f.gid 3 = false ∧ GroupReady s f ∧
      NoneLags s f.core f.pieces.length ∧ RecordRoom s f.pieces.length) ∧
    (let f := homeFlight (.atomic 0 .f32 .rel) (.pad 1 0xFFC)
     let s := flightState f
     (∀ p ∈ f.pieces, ∃ o, p.pa = .pad f.team o ∧ (aget? s.teams f.team).isSome = true) ∧
      orderHolds s f.gid 3 true false = false ∧ readsOpen s f.gid 3 = false ∧ GroupReady s f ∧ NoneLags s f.core f.pieces.length ∧
      RecordRoom s f.pieces.length) := by
  refine ⟨by decide, fun kind hk => ?_, fun p hp => ?_, by decide +kernel, by decide +kernel, groupReady_of (by decide +kernel),
    noneLags_of (by decide +kernel), recordRoom_of (by decide +kernel)⟩
  · simp only [List.mem_cons, List.not_mem_nil, or_false] at hk
    rcases hk with rfl | rfl <;>
    · refine ⟨by decide +kernel, ⟨by decide, by decide⟩, fun p hp => ⟨devPlace 0x20FC, ?_, ?_, cleanFor_of (by decide +kernel),
        nothingToPull_of (by decide +kernel)⟩, by decide +kernel, by decide +kernel, by decide +kernel,
        groupReady_of (by decide +kernel), noneLags_of (by decide +kernel), recordRoom_of (by decide +kernel)⟩ <;>
      · simp only [homeFlight, List.mem_cons, List.not_mem_nil, or_false] at hp
        rcases hp with rfl | rfl <;> decide +kernel
  · simp only [homeFlight, List.mem_cons, List.not_mem_nil, or_false] at hp
    rcases hp with rfl | rfl <;> exact ⟨0xFFC, rfl, by decide +kernel⟩

/-- Core 1 holds a dirty line, of a release count before 5, and another of a later one. -/
def dirtyCore : Core := { l1 := [(32, { state := .d, valid := 15, dirty := 1, efirst := 5, bytes := [(0, 9)] }),
                                 (33, { state := .d, valid := 15, dirty := 1, efirst := 6, bytes := [(0, 9)] })] }
/-- Core 1 holds the sole update-only copy of line 32, with the partials of two words. -/
def partialCore : Core := { l1 := [(32, { state := .u, red := some ⟨0, .i32⟩, partials := [(0, 9), (252, 1)], held := [0, 252] })] }

def coresState (k : Core) : State := { lab .fence with cores := [(0, {}), (1, k)] }

theorem witness_PullsPublishAndWriteBack :
    (let s := coresState dirtyCore
     (∀ x ∈ (s.core 1).l1, x.2.state ≠ .u) ∧ (∀ x ∈ (s.core 1).l1, NoPartials s x.1) ∧ ((s.core 1).l1.map Prod.fst).Nodup ∧
      (s.cores.map Prod.fst).Nodup ∧ ∃ x, aget? (s.core 1).l1 32 = some x ∧ x.state ≠ .u ∧ NoPartials s 32) ∧
    (let s := coresState partialCore
     (s.cores.map Prod.fst).Nodup ∧ ∃ x, aget? (s.core 1).l1 32 = some x ∧ x.state = .u ∧ x.red = some ⟨0, .i32⟩ ∧ x.held.Nodup ∧
      (∀ o ∈ x.held, o % 4 = 0) ∧ ∀ j ∈ s.cores, j.1 ≠ 1 → ∀ y, aget? j.2.l1 32 = some y → y.state ≠ .u) := by
  have np : ∀ n, NoPartials (coresState dirtyCore) n := by
    intro n k hk x hx
    have a : ∀ k ∈ (coresState dirtyCore).cores, ∀ z ∈ k.2.l1, z.2.state ≠ .u := by decide +kernel
    exact a k hk _ (mem_of_aget? hx)
  refine ⟨⟨by decide +kernel, fun x _ => np x.1, by decide +kernel, by decide +kernel, _, rfl, by decide, np 32⟩,
    by decide +kernel, _, rfl, rfl, rfl, by decide, by decide, fun j hj hn y hy => ?_⟩
  have a : ∀ j ∈ (coresState partialCore).cores, j.1 ≠ 1 → ∀ z ∈ j.2.l1, z.2.state ≠ .u := by decide +kernel
  exact a j hj hn _ (mem_of_aget? hy)

/-- Core 1 released at count 5 what it wrote before; core 0 acquires on the line of the flag. -/
def acquirerState : State :=
  { coresState dirtyCore with
    flights := [(3, { homeFlight (.acquire false) (.glob 0x5000) with lanes := 1,
                                                                      pieces := [⟨0, .glob 0x5000, 4, 0, 0, none, false, 0x2000, 38, false, false⟩] })]
    hallmarks := [(0x50, { pend := [(0, ⟨1, 0, 5⟩)], lv := true, lcore := 1 })] }

theorem witness_AcquirersSeeReleasedBytes :
    ∃ f p x y, let s := acquirerState
      aget? s.flights 3 = some f ∧ f.kind = .acquire false ∧ f.dst = some 1 ∧ f.pdst = none ∧ f.preds = [] ∧ f.pieces = [p] ∧
      p.pa = .glob 0x5000 ∧ releaseOpen s f.gid 3 = false ∧ CleanFor s f.core 0x5000 ∧
      GroupReady s f ∧ (s.hallmark (lineOf 0x5000)).pend = [(0, x)] ∧
      x.core ≠ f.core ∧ x.inc = (s.core x.core).incarnation ∧ aget? (s.core x.core).l1 32 = some y ∧ y.state = .d ∧
      (x.e - y.efirst).toNat < 2 ^ 31 ∧ y.dirty.getLsbD 0 = true ∧
      (∀ z ∈ (s.core x.core).l1, z.2.state ≠ .u ∧ NoPartials s z.1) ∧ ((s.core x.core).l1.map Prod.fst).Nodup ∧
      ∀ z, aget? (s.core f.core).l1 32 = some z → z.state = .c := by
  have np : ∀ n, NoPartials acquirerState n := by
    intro n k hk x hx
    have a : ∀ k ∈ acquirerState.cores, ∀ z ∈ k.2.l1, z.2.state ≠ .u := by decide +kernel
    exact a k hk _ (mem_of_aget? hx)
  have a : ∀ z ∈ (acquirerState.core 1).l1, z.2.state ≠ .u := by decide +kernel
  refine ⟨_, _, ⟨1, 0, 5⟩, _, rfl, rfl, rfl, rfl, rfl, rfl, rfl, by decide +kernel, ⟨np _, fun x hx => ?_⟩,
    groupReady_of (by decide +kernel), by decide +kernel, by decide, by decide +kernel, rfl, rfl, by decide +kernel, by decide +kernel, fun z hz => ⟨a z hz, np z.1⟩, by decide +kernel,
    fun z hz => ?_⟩
  · have k : (acquirerState.core 0).l1 = [] := by decide +kernel
    have hx' : aget? (acquirerState.core 0).l1 (lineOf 0x5000) = some x := hx
    rw [k] at hx'
    simp [aget?] at hx'
  · have k : (acquirerState.core 0).l1 = [] := by decide +kernel
    have hz' : aget? (acquirerState.core 0).l1 32 = some z := hz
    rw [k] at hz'
    simp [aget?] at hz'

def reds (a : RegCode) : List (Instr × Nat) :=
  [(.redAdd noGuard .i32 a (.reg 8) 0, 0), (.redMin noGuard .i32 a (.reg 8) 0, 1), (.redMax noGuard .i32 a (.reg 8) 0, 2),
   (.redAnd noGuard .i32 a (.reg 8) 0, 3), (.redOr noGuard .i32 a (.reg 8) 0, 4), (.redXor noGuard .i32 a (.reg 8) 0, 5)]

/-- Lanes that meet at one address; a page that maps every address to itself in stack 0 (MEM 1, AGG). -/
def sameAddrs : Store 32 := [(4, 0x2000), (132, 0x2000), (260, 0x2000), (388, 0x2000)]
def aggPage (s : State) : State := { s with mem := writeBytes s.mem (devPlace 0x10000) (toBytes 0x6E2 8) }
def aggLeaf : Nat → Leaf := fun _ => ⟨0, 1, true, false, true, true, true, 38⟩

/-- RED of four lanes at four addresses, at one, and on an AGG page. -/
def redCases : List ((Nat → Nat) × (Nat → Leaf) × (Instr → State)) :=
  [(laneAddr, leafOf, fun i => lab i addrs), (at2000, leafOf, fun i => lab i sameAddrs),
   (fun l => 0x2000 + 4 * l, aggLeaf, fun i => aggPage (lab i addrs))]

theorem witness_RedsGather :
    (∀ k ∈ redCases, ∀ p ∈ reds 4, let s := k.2.2 p.1
     let e := envOf s
     let lanes := e.lanes p.1 &&& e.pres
     Issues p.1 s e ∧ Settled e ∧ HasRoom s e.core 128 ∧
      GlobalOk e .localWrite (redRegion p.2 .i32) 4 lanes (fun l => (readSet e.g l 4 64 : Int) + (0 : BitVec 32).toInt) k.1 k.2.1 ∧
      Idle e lanes (fun l => .glob (k.1 l)) ∧ (∀ l, lanes.getLsbD l = true → regionHit s (k.1 l) = .none) ∧
      s.cores.all (fun k => k.2.l1.isEmpty) = true ∧ lanes ≠ 0) ∧
    (let i := Instr.redAdd noGuard .i32 4 (.reg 8) 0
     let s := withRegion (lab i addrs)
     let e := envOf s
     let lanes := e.lanes i &&& e.pres
     Issues i s e ∧ Settled e ∧ HasRoom s e.core 128 ∧
      GlobalOk e .localWrite (redRegion 0 .i32) 4 lanes (fun l => (readSet e.g l 4 64 : Int) + (0 : BitVec 32).toInt) laneAddr leafOf ∧
      Idle e lanes (fun l => .glob (laneAddr l)) ∧ (s.core e.core).origins.length < 256 ∧ lanes ≠ 0 ∧
      ∀ l, lanes.getLsbD l = true → regionHit s (laneAddr l) = .leaf 512 region0) ∧
    (∀ p ∈ reds 100, let s := lab p.1 [] [(4, 0xFFC)]
     let e := envOf s
     let lanes := e.lanes p.1 &&& e.pres
     let ea := fun (_ : Nat) => ((readReg e.g 0 100).toNat : Int) + (0 : BitVec 32).toInt
     Issues p.1 s e ∧ Settled e ∧ HasRoom s e.core 128 ∧ PadOk s e.g.team 4 lanes ea ∧ Idle e lanes (fun l => .pad e.g.team (ea l).toNat) ∧
      (aget? s.teams e.g.team).isSome = true) := by
  refine ⟨fun k hk p hp => ?_, ⟨issues_of (by decide +kernel), settled_of (by decide +kernel), room_of (by decide +kernel), lanes_of (by decide +kernel),
    idle_of (by decide +kernel) (by decide +kernel), by decide +kernel, by decide +kernel, lanes_of (by decide +kernel)⟩, fun p hp => ?_⟩
  · simp only [redCases, List.mem_cons, List.not_mem_nil, or_false] at hk
    simp only [reds, List.mem_cons, List.not_mem_nil, or_false] at hp
    rcases hk with rfl | rfl | rfl <;> rcases hp with rfl | rfl | rfl | rfl | rfl | rfl <;>
      exact ⟨issues_of (by decide +kernel), settled_of (by decide +kernel), room_of (by decide +kernel), lanes_of (by decide +kernel),
        idle_of (by decide +kernel) (by decide +kernel), lanes_of (by decide +kernel), by decide +kernel⟩
  · simp only [reds, List.mem_cons, List.not_mem_nil, or_false] at hp
    rcases hp with rfl | rfl | rfl | rfl | rfl | rfl <;>
      exact ⟨issues_of (by decide +kernel), settled_of (by decide +kernel), room_of (by decide +kernel), lanes_of (by decide +kernel),
        idle_of (by decide +kernel) (by decide +kernel), by decide +kernel⟩

def iRel (a : RegCode) : Instr := .rel noGuard .b32 a (.reg 8) 0

/-- A memory instruction behind a FENCE for which a store of the group is open; a REL behind such a store. -/
def fenced (i : Instr) : State :=
  { withGroup (lab i addrs [(4, 0xFC0)]) (fun g => { g with fence := 4 }) with
    flights := [(3, throughFlight (.glob (devPlace 0x5000)))] }
def fencedInstrs : List Instr :=
  [.ld noGuard .b32 .ca 1 4 0, .st noGuard .b32 .ca 4 (.reg 8) 0, .pref noGuard .ca 4 0, .lds noGuard .b32 1 100 0,
   .sts noGuard .b32 100 (.reg 8) 0, .ldc noGuard .b32 1 100 0 0, .stc noGuard .b32 100 (.reg 8) 0 0] ++
  atomics 4 ++ (reds 4).map Prod.fst ++
  [.rel noGuard .b32 4 (.reg 8) 0, .binit noGuard false 100 (.lit 1), .arrive noGuard false 100, .expect noGuard false 100 (.lit 1),
   .wait noGuard false 1 100 (.lit 0), .rinit noGuard false 100 (.lit 1) 101, .rgive noGuard false 100]
def relFlight : Flight :=
  { gid := 2, team := 1, ctx := 0, core := 0, kind := .release, pieces := [⟨0, .glob (devPlace 0x20FC), 4, 7, 0, none, false, 0, 38, false, false⟩] }

theorem witness_ReleasesAndFences :
    (let s := lab (iRel 4) addrs
     let e := envOf s
     let lanes := e.lanes (iRel 4) &&& e.pres
     Issues (iRel 4) s e ∧ Quiet e ∧ lanes ≠ 0 ∧ (s.core e.core).origins.length < 256 ∧
      GlobalOk e .localWrite noRegion 4 lanes (fun l => (readSet e.g l 4 64 : Int) + (0 : BitVec 32).toInt) laneAddr leafOf ∧
      Idle e lanes (fun l => .glob (laneAddr l))) ∧
    (let s := lab (iRel 100) [] [(4, 0xFFC)]
     let e := envOf s
     let lanes := e.lanes (iRel 100) &&& e.pres
     let ea := fun (_ : Nat) => ((readReg e.g 0 100).toNat : Int) + (0 : BitVec 32).toInt
     Issues (iRel 100) s e ∧ Quiet e ∧ lanes ≠ 0 ∧ PadOk s e.g.team 4 lanes ea ∧ Idle e lanes (fun l => .pad e.g.team (ea l).toNat)) ∧
    (∀ p ∈ [Place.glob (devPlace 0x20FC), .pad 1 0xFFC],
     let f : Flight := { gid := 2, team := 1, ctx := 0, core := 0, kind := .release, pieces := [⟨0, p, 4, 7, 0, none, false, 0, 38, false, false⟩] }
     let s := flightState f
     aget? s.flights 3 = some f ∧ earlierOpen s f.gid 3 = false ∧
      (∀ x, p = .glob x → x % 256 + 4 ≤ 256 ∧ CleanFor s f.core x ∧ (s.hallmark (lineOf x)).fullFor f.core = false ∧
        NoneLags s f.core 1 ∧ RecordRoom s 1) ∧
      ∀ n o, p = .pad n o → (aget? s.teams n).isSome = true) ∧
    Issues .fence (lab .fence) (envOf (lab .fence)) ∧
    (let s := { flightState relFlight with flights := [(2, throughFlight (.glob (devPlace 0x5000))), (3, relFlight)] }
     aget? s.flights 3 = some relFlight ∧ relFlight.kind = .release ∧ earlierOpen s relFlight.gid 3 = true) ∧
    (∀ i ∈ fencedInstrs, let e := envOf (fenced i)
      Issues i (fenced i) e ∧ e.lanes i &&& e.pres ≠ 0 ∧ 0 < e.g.fence ∧ earlierOpen (fenced i) e.gid e.g.fence = true) := by
  refine ⟨⟨issues_of (by decide +kernel), quiet_of (by decide +kernel), by decide +kernel, by decide +kernel,
      lanes_of (by decide +kernel), idle_of (by decide +kernel) (by decide +kernel)⟩,
    ⟨issues_of (by decide +kernel), quiet_of (by decide +kernel), by decide +kernel, lanes_of (by decide +kernel),
      idle_of (by decide +kernel) (by decide +kernel)⟩, fun p hp => ?_, issues_of (by decide +kernel), by decide +kernel,
    fun i hi => ⟨issues_all (f := fenced) (by decide +kernel) i hi, by revert i; decide +kernel⟩⟩
  simp only [List.mem_cons, List.not_mem_nil, or_false] at hp
  rcases hp with rfl | rfl
  · refine ⟨by decide +kernel, by decide +kernel, fun x hx => ?_, fun _ _ h => (nomatch h)⟩
    cases hx
    exact ⟨by decide +kernel, cleanFor_of (by decide +kernel), by decide +kernel, noneLags_of (by decide +kernel), recordRoom_of (by decide +kernel)⟩
  · refine ⟨by decide +kernel, by decide +kernel, fun _ h => (nomatch h), fun n o hn => ?_⟩
    cases hn
    decide +kernel

theorem objReady_pad {e : Env} {p : Place} {t o n : Nat} (h : e.objCheck p n = none ∧ e.phys p = .pad t o ∧
    e.accessHeld = false ∧ lineBusy e.s e.gid (.pad t o) = false ∧ (aget? e.s.teams t).isSome = true)
    (k : e.s.flights.isEmpty = true) : ObjReady e p (.pad t o) n :=
  ⟨h.1, h.2.1, h.2.2.1, h.2.2.2.1, fun _ => syncOpen_of k, quiet_of k, fun _ h => (nomatch h), fun _ _ hx => by cases hx; exact h.2.2.2.2⟩

theorem objReady_glob {e : Env} {p : Place} {a n : Nat} (h : e.objCheck p n = none ∧ e.phys p = .glob a ∧
    e.accessHeld = false ∧ lineBusy e.s e.gid (.glob a) = false) (k : e.s.flights.isEmpty = true)
    (c : e.s.cores.all (fun k => k.2.l1.isEmpty) = true) : ObjReady e p (.glob a) n :=
  ⟨h.1, h.2.1, h.2.2.1, h.2.2.2, fun _ => syncOpen_of k, quiet_of k, fun _ _ => cleanFor_of c, fun _ _ h => (nomatch h)⟩

/-- Barriers at 0xFF0 of the scratchpad, and at 0x2000 of memory (registers S4, S5). -/
def barInstrs (gl : Bool) : List Instr :=
  [.binit noGuard gl 100 (.lit 32767), .expect noGuard gl 100 (.lit 0xFFFFFFFF), .arrive noGuard gl 100]
def padLab (i : Instr) : State := lab i [] [(4, 0xFF0)]
def globLab (i : Instr) : State := lab i [] [(4, 0x2000)]

def barInstrsOff (gl : Bool) : List Instr :=
  let c : Ctl := ⟨15, true, false⟩
  [.binit c gl 100 (.lit 1), .arrive c gl 100, .expect c gl 100 (.lit 1), .wait c gl 1 100 (.lit 0), .rinit c gl 100 (.lit 1) 101,
   .rgive c gl 100]

theorem witness_BarrierUpdates :
    (∀ i ∈ barInstrs false, let e := envOf (padLab i)
      Issues i (padLab i) e ∧ ObjReady e (e.object false 100) (.pad 1 0xFF0) 16 ∧ lowestLane (e.lanes i &&& e.pres) = some 0 ∧
      e.lanes i &&& e.pres ≠ 0 ∧ armedSet e.g.sticky = false ∧ NothingWaits (padLab i) ∧ readsOpen (padLab i) e.gid (padLab i).nextId = false) ∧
    (∀ i ∈ barInstrs true, let e := envOf (globLab i)
      Issues i (globLab i) e ∧ ObjReady e (e.object true 100) (.glob (devPlace 0x2000)) 16 ∧
      lowestLane (e.lanes i &&& e.pres) = some 0 ∧ e.lanes i &&& e.pres ≠ 0 ∧ armedSet e.g.sticky = false ∧
      NothingWaits (globLab i) ∧ readsOpen (globLab i) e.gid (globLab i).nextId = false) ∧
    (∀ p ∈ [Place.glob (devPlace 0x2000), .pad 1 0xFF0],
     let f : Flight := { gid := 2, team := 1, ctx := 0, core := 0, kind := .arrive 4 0, pieces := [⟨0, p, 16, 0, 0, none, false, 0, 38, false, false⟩] }
     let s := flightState f
     aget? s.flights 3 = some f ∧ earlierOpen s f.gid 3 = false ∧ NothingWaits s ∧
      (∀ x, p = .glob x → NothingToPull s f.core (lineOf x) ∧ CleanFor s f.core x ∧ NoneLags s f.core 1 ∧ RecordRoom s 1) ∧
      ∀ m x, p = .pad m x → (aget? s.teams m).isSome = true) ∧
    (∀ gl, ∀ i ∈ barInstrsOff gl,
      Issues i (lab i) (envOf (lab i)) ∧ (envOf (lab i)).lanes i &&& (envOf (lab i)).pres = 0) ∧
    (let i := Instr.arrive noGuard false 100
     let s := withGroup (padLab i) (fun g => { g with sticky := 0x101 })
     let e := envOf s
     Issues i s e ∧ ObjReady e (e.object false 100) (.pad 1 0xFF0) 16 ∧ armedSet e.g.sticky = true ∧
      Deliverable e .saturate (e.lanes i &&& e.pres)) := by
  refine ⟨fun i hi => ?_, fun i hi => ?_, fun p hp => ?_,
    fun gl i hi => ⟨issues_all (f := lab) (is := barInstrsOff gl) (by cases gl <;> decide +kernel) i hi, by
      revert i; cases gl <;> decide +kernel⟩,
    issues_of (by decide +kernel), objReady_pad (by decide +kernel) (by decide +kernel), by decide +kernel, deliverable_of (by decide +kernel)⟩
  · simp only [barInstrs, List.mem_cons, List.not_mem_nil, or_false] at hi
    rcases hi with rfl | rfl | rfl <;>
      exact ⟨issues_of (by decide +kernel), objReady_pad (by decide +kernel) (by decide +kernel), by decide +kernel,
        by decide +kernel, by decide +kernel, nothingWaits_of (by decide +kernel) (by decide +kernel), by decide +kernel⟩
  · simp only [barInstrs, List.mem_cons, List.not_mem_nil, or_false] at hi
    rcases hi with rfl | rfl | rfl <;>
      exact ⟨issues_of (by decide +kernel), objReady_glob (by decide +kernel) (by decide +kernel) (by decide +kernel),
        by decide +kernel, by decide +kernel, by decide +kernel, nothingWaits_of (by decide +kernel) (by decide +kernel), by decide +kernel⟩
  · simp only [List.mem_cons, List.not_mem_nil, or_false] at hp
    rcases hp with rfl | rfl
    · exact ⟨by decide +kernel, by decide +kernel, nothingWaits_of (by decide +kernel) (by decide +kernel),
        fun x _ => ⟨nothingToPull_of (by decide +kernel), cleanFor_of (by decide +kernel), noneLags_of (by decide +kernel),
          recordRoom_of (by decide +kernel)⟩, fun _ _ h => (nomatch h)⟩
    · exact ⟨by decide +kernel, by decide +kernel, nothingWaits_of (by decide +kernel) (by decide +kernel),
        fun _ h => (nomatch h), fun m x h => by cases h; decide +kernel⟩

/-- WAIT on the phase 2^31 - 1 before the object's, which has passed, and on that 2^31 before it, which has not. -/
def iWait (gl : Bool) (ph : DWord) : Instr := .wait noGuard gl 1 100 (.lit ph)

theorem witness_WaitsBlockAndWake :
    (∀ ph ∈ [0x80000001, 0x80000000], let i := iWait false ph
     let e := envOf (padLab i)
     Issues i (padLab i) e ∧ ObjReady e (e.object false 100) (.pad 1 0xFF0) 16 ∧ lowestLane (e.lanes i &&& e.pres) = some 0 ∧
      releaseOpen (padLab i) e.gid (padLab i).nextId = false ∧ ∀ x ∈ e.g.quads, x.2.regang = none) ∧
    Passed (parseBar (bytesAt (padLab (iWait false 0x80000001)) (.pad 1 0xFF0) 16)).phase 0x80000001 ∧
    ¬ Passed (parseBar (bytesAt (padLab (iWait false 0x80000000)) (.pad 1 0xFF0) 16)).phase 0x80000000 ∧
    (let i := iWait true 0xFFFFFFFF
     let e := envOf (globLab i)
     Issues i (globLab i) e ∧ ObjReady e (e.object true 100) (.glob (devPlace 0x2000)) 16 ∧
      lowestLane (e.lanes i &&& e.pres) = some 0 ∧
      Passed (parseBar (bytesAt (globLab i) (.glob (devPlace 0x2000)) 16)).phase 0xFFFFFFFF ∧
      (∀ x ∈ e.g.quads, x.2.regang = none) ∧ aget? ((globLab i).core e.core).l1 (lineOf (devPlace 0x2000)) = none ∧
      releaseOpen (globLab i) e.gid (globLab i).nextId = false) ∧
    ¬ Passed (parseBar (bytesAt (globLab (iWait true 0)) (.glob (devPlace 0x2000)) 16)).phase 0 ∧
    (∀ w ∈ [(⟨.pad 1 0xFF0, 0xFFFFFFFF⟩ : Waiting), ⟨.pad 1 0xFF0, 0⟩],
     let s := withQuad (lab .fence) (fun x => { x with waiting := some w })
     ∃ x o, aget? (s.group 2).quads 0 = some x ∧ x.waiting = some w ∧ peekBar s (ctxOf s (s.group 2)) w.obj = some o ∧
      stopped s (ctxOf s (s.group 2)) (s.group 2) = false ∧ (Passed o.phase w.phase.toNat ↔ w.phase = 0xFFFFFFFF)) ∧
    (let f : Flight := { gid := 2, team := 1, ctx := 0, core := 0, kind := .waitAcquire, pdst := some 1, lanes := 15,
                         pieces := [⟨0, .glob (devPlace 0x2000), 16, 0, 0, none, false, 0, 38, false, false⟩] }
     let s := flightState f
     aget? s.flights 3 = some f ∧ releaseOpen s f.gid 3 = false ∧ CleanFor s f.core (devPlace 0x2000) ∧
      NothingToPull s f.core (lineOf (devPlace 0x2000)) ∧ f.vals = [] ∧ f.skip = [] ∧ GroupReady s f) := by
  refine ⟨fun ph hp => ?_, ?_, ?_, ⟨issues_of (by decide +kernel), objReady_glob (by decide +kernel) (by decide +kernel)
    (by decide +kernel), by decide +kernel, ?_, by decide +kernel, by decide +kernel, by decide +kernel⟩, ?_, fun w hw => ?_,
    by decide +kernel, by decide +kernel, cleanFor_of (by decide +kernel), nothingToPull_of (by decide +kernel), rfl, rfl,
    groupReady_of (by decide +kernel)⟩
  · simp only [List.mem_cons, List.not_mem_nil, or_false] at hp
    rcases hp with rfl | rfl <;>
      exact ⟨issues_of (by decide +kernel), objReady_pad (by decide +kernel) (by decide +kernel), by decide +kernel, by decide +kernel,
        by decide +kernel⟩
  · unfold Passed; decide +kernel
  · unfold Passed; decide +kernel
  · unfold Passed; decide +kernel
  · unfold Passed; decide +kernel
  · simp only [List.mem_cons, List.not_mem_nil, or_false] at hw
    rcases hw with rfl | rfl
    · exact ⟨_, ⟨0, 0, false, 0, 0, 0⟩, rfl, rfl, by decide +kernel, by decide +kernel, by unfold Passed; decide +kernel⟩
    · exact ⟨_, ⟨0, 0, false, 0, 0, 0⟩, rfl, rfl, by decide +kernel, by decide +kernel, by unfold Passed; decide +kernel⟩

/-- RINIT of 2 slots, and of the 1025 that are no count; RGIVE; in the scratchpad and in memory. -/
def iRinit (gl : Bool) (n : DWord) : Instr := .rinit noGuard gl 100 (.lit n) 101
def iRgive (gl : Bool) : Instr := .rgive noGuard gl 100

theorem witness_RingsAreKept :
    (∀ p ∈ [((2 : DWord), 2), (1025, 0)], let i := iRinit false p.1
     let s := lab i [] [(4, 0x40), (5, 32767)]
     let e := envOf s
     let u := fun (j : Nat) => Place.pad 1 (0x40 + 16 * j)
     Issues i s e ∧ lowestLane (e.lanes i &&& e.pres) = some 0 ∧ NothingWaits s ∧ ObjReady e (e.object false 100) (u 0) (16 + 16 * p.2) ∧
      readsOpen s e.gid s.nextId = false ∧
      (∀ j, j ≤ p.2 → e.phys ((e.object false 100).plus (16 * j)) = u j ∧ lineBusy s e.gid (u j) = false ∧
        ∀ y, u j = .glob y → CleanFor s e.core y) ∧
      ∀ j m, j < m → m ≤ p.2 → (u j).meets 16 (u m) 16 = false) ∧
    (let i := iRinit true 2
     let s := lab i [] [(4, 0x2000)]
     let e := envOf s
     let u := fun (j : Nat) => Place.glob (devPlace (0x2000 + 16 * j))
     Issues i s e ∧ lowestLane (e.lanes i &&& e.pres) = some 0 ∧ readReg e.g 0 101 = 0 ∧ NothingWaits s ∧ ObjReady e (e.object true 100) (u 0) 48 ∧
      readsOpen s e.gid s.nextId = false ∧
      (∀ j, j ≤ 2 → e.phys ((e.object true 100).plus (16 * j)) = u j ∧ lineBusy s e.gid (u j) = false ∧
        ∀ y, u j = .glob y → CleanFor s e.core y) ∧
      ∀ m, m ≤ 2 → ∀ j, j < m → (u j).meets 16 (u m) 16 = false) ∧
    (let e := envOf (padLab (iRgive false))
     Issues (iRgive false) (padLab (iRgive false)) e ∧ lowestLane (e.lanes (iRgive false) &&& e.pres) = some 0 ∧
      ObjReady e (e.object false 100) (.pad 1 0xFF0) 16 ∧ earlierOpen (padLab (iRgive false)) e.gid (padLab (iRgive false)).nextId = false) ∧
    (let e := envOf (globLab (iRgive true))
     Issues (iRgive true) (globLab (iRgive true)) e ∧ lowestLane (e.lanes (iRgive true) &&& e.pres) = some 0 ∧
      ObjReady e (e.object true 100) (.glob (devPlace 0x2000)) 16 ∧
      earlierOpen (globLab (iRgive true)) e.gid (globLab (iRgive true)).nextId = false) := by
  refine ⟨fun p hp => ?_, ⟨issues_of (by decide +kernel), by decide +kernel, by decide +kernel, nothingWaits_of (by decide +kernel) (by decide +kernel),
      objReady_glob (by decide +kernel) (by decide +kernel) (by decide +kernel), by decide +kernel, fun j hj => ⟨?_, ?_, fun _ _ => cleanFor_of (by decide +kernel)⟩,
      by decide +kernel⟩,
    ⟨issues_of (by decide +kernel), by decide +kernel, objReady_pad (by decide +kernel) (by decide +kernel), by decide +kernel⟩,
    ⟨issues_of (by decide +kernel), by decide +kernel, objReady_glob (by decide +kernel) (by decide +kernel) (by decide +kernel),
      by decide +kernel⟩⟩
  · simp only [List.mem_cons, List.not_mem_nil, or_false] at hp
    rcases hp with rfl | rfl <;>
      exact ⟨issues_of (by decide +kernel), by decide +kernel, nothingWaits_of (by decide +kernel) (by decide +kernel), objReady_pad (by decide +kernel) (by decide +kernel),
        by decide +kernel, fun j hj => ⟨by revert j; decide +kernel, by revert j; decide +kernel, fun _ h => (nomatch h)⟩, fun j m hj hm => by simp only [Place.meets]; simp; omega⟩
  · revert j; decide +kernel
  · revert j; decide +kernel

/-! ## States that meet the statements' hypotheses: ports, launches, system instructions -/

/-- The gang of the small state's group, ready at its header, and a state in which its port is free. -/
def gang0 : Gang := ⟨2, 1, 0x1000, .header, 0, 0, 0⟩
def freeState : State :=
  let s := lab .fence
  s.setCore 0 ((s.core 0).setPort 0 {})

/-- The same of a DET team, its stack poisoned or not. -/
def freeDet (spoilt : Bool) : State :=
  let s := lab .fence [] [] 16
  withQuad (s.setCore 0 ((s.core 0).setPort 0 {})) (fun x => { x with badStack := spoilt })

/-- What a fetch gives, as a test. -/
def fetchesB (s : State) (y : Gang) : Bool :=
  match fetchWord s 0 0 false y.pc with
  | .bad _ => false
  | .ok h s2 => !badHeader h && (match fetchInstrs s2 0 0 false (y.pc + 4) (hdrCount h) [] with
    | .bad _ _ => false
    | .ok ws _ => !badEnding ws (hdrCount h))

theorem fetches_of {s : State} {y : Gang} (h : fetchesB s y = true) : ∃ w ws s2 s3, fetchWord s 0 0 false y.pc = .ok w s2 ∧
    badHeader w = false ∧ fetchInstrs s2 0 0 false (y.pc + 4) (hdrCount w) [] = .ok ws s3 ∧ badEnding ws (hdrCount w) = false := by
  unfold fetchesB at h
  split at h
  · cases h
  · rename_i w s2 h1
    simp only [Bool.and_eq_true, Bool.not_eq_true'] at h
    obtain ⟨h2, h3⟩ := h
    split at h3
    · cases h3
    · rename_i ws s3 h4
      simp only [Bool.not_eq_true'] at h3
      exact ⟨w, ws, s2, s3, h1, h2, h4, h3⟩

/-- A quad that has waited 64 rounds at a REGANG, or 1,536 of LCLK under DET. -/
def boundState (det : Bool) : State :=
  let s := lab .fence [] [] (if det then 16 else 0)
  withQuad (withGroup s (fun g => { g with lclk := 2000 })) (fun x => { x with regang := some (0x1004, 64, 464) })

/-- A held instruction of a DET team whose clock is the least, and one with a ready gang of a lower clock. -/
def heldState (lower : Bool) : State :=
  let s := lab .fence [] [] 16
  let s := s.setCore 0 ((s.core 0).setPort 0 { issue := some { placedIssue 2 (encode .fence) with clockHeld := true } })
  if lower then (withGroup s (fun g => { g with lclk := 9, idx := 1 })).setGroup 3 { s.group 2 with idx := 0, slot := 2, quads :=
    [(0, { kind := .header, pc := 0x1000, mask := 0xF, stamp := some 0 })] } else s

/-- A port's only ready gang is chosen. -/
theorem chosen_one {s : State} {port : Nat} {y : Gang} : Chosen s port [y] y := by
  have one : ∀ z ∈ [y], z ≠ y → False := fun z hz hn => hn (List.mem_singleton.mp hz)
  refine ⟨List.mem_singleton_self y, y, List.mem_singleton_self y, fun z hz hn => (one z hz hn).elim, y, List.mem_singleton_self y, ?_, ?_⟩
  · split
    · exact ⟨List.mem_singleton_self y, rfl, fun z hz _ hn => (one z hz hn).elim⟩
    · rfl
  · rw [if_pos (fun z hz => by rw [List.mem_singleton.mp hz]; omega)]

theorem witness_PortsIssueAndRelease :
    (∀ s ∈ [freeState, freeDet false, freeDet true],
     let s0 := stampPort ((portGroups s 0 0).foldl (fun s x => releaseDue s x.1) s) 0 0
     let s1 := mergeStamps s0 [gang0]
     portFree s 0 0 = true ∧ readyGangs s0 0 0 = [gang0] ∧ (∀ z ∈ [gang0], z.stamp < 2 ^ 64 ∧ z.slot < 96 ∧ z.low < 32) ∧
      Chosen s1 0 [gang0] gang0 ∧ gang0.kind = .header ∧ fetchedWaits s1 0 gang0 = false) ∧
    (let s0 := stampPort ((portGroups (freeDet true) 0 0).foldl (fun s x => releaseDue s x.1) (freeDet true)) 0 0
     ∃ q ∈ quadsOf gang0.quads, (((countRound (mergeStamps s0 [gang0]) 0 0).group gang0.gid).quad q).badStack = true) ∧
    (∀ s ∈ [freeState, freeDet false],
     let s0 := stampPort ((portGroups s 0 0).foldl (fun s x => releaseDue s x.1) s) 0 0
     let c := countRound (mergeStamps s0 [gang0]) 0 0
     (¬ ∃ q ∈ quadsOf gang0.quads, ((c.group gang0.gid).quad q).badStack = true) ∧
      ctxOf c (c.group gang0.gid) = 0 ∧ (c.group gang0.gid).frame.tstate.getLsbD 10 = false ∧ (c.group gang0.gid).pend = [] ∧
      ∃ w ws s2 s3, fetchWord c 0 0 false gang0.pc = .ok w s2 ∧ badHeader w = false ∧
        fetchInstrs s2 0 0 false (gang0.pc + 4) (hdrCount w) [] = .ok ws s3 ∧ badEnding ws (hdrCount w) = false) ∧
    (portFree (withGroup freeState (fun g => { g with park := true })) 0 0 = true ∧
      (let s := withGroup freeState (fun g => { g with park := true })
       readyGangs (stampPort ((portGroups s 0 0).foldl (fun s x => releaseDue s x.1) s) 0 0) 0 0 = [])) ∧
    (∀ det, let s := boundState det
     let g := s.group 2
     (s.launch (s.team g.team).launch).det = det ∧ ∃ q x r, (q, x) ∈ g.quads ∧ x.regang = some r ∧ r.1 = 0x1004 ∧
      64 ≤ r.2.1 ∧ 1536 ≤ (g.lclk - r.2.2).toNat) ∧
    (∃ x, (((heldState false).core 0).port 0).issue = some x ∧ x.clockHeld = true ∧ (heldState false).flights = [] ∧
      ∀ n h, (n, h) ∈ (heldState false).groups → n ≠ x.gid → False) ∧
    (∃ x, (((heldState true).core 0).port 0).issue = some x ∧ x.clockHeld = true ∧
      ∃ y ∈ readyGangs (heldState true) 0 0, y.gid ≠ x.gid ∧
        ((heldState true).group y.gid).team = ((heldState true).group x.gid).team ∧
        ((heldState true).group y.gid).lclk.toNat < ((heldState true).group x.gid).lclk.toNat) := by
  refine ⟨fun s hs => ⟨by revert s; decide +kernel, by revert s; decide +kernel, by decide, chosen_one, rfl, by revert s; decide +kernel⟩,
    by decide +kernel, fun s hs => ⟨by revert s; decide +kernel, by revert s; decide +kernel, by revert s; decide +kernel,
      by revert s; decide +kernel, fetches_of (by revert s; decide +kernel)⟩, by decide +kernel, fun det => ?_, ⟨_, rfl, rfl, by decide +kernel, ?_⟩, ⟨_, rfl, rfl, ?_⟩⟩
  · cases det
    · exact ⟨by decide +kernel, 0, ((boundState false).group 2).quad 0, _, by decide +kernel, rfl, rfl, by decide, by decide +kernel⟩
    · exact ⟨by decide +kernel, 0, ((boundState true).group 2).quad 0, _, by decide +kernel, rfl, rfl, by decide, by decide +kernel⟩
  · have a : ∀ p ∈ (heldState false).groups, p.1 = 2 := by decide +kernel
    exact fun n h hm hn => hn (a _ hm)
  · decide +kernel

def iLnch : Instr := .lnch noGuard 1 100 0x40

/-- LNCH of a record in the scratchpad; `asks` with ADMIT, `full` with 64 launches of its queue. -/
def lnchState (r : List Byte) (asks full : Bool) : State :=
  let s := lab iLnch
  let s := s.setTeam 1 { s.team 1 with pad := writeBytes [] 0 r }
  let s := if asks then s.setPart 0 { s.part 0 with split := 2 } else s
  if full then { s with launches := (List.range 64).map (fun n => (if n = 0 then 0 else n + 10, { s.launch 0 with id := BitVec.ofNat 32 (n + 1) })) }
  else s

def lnchRecord (s : State) : List Byte :=
  let e := envOf s
  let v := ofBytes (readBytes e.t.pad 0 64)
  toBytes (v - v / 2 ^ 256 % 2 ^ 49 * 2 ^ 256 + (e.is.hdr + (0x40 : BitVec 32).signExtend 49).toNat * 2 ^ 256) 64

/-- A record refused, one held back, one whose queue is full, and one that is queued; the port likewise. -/
theorem witness_LaunchesAreAdmitted :
    (∀ s ∈ [lnchState (List.replicate 64 255) false false, lnchState (recordOf 0 1) true false, lnchState (recordOf 0 1) false true,
       lnchState (recordOf 0 1) false false], let e := envOf s
      Issues iLnch s e ∧ e.flagFull noGuard = false ∧ e.lanes iLnch &&& e.pres ≠ 0 ∧ e.accessHeld = false ∧
      (readReg e.g 0 100).toNat = 0 ∧ 64 ≤ e.l.padBytes ∧ e.t.claims 0 64 = false ∧ lineBusy s e.gid (.pad e.g.team 0) = false) ∧
    (checkRecord (lnchState (List.replicate 64 255) false false) 0 (lnchRecord (lnchState (List.replicate 64 255) false false))).isNone = true ∧
    (∀ s ∈ [lnchState (recordOf 0 1) true false, lnchState (recordOf 0 1) false true, lnchState (recordOf 0 1) false false],
      ((checkRecord s 0 (lnchRecord s)).map Prod.fst = some []) ∧ ∀ w, DepsReady w 0 []) ∧
    ((lnchState (recordOf 0 1) true false).part 0).split.getLsbD 1 = true ∧
    64 ≤ queued (lnchState (recordOf 0 1) false true) 0 (recField (recordOf 0 1) 319 317) ∧
    queued (lnchState (recordOf 0 1) false false) 0 (recField (recordOf 0 1) 319 317) < 64 ∧
    (let i := Instr.lnch ⟨15, true, false⟩ 1 100 0x40
     Issues i (lab i) (envOf (lab i)) ∧ (envOf (lab i)).lanes i &&& (envOf (lab i)).pres = 0) ∧
    (∀ s ∈ [lnchState (recordOf 0 1) true false, lnchState (recordOf 0 1) false true, lnchState (recordOf 0 1) false false],
      partOfFunc s 0 = some 0 ∧ (s.ctx 0).state = .live ∧ (recordOf 0 1).length = 64 ∧
      (checkRecord s 0 (recordOf 0 1)).map Prod.fst = some []) := by
  refine ⟨fun s hs => ?_, by decide +kernel, fun s hs => ⟨?_, fun w d hd => (List.not_mem_nil hd).elim⟩, by decide +kernel, by decide +kernel,
    by decide +kernel, ⟨issues_of (by decide +kernel), by decide +kernel⟩, by decide +kernel⟩
  · simp only [List.mem_cons, List.not_mem_nil, or_false] at hs
    rcases hs with rfl | rfl | rfl | rfl <;>
      exact ⟨issues_of (by decide +kernel), by decide +kernel, by decide +kernel, by decide +kernel, by decide +kernel,
        by decide +kernel, by decide +kernel, by decide +kernel⟩
  · revert s; decide +kernel

/-- An extension block: two dependences, and a hint table. -/
def extOf (d0 p0 d1 p1 hints : Nat) : List Byte := toBytes (d0 + p0 * 2 ^ 64 + p1 * 2 ^ 96 + d1 * 2 ^ 128 + hints * 2 ^ 256) 64

/-- A record whose extension block at 0x3000 names phase 0 of the objects at 0x3100 and 0x3110 and the hints at 0x3200: the
second object's has passed, by force or not. -/
def extRecord : List Byte := toBytes (ofBytes (recordOf 0 1) + 0xC0 * 2 ^ 454) 64
def extState (forced : Bool) : State :=
  let s := lab .fence
  let put := fun (m : Memory) (a : Nat) (bs : List Byte) => writeBytes m (devPlace a) bs
  let obj : BarObj := { phase := 1, exp := 5, err := forced, arr := 0, bexp := 0, landed := 0 }
  { s with mem := put (put (put s.mem 0x3000 (extOf 0x3100 0 0x3110 0 0x3200)) 0x3110 (barBytes obj)) 0x3200 (toBytes (2 ^ 96 + 2 ^ 64 + 0x8000) 16) }

/-- The state once its extension block has been read. -/
def stateAfter (s : State) : Option (List Byte × State) → State
  | some (_, s1) => s1
  | none => s
def extAfter (forced : Bool) : State := stateAfter (extState forced) (checkRecord (extState forced) 0 extRecord)

theorem depsOf_ext : depsOf (extOf 0x3100 0 0x3110 0 0x3200) = [(0x3100, 0), (0x3110, 0)] := by decide +kernel

theorem depsReady_ext (forced : Bool) :
    DepsReady (admitted (extAfter forced) 0 (extOf 0x3100 0 0x3110 0 0x3200) 1) 0 (extOf 0x3100 0 0x3110 0 0x3200) := by
  intro d hd
  rw [depsOf_ext] at hd
  have a : (admitted (extAfter forced) 0 (extOf 0x3100 0 0x3110 0 0x3200) 1).hallmarks = [] := by cases forced <;> decide +kernel
  have b : (admitted (extAfter forced) 0 (extOf 0x3100 0 0x3110 0 0x3200) 1).cores.all (fun k => k.2.l1.isEmpty) = true := by
    cases forced <;> decide +kernel
  have c : ∀ q ∈ [((0x3100, 0) : Nat × Word), (0x3110, 0)],
      walk (admitted (extAfter forced) 0 (extOf 0x3100 0 0x3110 0 0x3200) 1) 0 q.1 = .ok (leafOf 0) ∧
      (leafOf 0).place (admitted (extAfter forced) 0 (extOf 0x3100 0 0x3110 0 0x3200) 1) 0 q.1 = some (devPlace q.1) := by
    cases forced <;> decide +kernel
  exact ⟨leafOf 0, devPlace d.1, (c d hd).1, rfl, (c d hd).2, by unfold State.hallmark; rw [a]; rfl, noPartials_of b⟩

/-- An arrival in flight at the object at 0x3100, on whose phase 0 launch 7 depends: the last one expected, or not. -/
def depFlight : Flight :=
  { gid := 2, team := 1, ctx := 0, core := 0, kind := .arrive 1 0, pieces := [⟨0, .glob (devPlace 0x3100), 16, 0, 0, none, false, 0x3100, 38, false, false⟩] }
def depState (passes : Bool) : State :=
  let s := flightState depFlight
  let obj : BarObj := { phase := 0, exp := if passes then 1 else 2, err := false, arr := 0, bexp := 0, landed := 0 }
  { s with
    launches := s.launches ++ [(7, { s.launch 0 with id := 9, deps := [(0x3100, 0)] })]
    mem := writeBytes s.mem (devPlace 0x3100) (barBytes obj) }

theorem witness_LaunchesAreAdmitted_dependences :
    (∀ forced, let s := extState forced
     partOfFunc s 0 = some 0 ∧ (s.ctx 0).state = .live ∧ extRecord.length = 64 ∧
      queued s 0 (recField extRecord 319 317) < 64 ∧ (s.part 0).split.getLsbD 1 = false ∧
      ∃ x s1, checkRecord s 0 extRecord = some (x, s1) ∧ x = extOf 0x3100 0 0x3110 0 0x3200 ∧
        DepsReady (admitted s1 0 x 1) 0 x ∧ depsOf x = [(0x3100, 0), (0x3110, 0)] ∧
        (objectOf (admitted s1 0 x 1) 0 0x3110).phase = 1 ∧ (objectOf (admitted s1 0 x 1) 0 0x3110).err = forced) ∧
    (∀ passes : Bool, let s := depState passes
     aget? s.flights 3 = some depFlight ∧ depFlight.kind = .arrive 1 0 ∧ depFlight.refused = false ∧ earlierOpen s 2 3 = false ∧
      NothingToPull s 0 (lineOf (devPlace 0x3100)) ∧ (∀ line, NoPartials s line) ∧ (∀ x ∈ (s.core 0).l1, x.2.state ≠ .d) ∧
      RecordRoom s 1 ∧ (s.launches.map Prod.fst).Nodup ∧
      (∀ m ∈ s.launches, m.2.deps = if m.1 = 7 then [(0x3100, 0)] else []) ∧
      (∀ c ∈ s.clusters, ∀ r ∈ c.2.table, r.trigger = none) ∧
      (aget? s.launches 7).isSome = true ∧ MapsFirm s (s.launch 7).ctx 0x3100 (devPlace 0x3100) false [(devPlace 0x3100, 16)] ∧
      (completed { parseBar (readBytes s.mem (devPlace 0x3100) 16) with arr := 1 }).phase = if passes then 1 else 0) := by
  refine ⟨fun forced => ?_, fun passes => ?_⟩
  · have a : (checkRecord (extState forced) 0 extRecord).map Prod.fst = some (extOf 0x3100 0 0x3110 0 0x3200) := by
      cases forced <;> decide +kernel
    obtain ⟨⟨x, s1⟩, hx, ex⟩ := Option.map_eq_some_iff.mp a
    refine ⟨by cases forced <;> decide +kernel, by cases forced <;> decide +kernel, by decide +kernel, by cases forced <;> decide +kernel,
      by cases forced <;> decide +kernel, x, s1, hx, ex, ?_⟩
    have e1 : s1 = extAfter forced := (congrArg (stateAfter (extState forced)) hx).symm
    have e2 : x = extOf 0x3100 0 0x3110 0 0x3200 := ex
    rw [e1, e2]
    exact ⟨depsReady_ext forced, depsOf_ext, by cases forced <;> decide +kernel, by cases forced <;> decide +kernel⟩
  · cases passes <;>
      exact ⟨by decide +kernel, rfl, rfl, by decide +kernel, nothingToPull_of (by decide +kernel), fun _ => noPartials_of (by decide +kernel), by decide +kernel,
        by unfold RecordRoom; decide +kernel, by decide +kernel, by decide +kernel, by decide +kernel, by decide +kernel,
        mapsFirm_of (leafOf 0) (by decide +kernel), by decide +kernel⟩

/-- A launch with a hint of each class that has counted 4,096 accesses, its team ended, its launch too; its extension block
names a DONEA object. -/
def endState : State :=
  let s := lab .fence
  let s := s.setTeam 1 { s.team 1 with live := 0 }
  s.setLaunch 0 { s.launch 0 with ended := 1, ext := List.replicate 25 0 ++ [0x20] ++ List.replicate 100 0 }

theorem witness_TeamsAndLaunchesEnd :
    (∀ cls ∈ [1, 2, 3], let l : Launch := { hints := [{ cls, pages := 1, accesses := 4096, misses := 8192 }] }
      l.hints[0]? = some { cls, pages := 1, accesses := 4096, misses := 8192 } ∧ 4096 % 4096 = 0) ∧
    (let s := endState
     (∃ y, aget? s.teams 1 = some y ∧ y.live = 0 ∧ teamBusy s 1 y = false) ∧
     ∃ l, aget? s.launches 0 = some l ∧ l.teams ≤ l.ended ∧ launchWriting s l = false ∧ NothingWaits s ∧ l.hints = [] ∧
      (∀ x ∈ (s.func (s.part (partOf l.ctx)).func).waiting, x.type ≠ 2) ∧
      recField l.ext 255 192 = 0x2000 ∧
      physOf (l.cores.foldl writebackAll s) l.ctx (.glob 0x2000) = some (.glob (devPlace 0x2000)) ∧
      NoPartials (l.cores.foldl writebackAll s) (lineOf (devPlace 0x2000))) ∧
    (let s := lab .fence
     (∃ y, aget? s.teams 1 = some y ∧ y.live ≠ 0) ∧ ∃ l, aget? s.launches 0 = some l ∧ l.ended < l.teams) :=
  ⟨by decide, ⟨⟨endState.team 1, by decide +kernel, by decide +kernel, by decide +kernel⟩, endState.launch 0, by decide +kernel,
    by decide +kernel, by decide +kernel, nothingWaits_of (by decide +kernel) (by decide +kernel), by decide +kernel, by decide +kernel, by decide +kernel,
    by decide +kernel, noPartials_of (by decide +kernel)⟩,
   ⟨(lab .fence).team 1, by decide +kernel, by decide +kernel⟩, (lab .fence).launch 0, by decide +kernel, by decide +kernel⟩

/-- An ended launch with a hint dropped and one contradicted, its table at 0x3000, with a DONEA object or without. -/
def hintedEnd (done : Bool) : State :=
  let s := endState
  s.setLaunch 0 { s.launch 0 with
    ext := extOf 0 0 0 0 0x3000 |>.take 24 |>.append ((if done then [0, 0x20] else [0, 0]) ++ List.replicate 6 0 ++ [0, 0x30] ++ List.replicate 30 0)
    hints := [{ cls := 1, dropped := true }, { cls := 2, pages := 1, accesses := 4096, misses := 0 }, { cls := 3, pages := 1, accesses := 4096, misses := 0 }] }
def reportAt (i : Nat) : Nat := devPlace (0x3100 + 16 * i)

theorem witness_TeamsAndLaunchesEnd_hints : ∀ done : Bool, let s := hintedEnd done
    ∃ l, aget? s.launches 0 = some l ∧ l.teams ≤ l.ended ∧ launchWriting s l = false ∧ NothingWaits s ∧
      (∀ x ∈ (s.func (s.part (partOf l.ctx)).func).waiting, x.type ≠ 2) ∧
      let w := l.cores.foldl writebackAll s
      let report := reportOf l
      let parts := (List.range report.length).map (fun i => (reportAt i, 16))
      l.hints ≠ [] ∧ l.hints.length ≤ 16 ∧ (∀ line, NoPartials w line) ∧ report.length = 3 ∧
      (∀ i, i < report.length → MapsFirm w l.ctx (recField l.ext 319 256 + 256 + 16 * i) (reportAt i) true parts) ∧
      (∀ i j, i < j → j < report.length → Apart (reportAt i) 16 (reportAt j) 16) ∧
      recField l.ext 255 192 = (if done then 0x2000 else 0) ∧
      (done = true → MapsFirm w l.ctx 0x2000 (devPlace 0x2000) false parts ∧
        ∀ i, i < report.length → Apart (reportAt i) 16 (devPlace 0x2000) 16) := by
  intro done
  have k : ((hintedEnd done).launch 0).cores.foldl writebackAll (hintedEnd done) = hintedEnd done ∧
      (reportOf ((hintedEnd done).launch 0)).length = 3 := by cases done <;> decide +kernel
  refine ⟨(hintedEnd done).launch 0, ?_⟩
  simp only [k.1, k.2]
  refine ⟨by cases done <;> decide +kernel, by cases done <;> decide +kernel, by cases done <;> decide +kernel,
    by cases done <;> exact nothingWaits_of (by decide +kernel) (by decide +kernel), by cases done <;> decide +kernel, by cases done <;> decide +kernel,
    by cases done <;> decide +kernel, fun _ => by cases done <;> exact noPartials_of (by decide +kernel), trivial, fun i hi => ?_, fun i j hi hj => ?_,
    by cases done <;> decide +kernel, fun hd => ⟨?_, fun i hi => ?_⟩⟩
  · have : i = 0 ∨ i = 1 ∨ i = 2 := by omega
    rcases this with rfl | rfl | rfl <;> cases done <;> exact mapsFirm_of (leafOf 0) (by decide +kernel)
  · have : (i = 0 ∧ (j = 1 ∨ j = 2)) ∨ (i = 1 ∧ j = 2) := by omega
    rcases this with ⟨rfl, rfl | rfl⟩ | ⟨rfl, rfl⟩ <;> (unfold Apart; decide +kernel)
  · cases done <;> exact mapsFirm_of (leafOf 0) (by decide +kernel)
  · have : i = 0 ∨ i = 1 ∨ i = 2 := by omega
    rcases this with rfl | rfl | rfl <;> (unfold Apart; decide +kernel)

/-- CSRR of every register, CSRW of every one it may write, and one that no lane takes. -/
theorem witness_ControlRegisters :
    (∀ n ∈ [0x000, 0x001, 0x010, 0x011, 0x012, 0x013, 0x014, 0x015, 0x016, 0x017, 0x018, 0x019, 0x01A, 0x020, 0x021, 0x022,
        0x030, 0x031, 0x032, 0x033, 0x040, 0x041, 0x042, 0x043, 0x044], let i := Instr.csrr noGuard 1 (BitVec.ofNat 12 n)
      Issues i (labInh i) (envOf (labInh i)) ∧ (aget? (labInh i).groups (envOf (labInh i)).gid).isSome = true) ∧
    (∀ n ∈ [0x000, 0x001, 0x030, 0x031, 0x032, 0x033], let i := Instr.csrw noGuard 104 (BitVec.ofNat 12 n)
      Issues i (labInh i) (envOf (labInh i)) ∧
      lowestLane ((envOf (labInh i)).lanes i &&& (envOf (labInh i)).pres) = some 0) ∧
    (let i := Instr.csrw ⟨15, true, false⟩ 104 0x033
     Issues i (labInh i) (envOf (labInh i)) ∧ (envOf (labInh i)).lanes i &&& (envOf (labInh i)).pres = 0) := by
  refine ⟨fun n hn => ⟨issues_of ?_, ?_⟩, fun n hn => ⟨issues_of ?_, ?_⟩, issues_of (by decide +kernel), by decide +kernel⟩ <;>
    revert n <;> decide +kernel

theorem nothingOut_of {s : State} {ctx : Nat} (h : s.flights.isEmpty = true)
    (k : s.cores.all (fun k => k.2.swageQueue.isEmpty && k.2.swage.isEmpty && k.2.crucible.isEmpty && k.2.drains.isEmpty) = true)
    (t : s.clusters.all (fun c => c.2.table.isEmpty) = true) : NothingOut s ctx := by
  refine ⟨fun f hf => ?_, fun c => ?_, fun c r hr => ?_⟩
  · rw [List.isEmpty_iff.mp h] at hf
    exact absurd hf List.not_mem_nil
  · have e : (s.core c).swageQueue = [] ∧ (s.core c).swage = [] ∧ (s.core c).crucible = [] ∧ (s.core c).drains = [] := by
      unfold State.core
      cases hc : aget? s.cores c with
      | none => exact ⟨rfl, rfl, rfl, rfl⟩
      | some x =>
        have := List.all_eq_true.mp k _ (mem_of_aget? hc)
        simp only [Bool.and_eq_true, List.isEmpty_iff] at this
        exact ⟨this.1.1.1, this.1.1.2, this.1.2, this.2⟩
    simp [e]
  · have e : (s.cluster c).table = [] := by
      unfold State.cluster
      cases hc : aget? s.clusters c with
      | none => rfl
      | some x => exact List.isEmpty_iff.mp (List.all_eq_true.mp t _ (mem_of_aget? hc))
    rw [e] at hr
    exact absurd hr List.not_mem_nil

def systems : List Instr :=
  [.tlbiPage noGuard true 104, .tlbiPage noGuard false 104, .tlbiAll noGuard true 104, .tlbiAll noGuard false 104, .l1wb noGuard, .halt noGuard]
def systemsOff : List Instr :=
  [.tlbiPage ⟨15, true, false⟩ false 104, .tlbiAll ⟨15, true, false⟩ false 104, .l1wb ⟨15, true, false⟩, .halt ⟨15, true, false⟩]

theorem witness_SystemInstructions :
    (∀ i ∈ systems, Issues i (labInh i) (envOf (labInh i)) ∧ (envOf (labInh i)).lanes i &&& (envOf (labInh i)).pres ≠ 0 ∧
      NothingOut (labInh i) 0 ∧ (aget? (labInh i).groups (envOf (labInh i)).gid).isSome = true ∧
      ∀ p ∈ (envOf (labInh i)).g.quads, p.2.regang = none) ∧
    (∀ i ∈ systemsOff, Issues i (labInh i) (envOf (labInh i)) ∧ (envOf (labInh i)).lanes i &&& (envOf (labInh i)).pres = 0) ∧
    (let o : Origin := ⟨0x1000, 0, 0, 1, 0, true, 1⟩
     let s := flightState { throughFlight (.glob (devPlace 0x2000)) with origin := some 0, refused := true, refusedAt := 0x2000 }
     let s := s.setCore 0 { s.core 0 with origins := [(0, o)] }
     refusedUnder s 0 0 = some (0, 0x2000) ∧ aget? (s.core 0).origins 0 = some o ∧ (s.ctx o.ctx).erred = false ∧
      refusedUnder s 0 1 = none) := by
  refine ⟨fun i hi => ?_, fun i hi => ⟨issues_all (f := labInh) (by decide +kernel) i hi, ?_⟩, by decide +kernel⟩
  · simp only [systems, List.mem_cons, List.not_mem_nil, or_false] at hi
    rcases hi with rfl | rfl | rfl | rfl | rfl | rfl <;>
      exact ⟨issues_of (by decide +kernel), by decide +kernel, nothingOut_of (by decide +kernel) (by decide +kernel) (by decide +kernel),
        by decide +kernel, by decide +kernel⟩
  · revert i; decide +kernel

/-! ## States that meet the statements' hypotheses: regions -/

/-- A small state whose page maps every address to itself in stack 0 (MEM 1, AGG). -/
def aggLab (i : Instr) (sr : Store 32) : State :=
  aggPage (lab i [] sr)

/-- A region of 16 leaves of a kind at 0x2000 of stack 0, its shadow at 0x4000. -/
def regionOf (kind : Nat) : Region :=
  { ctx := 0, va := 0x2000, leaves := [⟨0, 0x2000, 64⟩], shadow := [⟨0, 0x4000, 64⟩], log2n := 4, attr := BitVec.ofNat 32 (3 + kind * 256)
    poisoned := false }

def iAdecl : Instr := .adecl noGuard 1 100 (.lit 3) 102 4
def iAfree : Instr := .afree noGuard 1 100
def iAstat : Instr := .astat noGuard 4 100
def declRegs : Store 32 := [(4, 0x2000), (6, 0x4000)]

/-- A state where a declaration meets a region, has no quota, gets slot 0, or is put to the host. -/
def declState (regions quota host : Nat) : State :=
  let s := aggLab iAdecl declRegs
  let s := s.setPart 0 { s.part 0 with rquota := [quota], split := BitVec.ofNat 5 (host * 16) }
  if regions = 0 then s else { s with regions := [(0, regionOf 0)] }

/-- A declaration with an attribute word of type 5, and one of device memory that is interleaved. -/
def iAdeclBad : Instr := .adecl noGuard 1 100 (.lit 5) 102 4

theorem witness_RegionsAreDeclared_traps :
    (let e := envOf (aggLab iAdeclBad declRegs)
     Issues iAdeclBad (aggLab iAdeclBad declRegs) e ∧ e.flagFull noGuard = false ∧
      lowestLane (e.lanes iAdeclBad &&& e.pres) = some 0 ∧ e.accessHeld = false ∧
      Deliverable e .aregion (e.lanes iAdeclBad &&& e.pres) ∧ (BitVec.ofNat 32 (readB e.g 0 (.lit 5) 32) : Word).toNat = 5 ∧
      ¬ ∃ ty ∈ [3, 7, 4, 17, 26], ∃ kind q, kind < 4 ∧ q < 256 ∧ 5 = ty + kind * 2 ^ 8 + q * 2 ^ 24 ∧ (q = 0 ∨ 17 ≤ ty)) ∧
    (let s := lab iAdecl [] declRegs
     let e := envOf s
     let xs := spansOf s e.core e.ctx 0x2000 64
     Issues iAdecl s e ∧ e.flagFull noGuard = false ∧ lowestLane (e.lanes iAdecl &&& e.pres) = some 0 ∧ e.accessHeld = false ∧
      readSet e.g 0 100 64 = 0x2000 ∧ readSet e.g 0 102 64 = 0x4000 ∧
      checkSpan s e.core e.ctx e.inh .both (fun _ => true) 64 0x2000 64 = none ∧
      checkSpan s e.core e.ctx e.inh .both (fun _ => true) 64 0x4000 (regionOf 0).shadowBytes = none ∧
      (∃ x ∈ xs.head?, x.2.kind ≠ 1) ∧ Deliverable e .aregion (e.lanes iAdecl &&& e.pres)) :=
  ⟨⟨issues_of (by decide +kernel), by decide +kernel, by decide +kernel, by decide +kernel, deliverable_of (by decide +kernel),
    by decide +kernel, by
      rintro ⟨ty, h, kind, q, -, -, k, -⟩
      simp only [List.mem_cons, List.not_mem_nil, or_false] at h
      omega⟩,
   issues_of (by decide +kernel), by decide +kernel, by decide +kernel, by decide +kernel, by decide +kernel, by decide +kernel,
   by decide +kernel, by decide +kernel, by decide +kernel, deliverable_of (by decide +kernel)⟩

/-- The region the declaration names, as its spans are placed. -/
def declRegion (s : State) : Region :=
  let r0 : Region := ⟨0, 0x2000, [], [], 4, 3, false⟩
  { r0 with leaves := (spansOf s 0 0 0x2000 r0.bytes).map Prod.fst, shadow := (spansOf s 0 0 0x4000 r0.shadowBytes).map Prod.fst }

/-- A declaration behind a write of the group on the region's lines. -/
def declBehind : State := { declState 0 1 0 with flights := [(3, throughFlight (.glob 0x2000))] }

theorem witness_RegionsAreDeclared_behind :
    let s := declBehind
    let e := envOf s
    Issues iAdecl s e ∧ e.flagFull noGuard = false ∧ lowestLane (e.lanes iAdecl &&& e.pres) = some 0 ∧ e.accessHeld = false ∧ Quiet e ∧
      readB e.g 0 (.lit 3) 32 = 3 ∧ readSet e.g 0 100 64 = 0x2000 ∧ readSet e.g 0 102 64 = 0x4000 ∧
      checkSpan s e.core e.ctx e.inh .both (fun _ => true) 64 0x2000 64 = none ∧
      checkSpan s e.core e.ctx e.inh .both (fun _ => true) 64 0x4000 (regionOf 0).shadowBytes = none ∧
      spansOf s e.core e.ctx 0x2000 64 ≠ [] ∧
      (∀ x ∈ spansOf s e.core e.ctx 0x2000 64 ++ spansOf s e.core e.ctx 0x4000 (regionOf 0).shadowBytes,
        x.2.kind = 1 ∧ x.1.pa / 2 ^ 36 = 0) ∧ e.core = 0 ∧ e.ctx = 0 ∧ e.writesOn (declRegion s) = true := by
  refine ⟨issues_of (by decide +kernel), by decide +kernel, by decide +kernel, by decide +kernel, fun f hf _ => ?_, by decide +kernel⟩
  have k : ∀ f ∈ declBehind.flights, f.2.kind ≠ .load := by decide +kernel
  exact k f hf

theorem witness_RegionsAreDeclared :
    (∀ s ∈ [declState 1 2 0, declState 0 0 0, declState 0 1 0, declState 0 1 1], let e := envOf s
      Issues iAdecl s e ∧ e.flagFull noGuard = false ∧ lowestLane (e.lanes iAdecl &&& e.pres) = some 0 ∧ e.accessHeld = false ∧ Quiet e ∧
      readB e.g 0 (.lit 3) 32 = 3 ∧ readSet e.g 0 100 64 = 0x2000 ∧ readSet e.g 0 102 64 = 0x4000 ∧
      checkSpan s e.core e.ctx e.inh .both (fun _ => true) 64 0x2000 64 = none ∧
      checkSpan s e.core e.ctx e.inh .both (fun _ => true) 64 0x4000 (regionOf 0).shadowBytes = none ∧
      spansOf s e.core e.ctx 0x2000 64 ≠ [] ∧
      ∀ x ∈ spansOf s e.core e.ctx 0x2000 64 ++ spansOf s e.core e.ctx 0x4000 (regionOf 0).shadowBytes,
        x.2.kind = 1 ∧ x.1.pa / 2 ^ 36 = 0) ∧
    (∀ s ∈ [declState 1 2 0, declState 0 0 0, declState 0 1 0, declState 0 1 1], (envOf s).writesOn (declRegion s) = false) ∧
    (∃ ty ∈ [3, 7, 4, 17, 26], ∃ kind q, kind < 4 ∧ q < 256 ∧ 3 = ty + kind * 2 ^ 8 + q * 2 ^ 24 ∧ (q = 0 ∨ 17 ≤ ty)) ∧
    (declState 0 0 0).part 0 = { (declState 0 0 0).part 0 with rquota := [0] } ∧ (declState 0 1 0).regions = [] ∧
    ((declState 0 1 1).part 0).split.getLsbD 4 = true ∧
    (∀ i ∈ [iAfree, iAstat], ∀ rs ∈ [[], [(0, regionOf 0)]], let s := { aggLab i declRegs with regions := rs }
      let e := envOf s
      Issues i s e ∧ e.flagFull noGuard = false ∧ e.lanes i &&& e.pres ≠ 0 ∧ lowestLane (e.lanes i &&& e.pres) = some 0 ∧
      e.accessHeld = false ∧ Quiet e ∧ readSet e.g 0 100 64 = 0x2000 ∧ e.slotHolds 0 = false ∧ slotBusy s 0 = false) ∧
    (∀ i ∈ [Instr.adecl ⟨15, true, false⟩ 1 100 (.lit 3) 102 30, .afree ⟨15, true, false⟩ 1 100, .astat ⟨15, true, false⟩ 4 100],
      Issues i (lab i) (envOf (lab i)) ∧ (envOf (lab i)).lanes i &&& (envOf (lab i)).pres = 0) := by
  refine ⟨fun s hs => ?_, by decide +kernel, ⟨3, by simp, 0, 0, by decide⟩, by decide +kernel, by decide +kernel, by decide +kernel, fun i hi rs hr => ?_,
    fun i hi => ⟨issues_all (f := lab) (by decide +kernel) i hi, ?_⟩⟩
  · simp only [List.mem_cons, List.not_mem_nil, or_false] at hs
    rcases hs with rfl | rfl | rfl | rfl <;>
      exact ⟨issues_of (by decide +kernel), by decide +kernel, by decide +kernel, by decide +kernel, quiet_of (by decide +kernel),
        by decide +kernel⟩
  · simp only [List.mem_cons, List.not_mem_nil, or_false] at hi hr
    rcases hi with rfl | rfl <;> rcases hr with rfl | rfl <;>
      exact ⟨issues_of (by decide +kernel), by decide +kernel, by decide +kernel, by decide +kernel, by decide +kernel,
        quiet_of (by decide +kernel), by decide +kernel⟩
  · revert i; decide +kernel

/-- The tree entries of a region, by level and index. -/
def nodesOf (r : Region) : List (Nat × Nat) :=
  (List.range r.levels).flatMap (fun k => (List.range (max (r.count (k + 1)) 4)).map (fun j => (k + 1, j)))

theorem nodes_of {r : Region} {k j : Nat} (a : 1 ≤ k) (b : k ≤ r.levels) (c : j < max (r.count k) 4) : (k, j) ∈ nodesOf r := by
  simp only [nodesOf, List.mem_flatMap, List.mem_range, List.mem_map, Prod.mk.injEq]
  exact ⟨k - 1, by omega, j, by rw [Nat.sub_add_cancel a]; exact c, by omega, rfl⟩

theorem regionPlaced_of {r : Region} (h : 4 ≤ r.log2n ∧ r.log2n ≤ 30 ∧ r.kindNo ≤ 3 ∧ r.ty ∈ [.i32, .n32, .i64, .f32, .fx64])
    (a : ∀ i, i < r.n → spanOff r.leaves (leafAt r i) = some (r.leafBytes * i))
    (b : ∀ i, i < r.n → ∀ j, j < r.n → i ≠ j → leafAt r i + r.leafBytes ≤ leafAt r j ∨ leafAt r j + r.leafBytes ≤ leafAt r i)
    (c : ∀ x ∈ nodesOf r, ∀ y ∈ nodesOf r, x ≠ y →
      entryAt r x.1 x.2 + r.entryBytes ≤ entryAt r y.1 y.2 ∨ entryAt r y.1 y.2 + r.entryBytes ≤ entryAt r x.1 x.2)
    (d : ∀ i, i < r.n → ∀ k, k < r.levels + 1 → 1 ≤ k → ∀ j, j < max (r.count k) 4 →
      leafAt r i + r.leafBytes ≤ entryAt r k j ∨ entryAt r k j + r.entryBytes ≤ leafAt r i) : RegionPlaced r :=
  ⟨h, a, fun i j hi hj => b i hi j hj,
   fun k j k' j' x y => c (k, j) (nodes_of x.1 x.2.1 x.2.2) (k', j') (nodes_of y.1 y.2.1 y.2.2),
   fun i k j hi h1 h2 h3 => d i hi k (by omega) h1 j h3⟩

theorem placed0 : RegionPlaced (regionOf 0) :=
  regionPlaced_of (by decide +kernel) (by decide +kernel) (by decide +kernel) (by decide +kernel) (by decide +kernel)

/-- Memory that holds nothing holds the tree of a sum region of zeros. -/
def treeState (f : Flight) : State := { flightState f with regions := [(0, regionOf 0)], mem := [] }

theorem treeOk0 (f : Flight) : TreeOk (treeState f) (regionOf 0) := by
  have a : ∀ k, k < 3 → 1 ≤ k → ∀ j, j < (regionOf 0).count k →
      sgn 64 (ofBytes (readBytes [] (entryAt (regionOf 0) k j) 8)) = clamped (((List.range ((coverOf (regionOf 0) k j).2 -
        (coverOf (regionOf 0) k j).1)).map (fun i => ((regionOf 0).contribution (ofBytes (readBytes []
          (leafAt (regionOf 0) ((coverOf (regionOf 0) k j).1 + i)) 4))).1)).sum) := by
    simp only [clamped]
    decide +kernel
  intro k j h1 h2 h3
  exact a k (by have : (regionOf 0).levels = 2 := by decide
                omega) h1 j h3

theorem unclamped0 (f : Flight) : Unclamped (treeState f) (regionOf 0) := by
  have a : ∀ hi, hi < 17 → ∀ lo, lo < 17 → -1 < ((List.range (hi - lo)).map (fun i =>
      ((regionOf 0).contribution (ofBytes (readBytes [] (leafAt (regionOf 0) (lo + i)) 4))).1)).sum ∧
      ((List.range (hi - lo)).map (fun i =>
      ((regionOf 0).contribution (ofBytes (readBytes [] (leafAt (regionOf 0) (lo + i)) 4))).1)).sum < 1 := by decide +kernel
  intro lo hi h1 h2
  have n : (regionOf 0).n = 16 := by decide
  have b := a hi (by omega) lo (by omega)
  have c : (contribs (treeState f) (regionOf 0) lo hi).sum = ((List.range (hi - lo)).map (fun i =>
      ((regionOf 0).contribution (ofBytes (readBytes [] (leafAt (regionOf 0) (lo + i)) 4))).1)).sum := rfl
  rw [c, abs_lt]
  omega

def buildFlight : Flight := { gid := 2, team := 1, ctx := 0, core := 0, kind := .build, pdst := some 1, lanes := 15, args := [0] }
def leafFlight (red : Bool) : Flight :=
  { gid := 2, team := 1, ctx := 0, core := 0, kind := .leaf 0 red .i32, pieces := [
    ⟨0, .glob 0x203C, 4, 0xFFFFFFFF, 0, none, false, 0x203C, 38, false, false⟩, ⟨1, .glob 0x2000, 4, 1, 0, none, false, 0x2000, 38, false, false⟩] }

theorem witness_RegionTreesStayTrue :
    (∀ f ∈ [buildFlight, leafFlight false, leafFlight true], aget? (treeState f).flights 3 = some f ∧
      aget? (treeState f).regions 0 = some (regionOf 0) ∧ RegionPlaced (regionOf 0) ∧ TreeOk (treeState f) (regionOf 0) ∧
      (aget? (treeState f).groups f.gid).isSome = true ∧ f.refused = false) ∧
    (∀ line ∈ (regionOf 0).lines, ((treeState buildFlight).hallmark line).pend = []) ∧
    (∀ c ∈ (treeState buildFlight).cores, ∀ line ∈ (regionOf 0).lines, aget? c.2.l1 line = none) ∧
    ∀ red, ∀ p ∈ (leafFlight red).pieces, p.b < 2 ^ (8 * (regionOf 0).leafBytes) ∧
      ∃ i, i < (regionOf 0).n ∧ p.pa = .glob (leafAt (regionOf 0) i) := by
  refine ⟨fun f hf => ⟨?_, ?_, placed0, treeOk0 f, ?_⟩, by decide +kernel, by decide +kernel, fun red p hp => ?_⟩
  · rfl
  · rfl
  · revert f; decide +kernel
  · simp only [leafFlight, List.mem_cons, List.not_mem_nil, or_false] at hp
    rcases hp with rfl | rfl
    · exact ⟨by decide +kernel, 15, by decide, by decide +kernel⟩
    · exact ⟨by decide +kernel, 0, by decide, by decide +kernel⟩

/-- Each query of a region of its kind, with its upper bound at the region's end. -/
def queries : List (Instr × Nat) :=
  [(.arsum noGuard false 4 1 100 (.reg 8) 9, 0), (.arsum noGuard true 4 1 100 (.reg 8) 9, 0), (.armax noGuard 4 15 100 (.reg 8) 9, 1),
   (.armin noGuard 4 1 100 (.reg 8) 9, 2), (.apfx noGuard 4 1 100 (.reg 10), 3), (.apick noGuard 4 1 100 (.reg 8), 0)]

def queryState (p : Instr × Nat) : State :=
  { lab p.1 [(9, 16), (137, 16), (265, 16), (393, 16)] [(4, 0x2000)] with regions := [(0, regionOf p.2)] }

def queryFlight (fn : Nat) : Flight :=
  { gid := 2, team := 1, ctx := 0, core := 0, kind := .query fn false, dst := some 4, width := 8, pdst := some 1, lanes := 3, args := [0, 0]
    pieces := [⟨0, .pad 0 0, 0, 0, 16, none, false, 0, 0, false, false⟩, ⟨1, .pad 0 0, 0, 3, 3, none, false, 0, 0, false, false⟩] }

theorem witness_RegionQueriesRun :
    (∀ p ∈ queries, let s := queryState p
     let e := envOf s
     Issues p.1 s e ∧ s.regions.find? (fun x => x.2.ctx = e.ctx && x.2.va = readSet e.g 0 100 64) = some (0, regionOf p.2) ∧
      e.flagFull noGuard = false ∧ e.accessHeld = false ∧ e.slotHolds 0 = false ∧ e.l.det = false ∧
      (regionOf p.2).kindNo ∈ (if p.2 = 1 then [1, 3] else if p.2 = 2 then [2] else [0, 3]) ∧
      ∀ l, (e.lanes p.1).getLsbD l = true → readSet e.g l 9 32 % 2 ^ 32 ≤ (regionOf p.2).n) ∧
    (∀ fn ∈ [0, 3, 4], let f := queryFlight fn
     let s := treeState f
     aget? s.flights 3 = some f ∧ aget? s.regions 0 = some (regionOf 0) ∧ (regionOf 0).poisoned = false ∧ RegionPlaced (regionOf 0) ∧
      TreeOk s (regionOf 0) ∧ Unclamped s (regionOf 0) ∧ DstOk f 4 (f.vals.map Prod.fst ++ f.pieces.map (fun p => p.lane)) ∧
      (f.preds.map Prod.fst ++ f.pieces.map (fun p => p.lane)).Nodup ∧ (regionOf 0).kindNo = 0 ∧
      (aget? s.groups f.gid).isSome = true ∧
      (∀ p ∈ f.pieces, (presentLanes (s.launch (s.team f.team).launch) (s.group f.gid).idx).getLsbD p.lane = true) ∧
      ∀ p ∈ f.pieces, p.k % 2 ^ 32 ≤ (regionOf 0).n) ∧
    (∀ p ∈ queries, ∀ rs ∈ [[], [(0, regionOf (if p.2 = 2 then 0 else 2))]], let s := { queryState p with regions := rs }
     let e := envOf s
     Issues p.1 s e ∧ e.accessHeld = false ∧ e.lanes p.1 &&& e.pres = e.lanes p.1 ∧
      (∀ x ∈ s.regions, x.2.kindNo ∉ (if p.2 = 1 then [1, 3] else if p.2 = 2 then [2] else [0, 3])) ∧
      Deliverable e .aregion (e.lanes p.1)) := by
  refine ⟨fun p hp => ?_, fun fn hf => ?_, fun p hp rs hr => ?_⟩
  · simp only [queries, List.mem_cons, List.not_mem_nil, or_false] at hp
    rcases hp with rfl | rfl | rfl | rfl | rfl | rfl <;>
      exact ⟨issues_of (by decide +kernel), by decide +kernel, by decide +kernel, by decide +kernel, by decide +kernel, by decide +kernel,
        by decide +kernel, lanes_of (by decide +kernel)⟩
  · simp only [List.mem_cons, List.not_mem_nil, or_false] at hf
    rcases hf with rfl | rfl | rfl <;>
      exact ⟨rfl, rfl, rfl, placed0, treeOk0 _, unclamped0 _, ⟨by decide, by decide⟩, by decide, by decide, by decide +kernel,
        by decide +kernel, by decide⟩
  · have a : queries.all (fun p => [[], [(0, regionOf (if p.2 = 2 then 0 else 2))]].all (fun rs =>
        let s := { queryState p with regions := rs }
        let e := envOf s
        issuesB p.1 s && deliverableB e .aregion (e.lanes p.1) && decide (e.accessHeld = false ∧
          e.lanes p.1 &&& e.pres = e.lanes p.1 ∧
          ∀ x ∈ s.regions, x.2.kindNo ∉ (if p.2 = 1 then [1, 3] else if p.2 = 2 then [2] else [0, 3])))) = true := by decide +kernel
    have b := List.all_eq_true.mp (List.all_eq_true.mp a p hp) rs hr
    simp only [Bool.and_eq_true, decide_eq_true_eq] at b
    exact ⟨issues_of b.1.1, b.2.1, b.2.2.1, b.2.2.2, deliverable_of b.1.2⟩

/-! ## States that meet the statements' hypotheses: tables -/

/-- The claim record of 16 buckets of 8-byte slots, adding I32 values, at `base`, spilling to `cap` records at 0x2000. -/
def claimWords (base cap : Nat) : List Word :=
  [BitVec.ofNat 32 (3 * 2 ^ 19 + 4 * 2 ^ 6), BitVec.ofNat 32 base, 0x2000, 0, BitVec.ofNat 32 cap]
def claimRegs (b base cap : Nat) : Store 32 :=
  [(8, BitVec.ofNat 32 (3 * 2 ^ 19 + b * 2 ^ 6)), (9, BitVec.ofNat 32 base), (10, 0x2000), (12, BitVec.ofNat 32 cap)]

/-- A table in the scratchpad's last KiB, of given keys and values from its first slot on, some records spilled at 0x2000. -/
def tableOf (cap spillcnt : Nat) : Table :=
  { claimed := true, words := claimWords 0xC00 cap, spillcnt := BitVec.ofNat 32 spillcnt, drops := 0 }
def tabState (s : State) (t : Table) (pad : Store 8) : State :=
  s.setTeam 1 { (s.team 1) with tables := [(2, t)], pad }

def iHtclaim : Instr := .htclaim noGuard 2 1 104
def iHtfree : Instr := .htfree noGuard 2 1 100

/-- Claims of the last KiB, without and with a spill area; of a table in use; of a range another table has. -/
def claimStates : List (State × Bool) :=
  [(lab iHtclaim [] (claimRegs 4 0xC00 0), false), (lab iHtclaim [] (claimRegs 4 0xC00 4), false),
   (tabState (lab iHtclaim [] (claimRegs 4 0x0 0)) (tableOf 0 0) [], true),
   ((let s := lab iHtclaim [] (claimRegs 4 0x840 0)
     s.setTeam 1 { s.team 1 with tables := [(0, tableOf 0 0)] }), true)]

theorem claim_wf (w : Nat → Word) (h : w 0 = BitVec.ofNat 32 (3 * 2 ^ 19 + 4 * 2 ^ 6) ∧ (w 1).toNat < 2 ^ 20 ∧ (w 1).toNat % 64 = 0 ∧
    (w 2).toNat + (w 3).toNat * 2 ^ 32 < 2 ^ 49) : ClaimWellFormed w :=
  ⟨⟨0, 3, 0, 0, 0, 4, by rw [h.1]; decide, by decide⟩, h.2⟩

/-- A claim past the scratchpad, one whose spill region is misaligned, one whose spill region no page maps. -/
def badClaims : List (Store 32 × Cause × Nat) :=
  [(claimRegs 4 0xC40 0, .addr, 0xC40), ([(8, BitVec.ofNat 32 (3 * 2 ^ 19 + 4 * 2 ^ 6)), (9, 0xC00), (10, 0x2008), (12, 4)], .align, 0x2008),
   ([(8, BitVec.ofNat 32 (3 * 2 ^ 19 + 4 * 2 ^ 6)), (9, 0xC00), (11, 0x40), (12, 4)], .xlate, 2 ^ 38)]

theorem witness_TablesAreClaimed_traps : ∀ x ∈ badClaims,
    let s := lab iHtclaim [] x.1
    let e := envOf s
    let words := fun (j : Nat) => readReg e.g 0 (104 + j)
    let tb : Table := { claimed := true, words := (List.range 5).map words }
    e.flagFull noGuard = false ∧ Issues iHtclaim s e ∧ e.lanes iHtclaim &&& e.pres ≠ 0 ∧ e.accessHeld = false ∧ e.tabHolds = false ∧
      ClaimWellFormed words ∧ x.2.1 ≠ .poison ∧
      (if e.l.padBytes < tb.base + 64 * 2 ^ tb.b then some (Cause.addr, tb.base)
        else if tb.cap = 0 then none
        else if tb.spill % 16 ≠ 0 then some (Cause.align, tb.spill)
        else checkSpan s e.core e.ctx e.inh .localWrite noRegion 16 tb.spill (16 * tb.cap)) = some x.2 ∧
      Deliverable e x.2.1 (e.lanes iHtclaim &&& e.pres) := by
  intro x hx
  simp only [badClaims, List.mem_cons, List.not_mem_nil, or_false] at hx
  rcases hx with rfl | rfl | rfl <;>
    exact ⟨by decide +kernel, issues_of (by decide +kernel), by decide +kernel, by decide +kernel, by decide +kernel,
      claim_wf _ (by decide +kernel), by decide +kernel, by decide +kernel, deliverable_of (by decide +kernel)⟩

theorem witness_TablesAreClaimed :
    (let e := envOf (lab iHtclaim [] (claimRegs 3 0xC00 0))
     e.flagFull noGuard = false ∧ Issues iHtclaim (lab iHtclaim [] (claimRegs 3 0xC00 0)) e ∧ e.lanes iHtclaim &&& e.pres ≠ 0 ∧
      e.accessHeld = false ∧ e.tabHolds = false ∧ ¬ ClaimWellFormed (fun j => readReg e.g 0 (104 + j))) ∧
    (∀ p ∈ claimStates, let e := envOf p.1
     let words := fun (j : Nat) => readReg e.g 0 (104 + j)
     let tb : Table := { claimed := true, words := (List.range 5).map words }
     e.flagFull noGuard = false ∧ Issues iHtclaim p.1 e ∧ e.lanes iHtclaim &&& e.pres ≠ 0 ∧ e.accessHeld = false ∧ e.tabHolds = false ∧
      ClaimWellFormed words ∧ tb.base + 64 * 2 ^ tb.b ≤ e.l.padBytes ∧
      (tb.cap = 0 ∨ tb.spill % 16 = 0 ∧ checkSpan p.1 e.core e.ctx e.inh .localWrite noRegion 16 tb.spill (16 * tb.cap) = none) ∧
      (((e.t.table 2).claimed = true ∨ e.t.claims tb.base (64 * 2 ^ tb.b) = true ∨
        512 * 1024 < claimedBytes p.1 e.core + 64 * 2 ^ tb.b) ↔ p.2 = true) ∧ Quiet e ∧ (aget? p.1.teams e.g.team).isSome = true) ∧
    (∀ named, let s := tabState (lab iHtfree [] [(4, if named then 0xC00 else 0xC40)]) (tableOf 0 0) []
     let e := envOf s
     Issues iHtfree s e ∧ e.lanes iHtfree &&& e.pres ≠ 0 ∧ e.accessHeld = false ∧ e.tabHolds = false ∧
      (((e.t.table 2).claimed = true ∧ (e.t.table 2).base = (readReg e.g 0 100).toNat) ↔ named = true)) ∧
    (∀ i ∈ [Instr.htclaim ⟨15, true, false⟩ 0 1 104, .htfree ⟨15, true, false⟩ 0 1 100],
      Issues i (lab i) (envOf (lab i)) ∧ (envOf (lab i)).lanes i &&& (envOf (lab i)).pres = 0) := by
  refine ⟨⟨by decide +kernel, issues_of (by decide +kernel), by decide +kernel, by decide +kernel, by decide +kernel, ?_⟩,
    fun p hp => ?_, fun named => ?_, fun i hi => ⟨issues_all (f := lab) (by decide +kernel) i hi, ?_⟩⟩
  · rintro ⟨⟨q, vty, op, full, lay, b, h, x1, -, x2, x3, x4, x5, x6, -⟩, -⟩
    have k : (readReg (envOf (lab iHtclaim [] (claimRegs 3 0xC00 0))).g 0 (104 + 0)).toNat = 3 * 2 ^ 19 + 3 * 2 ^ 6 := by decide +kernel
    have h' := k.symm.trans h
    omega
  · simp only [claimStates, List.mem_cons, List.not_mem_nil, or_false] at hp
    rcases hp with rfl | rfl | rfl | rfl <;>
      exact ⟨by decide +kernel, issues_of (by decide +kernel), by decide +kernel, by decide +kernel, by decide +kernel,
        claim_wf _ (by decide +kernel), by decide +kernel, by decide +kernel, by decide +kernel, quiet_of (by decide +kernel),
        by decide +kernel⟩
  · cases named <;>
      exact ⟨issues_of (by decide +kernel), by decide +kernel, by decide +kernel, by decide +kernel, by decide +kernel⟩
  · revert i; decide +kernel

/-- The lanes 0 to 3 hold one value in a V register. -/
def inAll (r : Nat) (w : Word) : Store 32 := [(r, w), (128 + r, w), (256 + r, w), (384 + r, w)]

/-- The checks of R85 that a lane's access fails, as tests. -/
def globalCause (e : Env) (need : Need) (ok : RegionHit → Bool) (w l : Nat) (ea : Int) : Option Cause :=
  if ea < 0 ∨ 2 ^ 49 < ea + w then some .addr
  else if ea % w ≠ 0 then some .align
  else match mapLane e.s e.core e.ctx e.inh need l ea.toNat with
    | .bad x => if x = .xlate ∨ x = .prot then some x else none
    | .ok pa _ => if ok (regionHit e.s pa) then none else some .prot
def padCause (s : State) (team w : Nat) (ea : Int) : Option Cause :=
  if ea < 0 ∨ (s.launch (s.team team).launch).padBytes < ea + w then some .addr
  else if ea % w ≠ 0 then some .align
  else if (s.team team).claims ea.toNat w then some .prot else none

theorem globalFails_of {e : Env} {need : Need} {ok : RegionHit → Bool} {w l : Nat} {ea : Int} {c : Cause}
    (h : globalCause e need ok w l ea = some c) : GlobalFails e need ok w l ea c := by
  unfold globalCause at h
  unfold GlobalFails
  split at h
  · rw [if_pos ‹_›]; cases h; rfl
  · rw [if_neg ‹_›]
    split at h
    · rw [if_pos ‹_›]; cases h; rfl
    · rw [if_neg ‹_›]
      split at h
      · rename_i x k
        try rw [k]
        split at h
        · cases h; rfl
        · cases h
      · rename_i pa lf k
        try rw [k]
        split at h
        · cases h
        · cases h; exact ⟨rfl, Bool.eq_false_iff.mpr (by assumption)⟩

theorem padFails_of {s : State} {team w : Nat} {ea : Int} {c : Cause} (h : padCause s team w ea = some c) :
    PadFails s team w ea c := by
  unfold padCause at h
  unfold PadFails
  split at h
  · rw [if_pos ‹_›]; cases h; rfl
  · rw [if_neg ‹_›]
    split at h
    · rw [if_pos ‹_›]; cases h; rfl
    · rw [if_neg ‹_›]
      split at h
      · cases h; exact ⟨rfl, ‹_›⟩
      · cases h

/-- A lane that passes its checks fails none of them. -/
theorem globalPasses_of {e : Env} {need : Need} {ok : RegionHit → Bool} {w : Nat} {lanes : LaneMask} {ea : Nat → Int} {pa : Nat → Nat}
    {lf : Nat → Leaf} (h : GlobalOk e need ok w lanes ea pa lf) :
    ∀ l, lanes.getLsbD l = true → ∀ z, ¬ GlobalFails e need ok w l (ea l) z := by
  intro l hl z k
  obtain ⟨h1, h2, h3, h4, h5⟩ := h l hl
  unfold GlobalFails at k
  rw [if_neg (by omega), if_neg (by omega)] at k
  simp [h4, h5] at k

theorem padPasses_of {s : State} {team w : Nat} {lanes : LaneMask} {ea : Nat → Int} (h : PadOk s team w lanes ea) :
    ∀ l, lanes.getLsbD l = true → ∀ z, ¬ PadFails s team w (ea l) z := by
  intro l hl z k
  obtain ⟨h1, h2, h3, h4⟩ := h l hl
  unfold PadFails at k
  rw [if_neg (by omega), if_neg (by omega), h4] at k
  simp at k

/-- An instruction acts where some lanes take no part, as a test. -/
def actsB (i : Instr) (s : State) : Bool :=
  match exec i s with
  | .next t => decide (t ≠ s)
  | _ => false

theorem acts_of {i : Instr} {s : State} (h : actsB i s = true) : ∃ t, exec i s = .next t ∧ t ≠ s := by
  unfold actsB at h
  cases k : exec i s with
  | next t => exact ⟨t, rfl, by simpa [k] using h⟩
  | fault f => simp [k] at h
  | refused r => simp [k] at h

/-- What a failing access asks, as a test: every lane meets one cause. -/
def failsB (i : Instr) (s : State) (cause : Cause) (each : Env → Nat → Option Cause) : Bool :=
  let e := envOf s
  let lanes := e.lanes i
  issuesB i s && !e.accessHeld && e.s.flights.isEmpty && !e.l.det && lanes.getLsbD 0 &&
    decide (lanes &&& e.pres = lanes) && (List.range 128).all (fun l => !lanes.getLsbD l || each e l == some cause) &&
    deliverableB e cause lanes

theorem failing_of {i : Instr} {s : State} {c : Cause} {each : Env → Nat → Option Cause} (h : failsB i s c each = true)
    (hc : c ∈ [Cause.addr, .align, .xlate, .prot]) : let e := envOf s
    let lanes := e.lanes i
    Issues i s e ∧ e.accessHeld = false ∧ Settled e ∧ e.l.det = false ∧ lanes &&& e.pres = lanes ∧
    (∀ l, lanes.getLsbD l = true → each e l = some c) ∧ FirstCause lanes (fun _ => c) c ∧ Deliverable e c lanes := by
  simp only [failsB, Bool.and_eq_true, Bool.not_eq_true', decide_eq_true_eq] at h
  obtain ⟨⟨⟨⟨⟨⟨⟨h1, h2⟩, h3⟩, h4⟩, h5⟩, h6⟩, h7⟩, h8⟩ := h
  refine ⟨issues_of h1, h2, settled_of h3, h4, h6, lanes_of fun l hl k => ?_, ?_, deliverable_of h8⟩
  · have := List.all_eq_true.mp h7 l (List.mem_range.mpr hl)
    simpa [k] using this
  · simp only [List.mem_cons, List.not_mem_nil, or_false] at hc
    rcases hc with rfl | rfl | rfl | rfl <;> simp [FirstCause] <;> exact ⟨0, h5⟩

/-- An LD past the address space, a misaligned one, one that no page maps, one of a page that may not be read; and every other
global form on an address that no page maps. -/
def globalForms (a : RegCode) : List (Instr × Need × (RegionHit → Bool) × BitVec 32) :=
  [(.ld noGuard .b32 .ca 1 a 0, .read, loadRegion .b32, 0), (.st noGuard .b32 .ca a (.reg 8) 0, .write, storeRegion .b32, 0),
   (.acq noGuard .b32 .ca 1 a 0x10, .acquire, noRegion, 0x10), (.rel noGuard .b32 a (.reg 8) 0x10, .localWrite, noRegion, 0x10)] ++
  (atomics a).dropLast.map (fun i => (i, .both, noRegion, 0)) ++ (reds a).map (fun p => (p.1, .localWrite, redRegion p.2 .i32, 0))
def badGlobals : List ((Instr × Need × (RegionHit → Bool) × BitVec 32) × State × Cause) :=
  let noRead := fun (s : State) => { s with mem := writeBytes s.mem (devPlace 0x10000) (toBytes 0xC2 8) }
  let ld := fun (off : BitVec 32) => (Instr.ld noGuard .b32 .ca 1 4 off, Need.read, loadRegion .b32, off)
  [(ld 0x2002, lab (ld 0x2002).1 (inAll 5 0x20000), .addr), (ld 0x2002, lab (ld 0x2002).1, .align),
   (ld 0x2000, noRead (lab (ld 0x2000).1), .prot)] ++ (globalForms 4).map (fun x => (x, lab x.1 (inAll 5 0x40), .xlate))

/-- The scratchpad's forms past its end: accesses by rows, those of a peer, and synchronisation with an S register. -/
def padRows : List (Instr × State) :=
  [.lds noGuard .b32 1 100 0, .sts noGuard .b32 100 (.reg 8) 0].map (fun i => (i, lab i [] [(4, 0x1000)])) ++
  [.ldc noGuard .b32 1 100 0 0, .stc noGuard .b32 100 (.reg 8) 0 0].map (fun i => (i, lab i [] [(4, 0x1000)] 4))
def padSyncs : List (Instr × State) :=
  ((.acq noGuard .b32 .ca 1 100 0) :: (.rel noGuard .b32 100 (.reg 8) 0) :: (atomics 100).dropLast ++ (reds 100).map Prod.fst).map
    (fun i => (i, lab i [] [(4, 0x1000)]))

theorem witness_FailingAccessesTrap :
    (∀ x ∈ badGlobals, let i := x.1.1
     let e := envOf x.2.1
     let lanes := e.lanes i
     Issues i x.2.1 e ∧ e.accessHeld = false ∧ Settled e ∧ e.l.det = false ∧ lanes &&& e.pres = lanes ∧
      (∀ l, lanes.getLsbD l = true → GlobalFails e x.1.2.1 x.1.2.2.1 4 l ((readSet e.g l 4 64 : Int) + x.1.2.2.2.toInt) x.2.2) ∧
      FirstCause lanes (fun _ => x.2.2) x.2.2 ∧ Deliverable e x.2.2 lanes) ∧
    (let i := Instr.pref noGuard .ca 4 0
     let e := envOf (lab i (inAll 5 0x40))
     let lanes := e.lanes i
     Issues i (lab i (inAll 5 0x40)) e ∧ e.accessHeld = false ∧ Settled e ∧ e.l.det = false ∧ lanes &&& e.pres = lanes ∧
      (∀ l, lanes.getLsbD l = true →
        globalCause e .read (fun _ => true) 1 l ((readSet e.g l 4 64 : Int) + (0 : BitVec 32).toInt) = some .xlate) ∧
      FirstCause lanes (fun _ => .xlate) .xlate ∧ Deliverable e .xlate lanes) ∧
    (∀ x ∈ padRows ++ padSyncs, let e := envOf x.2
     let lanes := e.lanes x.1
     let n := if x ∈ padRows then 4 else 0
     Issues x.1 x.2 e ∧ e.accessHeld = false ∧ Settled e ∧ e.l.det = false ∧ lanes &&& e.pres = lanes ∧
      (∀ l, lanes.getLsbD l = true →
        PadFails x.2 1 4 (((readReg e.g 0 100).toNat : Int) + (0 : BitVec 32).toInt + (n * l : Nat)) .addr) ∧
      FirstCause lanes (fun _ => .addr) .addr ∧ Deliverable e .addr lanes) ∧
    (∀ i ∈ [Instr.ldc noGuard .b32 1 100 0 0, .stc noGuard .b32 100 (.reg 8) 0 0],
      (envOf (lab i [] [(4, 0x1000)] 4)).l.isCluster = true ∧
        peerTeam (lab i [] [(4, 0x1000)] 4) (envOf (lab i [] [(4, 0x1000)] 4)) 0 = some 1) := by
  refine ⟨fun x hx => ?_, failing_of (i := .pref noGuard .ca 4 0) (s := lab (.pref noGuard .ca 4 0) (inAll 5 0x40)) (each := fun e l =>
    globalCause e .read (fun _ => true) 1 l ((readSet e.g l 4 64 : Int) + (0 : BitVec 32).toInt)) (by decide +kernel) (by decide),
    fun x hx => ?_, by decide +kernel⟩
  · have a : badGlobals.all (fun x => failsB x.1.1 x.2.1 x.2.2 (fun e l =>
        globalCause e x.1.2.1 x.1.2.2.1 4 l ((readSet e.g l 4 64 : Int) + x.1.2.2.2.toInt)) &&
        decide (x.2.2 ∈ [Cause.addr, .align, .xlate, .prot])) = true := by decide +kernel
    have b := List.all_eq_true.mp a x hx
    simp only [Bool.and_eq_true, decide_eq_true_eq] at b
    have c := failing_of b.1 b.2
    exact ⟨c.1, c.2.1, c.2.2.1, c.2.2.2.1, c.2.2.2.2.1, fun l hl => globalFails_of (c.2.2.2.2.2.1 l hl), c.2.2.2.2.2.2⟩
  · have a : (padRows ++ padSyncs).all (fun x => failsB x.1 x.2 .addr (fun e l => padCause x.2 1 4
        (((readReg e.g 0 100).toNat : Int) + (0 : BitVec 32).toInt + (((if x ∈ padRows then 4 else 0) * l : Nat) : Int)))) = true := by
      decide +kernel
    have c := failing_of (List.all_eq_true.mp a x hx) (by decide)
    exact ⟨c.1, c.2.1, c.2.2.1, c.2.2.2.1, c.2.2.2.2.1, fun l hl => padFails_of (c.2.2.2.2.2.1 l hl), c.2.2.2.2.2.2⟩

/-- Global accesses whose lane 0 no page maps, and rows whose last two lanes lie past the scratchpad's end. -/
def partGlobals : List (Instr × Need × (RegionHit → Bool) × BitVec 32) := globalForms 4
def partAddrs : Store 32 := (4, 0x2000) :: (5, 0x40) :: addrs.drop 1
def partRows : List Instr := [.lds noGuard .b32 1 100 0, .sts noGuard .b32 100 (.reg 8) 0]

theorem witness_FailingAccessesTrap_partly :
    (∀ x ∈ partGlobals, let i := x.1
     let s := lab i partAddrs
     let e := envOf s
     let put := e.lanes i &&& e.pres
     let fails := fun (l : Nat) (z : Cause) => GlobalFails e x.2.1 x.2.2.1 4 l ((readSet e.g l 4 64 : Int) + x.2.2.2.toInt) z
     Issues i s e ∧ e.l.det = false ∧ (1 : LaneMask) &&& put = 1 ∧ (∀ l, (1 : LaneMask).getLsbD l = true → fails l .xlate) ∧
      (∀ l, (put &&& ~~~ 1).getLsbD l = true → ∀ z, ¬ fails l z) ∧ put ≠ 1 ∧ FirstCause 1 (fun _ => .xlate) .xlate ∧
      Deliverable e .xlate 1 ∧ ∃ t, exec i (without s e 1) = .next t ∧ t ≠ without s e 1) ∧
    (∀ i ∈ partRows,
     let s := lab i [] [(4, 0xFF8)]
     let e := envOf s
     let put := e.lanes i &&& e.pres
     let fails := fun (l : Nat) (z : Cause) => PadFails s e.g.team 4 (((readReg e.g 0 100).toNat : Int) + (0 : BitVec 32).toInt + (4 * l : Nat)) z
     Issues i s e ∧ e.l.det = false ∧ (12 : LaneMask) &&& put = 12 ∧ (∀ l, (12 : LaneMask).getLsbD l = true → fails l .addr) ∧
      (∀ l, (put &&& ~~~ 12).getLsbD l = true → ∀ z, ¬ fails l z) ∧ put ≠ 12 ∧ FirstCause 12 (fun _ => .addr) .addr ∧
      Deliverable e .addr 12 ∧ ∃ t, exec i (without s e 12) = .next t ∧ t ≠ without s e 12) := by
  refine ⟨fun x hx => ?_, fun i hi => ?_⟩
  · have a : partGlobals.all (fun x =>
        let s := lab x.1 partAddrs
        let e := envOf s
        let put := e.lanes x.1 &&& e.pres
        issuesB x.1 s && deliverableB e .xlate 1 && actsB x.1 (without s e 1) &&
          decide (e.l.det = false ∧ put = 15 ∧
            globalCause e x.2.1 x.2.2.1 4 0 ((readSet e.g 0 4 64 : Int) + x.2.2.2.toInt) = some .xlate ∧
            ∀ l, l < 128 → (put &&& ~~~ 1).getLsbD l = true →
              let ea := (readSet e.g l 4 64 : Int) + x.2.2.2.toInt
              0 ≤ ea ∧ ea + 4 ≤ 2 ^ 49 ∧ ea % 4 = 0 ∧
                mapLane e.s e.core e.ctx e.inh x.2.1 l ea.toNat = .ok (laneAddr l + x.2.2.2.toNat) (leafOf l) ∧
                x.2.2.1 (regionHit e.s (laneAddr l + x.2.2.2.toNat)) = true)) = true := by decide +kernel
    have b := List.all_eq_true.mp a x hx
    simp only [Bool.and_eq_true, decide_eq_true_eq] at b
    obtain ⟨⟨⟨b1, b2⟩, b3⟩, b4, b5, b6, b7⟩ := b
    refine ⟨issues_of b1, b4, ?_, fun l hl => ?_, globalPasses_of (lanes_of b7), ?_, ?_, deliverable_of b2, acts_of b3⟩
    · rw [b5]; decide
    · have k : l = 0 := by
        have := lanes_of (m := 1) (P := fun l => l = 0) (by decide) l hl
        exact this
      subst k
      exact globalFails_of b6
    · rw [b5]; decide
    · simp [FirstCause]
  · have a : partRows.all (fun i =>
        let s := lab i [] [(4, 0xFF8)]
        let e := envOf s
        let put := e.lanes i &&& e.pres
        issuesB i s && deliverableB e .addr 12 && actsB i (without s e 12) &&
          decide (e.l.det = false ∧ put = 15) &&
          [2, 3].all (fun l => padCause s e.g.team 4 (((readReg e.g 0 100).toNat : Int) + (0 : BitVec 32).toInt + (4 * l : Nat)) == some .addr) &&
          decide (∀ l, l < 128 → (put &&& ~~~ 12).getLsbD l = true →
            let ea := ((readReg e.g 0 100).toNat : Int) + (0 : BitVec 32).toInt + (4 * l : Nat)
            0 ≤ ea ∧ ea + (4 : Nat) ≤ (s.launch (s.team e.g.team).launch).padBytes ∧ ea % (4 : Nat) = 0 ∧
              (s.team e.g.team).claims ea.toNat 4 = false)) = true := by decide +kernel
    have b := List.all_eq_true.mp a i hi
    simp only [Bool.and_eq_true, decide_eq_true_eq] at b
    obtain ⟨⟨⟨⟨⟨b1, b2⟩, b3⟩, b4, b5⟩, b6⟩, b7⟩ := b
    refine ⟨issues_of b1, b4, ?_, fun l hl => padFails_of ?_, padPasses_of (lanes_of b7), ?_, ?_, deliverable_of b2, acts_of b3⟩
    · rw [b5]; decide
    · have := lanes_of (m := 12) (P := fun l => l ∈ [2, 3]) (by decide) l hl
      exact eq_of_beq (List.all_eq_true.mp b6 l this)
    · rw [b5]; decide
    · simp [FirstCause]; exact ⟨2, rfl⟩

/-- Barriers, rings, a THSET and a LNCH past the scratchpad's end; tokens of no handle; tables that are not claimed, that
the operands do not fit, and a drain past the end. -/
def badObjects (c : Ctl) : List (Instr × Nat) :=
  [.binit c false 100 (.lit 1), .arrive c false 100, .expect c false 100 (.lit 1), .wait c false 1 100 (.lit 0),
   .rgive c false 100].map (fun i => (i, 16)) ++ [(.rinit c false 100 (.lit 2) 101, 48)]
def badTokens (c : Ctl) : List Instr :=
  [.thdrop c 100, .thdropRevoke c 100, .cpy c false 100 100 104, .cpyg c false 100 100 104, .cpys c false 100 100 104,
   .cpysRadd c false 100 100 104, .cpyr c false 100 100 104]
def badTabs (c : Ctl) (k : RegCode) : List Instr :=
  [.htins c 2 false 4 1 k (.reg 9), .htprobe c 2 4 1 k, .htdel c 2 4 k, .htacc c 2 true k (.lit 1), .htaccRes c 2 false 4 k (.reg 9)]
def iBadDrain : Instr := .htdrain noGuard 2 false false 100 102 104

theorem witness_FailingAccessesTrap_objects :
    (∀ x ∈ badObjects noGuard ++ [(Instr.thset noGuard 5 108 100, 64), (.lnch noGuard 1 100 0, 64)],
     let s := lab x.1 [] [(4, 0x1000)]
     let e := envOf s
     let lanes := e.lanes x.1 &&& e.pres
     Issues x.1 s e ∧ e.accessHeld = false ∧ e.flagFull noGuard = false ∧ Deliverable e .addr lanes ∧ lowestLane lanes = some 0 ∧
      e.object false 100 = Place.pad 1 0x1000 ∧ e.objCheck (e.object false 100) x.2 = some (Cause.addr, 0x1000) ∧
      checkPadSpan s e.g.team 64 (readReg e.g 0 100).toNat 64 = some (Cause.addr, 0x1000)) ∧
    (∀ i ∈ badTokens noGuard, let s := lab i
     let e := envOf s
     Issues i s e ∧ e.accessHeld = false ∧ e.flagFull noGuard = false ∧ Deliverable e .stalehdl (e.lanes i &&& e.pres) ∧
      ∀ slot desc, ¬ TokenNames e.t (readReg e.g 0 100) slot desc) ∧
    (∀ i ∈ badTabs noGuard 8 ++ [iBadDrain], let e := envOf (lab i)
     Issues i (lab i) e ∧ e.accessHeld = false ∧ e.flagFull noGuard = false ∧ Deliverable e .prot (e.lanes i &&& e.pres) ∧
      (e.t.table 2).claimed = false) ∧
    (∀ i ∈ badTabs noGuard 97, let s := tabState (lab i) { tableOf 0 0 with words := [BitVec.ofNat 32 (3 * 2 ^ 19 + 2 * 2 ^ 10 + 4 * 2 ^ 6), 0xC00, 0, 0, 0] } []
     let e := envOf s
     Issues i s e ∧ e.accessHeld = false ∧ e.flagFull noGuard = false ∧ Deliverable e .illreg (e.lanes i &&& e.pres) ∧
      (e.t.table 2).claimed = true ∧ regOk e.l.vregs 97 (e.t.table 2).kw = false) ∧
    (let s := tabState (lab iBadDrain [] [(4, 0x1000)]) (tableOf 0 0) []
     let e := envOf s
     Issues iBadDrain s e ∧ e.accessHeld = false ∧ e.flagFull noGuard = false ∧ Deliverable e .addr (e.lanes iBadDrain &&& e.pres) ∧
      (e.t.table 2).claimed = true ∧ e.object false 100 = Place.pad 1 0x1000 ∧
      checkPadSpan s 1 16 0x1000 (16 + (e.t.table 2).recBytes * (readReg e.g 0 102).toNat) = some (Cause.addr, 0x1000)) := by
  refine ⟨fun x hx => ?_, fun i hi => ?_, fun i hi => ?_, fun i hi => ?_, issues_of (by decide +kernel), by decide +kernel,
    by decide +kernel, deliverable_of (by decide +kernel), by decide +kernel⟩
  · have a : (badObjects noGuard ++ [(Instr.thset noGuard 5 108 100, 64), (.lnch noGuard 1 100 0, 64)]).all (fun x =>
        let s := lab x.1 [] [(4, 0x1000)]
        let e := envOf s
        let lanes := e.lanes x.1 &&& e.pres
        issuesB x.1 s && deliverableB e .addr lanes && decide (e.accessHeld = false ∧ e.flagFull noGuard = false ∧
          lowestLane lanes = some 0 ∧ e.object false 100 = Place.pad 1 0x1000 ∧ e.objCheck (e.object false 100) x.2 = some (Cause.addr, 0x1000) ∧
          checkPadSpan s e.g.team 64 (readReg e.g 0 100).toNat 64 = some (Cause.addr, 0x1000))) = true := by decide +kernel
    have b := List.all_eq_true.mp a x hx
    simp only [Bool.and_eq_true, decide_eq_true_eq] at b
    exact ⟨issues_of b.1.1, b.2.1, b.2.2.1, deliverable_of b.1.2, b.2.2.2⟩
  · have a : (badTokens noGuard).all (fun i => let e := envOf (lab i)
        issuesB i (lab i) && deliverableB e .stalehdl (e.lanes i &&& e.pres) && decide (e.accessHeld = false ∧
          e.flagFull noGuard = false ∧ (e.t.handle ((readReg e.g 0 100).toNat % 16)).valid = false)) = true := by decide +kernel
    have b := List.all_eq_true.mp a i hi
    simp only [Bool.and_eq_true, decide_eq_true_eq] at b
    refine ⟨issues_of b.1.1, b.2.1, b.2.2.1, deliverable_of b.1.2, fun slot desc h => ?_⟩
    have k := h.2.2.1
    rw [h.1, b.2.2.2] at k
    cases k
  · have a : (badTabs noGuard 8 ++ [iBadDrain]).all (fun i => let e := envOf (lab i)
        issuesB i (lab i) && deliverableB e .prot (e.lanes i &&& e.pres) && decide (e.accessHeld = false ∧
          e.flagFull noGuard = false ∧ (e.t.table 2).claimed = false)) = true := by decide +kernel
    have b := List.all_eq_true.mp a i hi
    simp only [Bool.and_eq_true, decide_eq_true_eq] at b
    exact ⟨issues_of b.1.1, b.2.1, b.2.2.1, deliverable_of b.1.2, b.2.2.2⟩
  · have a : (badTabs noGuard 97).all (fun i =>
        let s := tabState (lab i) { tableOf 0 0 with words := [BitVec.ofNat 32 (3 * 2 ^ 19 + 2 * 2 ^ 10 + 4 * 2 ^ 6), 0xC00, 0, 0, 0] } []
        let e := envOf s
        issuesB i s && deliverableB e .illreg (e.lanes i &&& e.pres) && decide (e.accessHeld = false ∧
          e.flagFull noGuard = false ∧ (e.t.table 2).claimed = true ∧ regOk e.l.vregs 97 (e.t.table 2).kw = false)) = true := by
      decide +kernel
    have b := List.all_eq_true.mp a i hi
    simp only [Bool.and_eq_true, decide_eq_true_eq] at b
    exact ⟨issues_of b.1.1, b.2.1, b.2.2.1, deliverable_of b.1.2, b.2.2.2⟩

/-- The keyed instructions, each with what `TableOperationsQueue` says of it. -/
def keyedInstrs (c : Ctl) : List (Instr × Nat × Bool × Option RegCode × Option PredCode × Option SrcB) :=
  [(.htins c 2 false 4 1 8 (.reg 9), 2, false, some 4, some 1, some (.reg 9)), (.htprobe c 2 4 1 8, 3, false, some 4, some 1, none),
   (.htdel c 2 4 8, 4, false, some 4, none, none), (.htacc c 2 true 8 (.lit 1), 5, true, none, none, some (.lit 1)),
   (.htaccRes c 2 false 4 8 (.reg 9), 8, false, some 4, none, some (.reg 9))]

def iHtstat : Instr := .htstat noGuard 2 4
def iHtdrain (dgl bgl : Bool) : Instr := .htdrain noGuard 2 dgl bgl 100 102 104

/-- HTDRAIN of 2 records to 0x3000, its barrier at 0x40. -/
def drainRegs : Store 32 := [(4, 0x3000), (6, 2), (8, 0x40)]

theorem witness_TableOperationsQueue :
    (∀ p ∈ keyedInstrs noGuard, let s := tabState (lab p.1) (tableOf 4 0) []
     let e := envOf s
     let t := e.t.table 2
     let bw := if t.vty = .fx64 ∧ p.2.2.1 = false then 32 else t.vw
     let dw := if p.2.1 = 4 then 32 else if t.vw = 32 then 64 else 128
     let regs := ((8 : RegCode), t.kw) :: (match p.2.2.2.2.2 with | some (.reg r) => [(r, bw)] | _ => []) ++
        (match p.2.2.2.1 with | some r => [(r, dw)] | none => [])
     e.flagFull noGuard = false ∧ e.accessHeld = false ∧ Quiet e ∧ Issues p.1 s e ∧ (∀ x ∈ regs, regOk e.l.vregs x.1 x.2 = true) ∧
      e.l.check = false ∧ e.l.det = false ∧ presentOf e p.1 ≠ [] ∧ t.claimed = true ∧ (s.core e.core).origins.length < 256) ∧
    (∀ p ∈ keyedInstrs noGuard, let s := tabState (lab p.1 [] [] 8) (tableOf 4 0) []
     let e := envOf s
     let t := e.t.table 2
     let bw := if t.vty = .fx64 ∧ p.2.2.1 = false then 32 else t.vw
     let dw := if p.2.1 = 4 then 32 else if t.vw = 32 then 64 else 128
     let srcs := ((8 : RegCode), t.kw) :: (match p.2.2.2.2.2 with | some (.reg r) => [(r, bw)] | _ => [])
     let dsts := match p.2.2.2.1 with | some r => [(r, dw)] | none => []
     e.l.check = true ∧ e.pendingAny (e.lanes p.1) srcs dsts = false ∧ e.accessHeld = false ∧ Quiet e ∧ Issues p.1 s e) ∧
    (∀ p ∈ keyedInstrs ⟨15, true, false⟩, Issues p.1 (lab p.1) (envOf (lab p.1)) ∧ presentOf (envOf (lab p.1)) p.1 = []) ∧
    Issues iHtstat (lab iHtstat) (envOf (lab iHtstat)) ∧
    (∀ gl, let i := iHtdrain gl (!gl)
     let s := tabState (lab i [] (if gl then drainRegs else [(4, 0x40), (6, 2), (8, 0x3000)])) (tableOf 4 0) []
     let e := envOf s
     let t := e.t.table 2
     let n := 16 + t.recBytes * (readReg e.g 0 102).toNat
     e.flagFull noGuard = false ∧ e.accessHeld = false ∧ Quiet e ∧ Issues i s e ∧ e.lanes i &&& e.pres ≠ 0 ∧ t.claimed = true ∧
      (s.core e.core).origins.length < 256 ∧
      (∀ va, e.object gl 100 = .glob va → checkSpan s e.core e.ctx e.inh .write noRegion 16 va n = none) ∧
      (∀ m off, e.object gl 100 = .pad m off → checkPadSpan s m 16 off n = none) ∧ e.objCheck (e.object (!gl) 104) 16 = none) ∧
    (let i := Instr.htdrain ⟨15, true, false⟩ 2 true false 100 102 104
     Issues i (lab i) (envOf (lab i)) ∧ (envOf (lab i)).lanes i &&& (envOf (lab i)).pres = 0) := by
  refine ⟨fun p hp => ?_, fun p hp => ?_, fun p hp => ?_, issues_of (by decide +kernel), fun gl => ?_, issues_of (by decide +kernel), by decide +kernel⟩
  rotate_left
  · simp only [keyedInstrs, List.mem_cons, List.not_mem_nil, or_false] at hp
    rcases hp with rfl | rfl | rfl | rfl | rfl <;>
      exact ⟨by decide +kernel, by decide +kernel, by decide +kernel, quiet_of (by decide +kernel), issues_of (by decide +kernel)⟩
  rotate_right
  · simp only [keyedInstrs, List.mem_cons, List.not_mem_nil, or_false] at hp
    rcases hp with rfl | rfl | rfl | rfl | rfl <;>
      exact ⟨by decide +kernel, by decide +kernel, quiet_of (by decide +kernel), issues_of (by decide +kernel), by decide +kernel,
        by decide +kernel, by decide +kernel, by decide +kernel, by decide +kernel, by decide +kernel⟩
  · simp only [keyedInstrs, List.mem_cons, List.not_mem_nil, or_false] at hp
    rcases hp with rfl | rfl | rfl | rfl | rfl <;> exact ⟨issues_of (by decide +kernel), by decide +kernel⟩
  · cases gl
    · exact ⟨by decide +kernel, by decide +kernel, quiet_of (by decide +kernel), issues_of (by decide +kernel), by decide +kernel,
        by decide +kernel, by decide +kernel, fun va h => (nomatch h), fun m off h => by cases h; decide +kernel, by decide +kernel⟩
    · exact ⟨by decide +kernel, by decide +kernel, quiet_of (by decide +kernel), issues_of (by decide +kernel), by decide +kernel,
        by decide +kernel, by decide +kernel, fun va h => by cases h; decide +kernel, fun m off h => (nomatch h), by decide +kernel⟩

/-- The scratchpad of a table: the slots of key 7's window hold the keys given, each with the value 5, and are empty from there
on. -/
def tabPad (ks : List Nat) : Store 8 :=
  let t := tableOf 0 0
  ((t.window 7).zip (ks ++ List.replicate 32 t.empty)).foldl (fun p x => writeBytes p x.1 (t.slotOf x.2 5)) []

/-- `n` other keys. -/
def others (n : Nat) : List Nat := (List.range n).map (fun i => 100 + i)

def tabFlight (fn : Nat) : Flight :=
  { gid := 2, team := 1, ctx := 0, core := 0, kind := .crucible, lanes := 15, args := [0]
    dst := if fn = 5 ∨ fn = 6 then none else some 4, width := if fn = 4 then 4 else if fn = 7 then 16 else 8
    pdst := if fn = 2 ∨ fn = 3 then some 1 else none }

/-- An operation of key `k` in three lanes at the head of core 0's queue. -/
def tabOpOf (fn k : Nat) : TabOp :=
  { flight := 3, gid := 2, team := 1, ctx := 0, tab := 2, fn, raw := false, lanes := [⟨0, k, 5⟩, ⟨1, k, 6⟩, ⟨3, k, 7⟩], origin := none
    dst := none, spans := [], capd := 0, bar := none, pages := [], refused := false, spill := [(⟨0x2000, devPlace 0x2000, 64⟩, 38)] }

def applyState (o : TabOp) (t : Table) (ks : List Nat) : State :=
  let s := tabState (flightState (tabFlight o.fn)) t (tabPad ks)
  s.setCore 0 { s.core 0 with crucible := [o] }

theorem firstIn_of {xs : List Nat} {P : Nat → Prop} {x : Nat} (n : Nat) (h : xs[n]? = some x) (k : P x)
    (m : ∀ y ∈ xs.take n, ¬ P y) : FirstIn xs P x :=
  ⟨n, h, k, fun j y hj hy => m y (List.mem_of_getElem? (i := j) (by rw [List.getElem?_take, if_pos hj]; exact hy))⟩

/-- The last slot of key 7's window. -/
def lastSlot : Nat := (windowOf (tableOf 0 0) 7).getD 31 0

/-- Each operation on a reserved key, on a key held, on one that finds the last slot of its window, and on one that finds none
with room to spill and without. -/
def scenes : List (Nat × Nat × Table × List Nat) :=
  [2, 3, 4, 5, 7, 8].flatMap (fun fn => [(fn, 0xFFFFFFFE, tableOf 4 0, []), (fn, 7, tableOf 4 0, others 31 ++ [7]),
    (fn, 7, tableOf 4 0, others 31), (fn, 7, tableOf 4 3, others 32), (fn, 7, tableOf 4 4, others 32)])

theorem witness_TableOperationsApply :
    (∀ x ∈ scenes, let o := tabOpOf x.1 x.2.1
     let s := applyState o x.2.2.1 x.2.2.2
     let f := tabFlight x.1
     (s.core 0).crucible = [o] ∧ aget? s.flights o.flight = some f ∧ f.gid = o.gid ∧ (aget? s.teams o.team).isSome = true ∧
      (∀ d, f.dst = some d → DstOk f d (f.vals.map Prod.fst ++ o.lanes.map TabLane.lane)) ∧
      (f.preds.map Prod.fst ++ o.lanes.map TabLane.lane).Nodup ∧ (s.team o.team).table o.tab = x.2.2.1 ∧ (s.team o.team).pad = tabPad x.2.2.2 ∧
      (∀ l ∈ o.lanes, l.key = x.2.1) ∧ o.lanes.head? = some ⟨0, x.2.1, 5⟩ ∧ o.origin = none) ∧
    ((tabFlight 7).pdst = none ∧ (tabFlight 7).preds = []) ∧
    ((tableOf 4 0).empty = 0xFFFFFFFF ∧ (tableOf 4 0).tomb = 0xFFFFFFFE) ∧
    (FirstIn (windowOf (tableOf 4 0) 7) (fun x => (tableOf 4 0).keyAt (tabPad (others 31 ++ [7])) x = 7) lastSlot ∧
      (7 ≠ (tableOf 4 0).empty ∧ 7 ≠ (tableOf 4 0).tomb)) ∧
    ((∀ x ∈ windowOf (tableOf 4 0) 7, (tableOf 4 0).keyAt (tabPad (others 31)) x ≠ 7) ∧
      FirstIn (windowOf (tableOf 4 0) 7) (fun x => (tableOf 4 0).keyAt (tabPad (others 31)) x = (tableOf 4 0).empty ∨
        (tableOf 4 0).keyAt (tabPad (others 31)) x = (tableOf 4 0).tomb) lastSlot) ∧
    ((∀ x ∈ windowOf (tableOf 4 3) 7, (tableOf 4 3).keyAt (tabPad (others 32)) x ≠ 7 ∧
        (tableOf 4 3).keyAt (tabPad (others 32)) x ≠ (tableOf 4 3).empty ∧ (tableOf 4 3).keyAt (tabPad (others 32)) x ≠ (tableOf 4 3).tomb) ∧
      (tableOf 4 3).spillcnt.toNat < (tableOf 4 3).cap ∧ (tableOf 4 4).cap ≤ (tableOf 4 4).spillcnt.toNat) ∧
    (let o := tabOpOf 5 7
     let s := applyState o (tableOf 4 3) (others 32)
     let va := (tableOf 4 3).spill + 16 * (tableOf 4 3).spillcnt.toNat
     o.spillAt s va = .inl (devPlace 0x2030) ∧ (aget? s.groups o.gid).isSome = true ∧
      ∀ c ∈ s.cores, aget? c.2.l1 (lineOf (devPlace 0x2030)) = none) := by
  refine ⟨fun x hx => ⟨?_, ?_, ?_, ?_, fun d hd => ?_, ?_, ?_, ?_, ?_, ?_, ?_⟩, by decide, by decide +kernel,
    ⟨firstIn_of 31 (by decide +kernel) (by decide +kernel) (by decide +kernel), by decide +kernel⟩,
    ⟨by decide +kernel, firstIn_of 31 (by decide +kernel) (by decide +kernel) (by decide +kernel)⟩,
    ⟨by decide +kernel, by decide +kernel⟩, by decide +kernel, by decide +kernel, by decide +kernel⟩
  case refine_5 =>
    have a : ∀ x ∈ scenes, x.1 = 5 ∨ (tabFlight x.1).dst = some 4 := by decide +kernel
    have b : ∀ x ∈ scenes, (tabFlight x.1).width ≤ 16 ∧ ((tabFlight x.1).vals.map Prod.fst ++ (tabOpOf x.1 x.2.1).lanes.map TabLane.lane).Nodup := by
      decide +kernel
    rcases a x hx with h | h
    · rw [h] at hd
      exact absurd hd (by simp [tabFlight])
    · rw [h] at hd
      cases hd
      refine ⟨fun _ => ?_, (b x hx).2⟩
      have := (b x hx).1
      simp only [show (4 : RegCode).toNat = 4 from rfl]
      omega
  all_goals revert x; decide +kernel

theorem padPlace_of {s : State} {m a n : Nat} (h : (aget? s.teams m).isSome = true ∧ (s.team m).padBad a n = false) :
    PlainPlace s (.pad m a) n := ⟨fun _ k => (nomatch k), fun _ _ k => by cases k; exact h⟩

theorem globPlace_of {s : State} {a n : Nat} (h : a % 256 + n ≤ 256 ∧ s.isPoisoned a = false ∧
    noRegion (regionHit s a) = true ∧
    ∀ c ∈ s.cores, aget? c.2.l1 (lineOf a) = none) : PlainPlace s (.glob a) n := ⟨fun _ k => by cases k; exact h, fun _ _ k => (nomatch k)⟩

/-- What `PlainPlace` asks, as a test. -/
def plainB (s : State) (p : Place) (n : Nat) : Bool :=
  match p with
  | .glob a => decide (a % 256 + n ≤ 256) && !s.isPoisoned a && noRegion (regionHit s a) && s.cores.all (fun c => (aget? c.2.l1 (lineOf a)).isNone)
  | .pad m a => (aget? s.teams m).isSome && !(s.team m).padBad a n

theorem plain_of {s : State} {p : Place} {n : Nat} (h : plainB s p n = true) : PlainPlace s p n := by
  cases p with
  | glob a =>
    simp only [plainB, Bool.and_eq_true, decide_eq_true_eq, Bool.not_eq_true', List.all_eq_true, Option.isNone_iff_eq_none] at h
    exact globPlace_of ⟨h.1.1.1, h.1.1.2, h.1.2, h.2⟩
  | pad m a =>
    simp only [plainB, Bool.and_eq_true, Bool.not_eq_true'] at h
    exact padPlace_of h

/-- A drain at the head of core 0's queue, its barrier just below its table, or in memory; one record is spilled. -/
def drainOp (bar : Place) : TabOp := { tabOpOf 6 0 with lanes := [], dst := some (.pad 1 0x40), capd := 1, bar := some bar }
def drainState (bar : Place) : State := applyState (drainOp bar) (tableOf 4 1) [7]

/-- A drain whose header and one record have still to land. -/
def landing (bar : Place) (one : Bool) : Drain :=
  ⟨2, 0, 3, none, bar, (.pad 1 0x40, toBytes (1 + 2 ^ 32) 16) :: (if one then [] else [(.glob (devPlace 0x30F8), toBytes 5 8)]), [], false, 0⟩
def landingState (d : Drain) : State :=
  let s := lab .fence
  s.setCore 0 { s.core 0 with drains := [(3, d)] }

/-- The last move of a drain whose origin entry counts one write, or two. -/
def landingOrigin (count : Nat) : State :=
  let s := landingState { landing (.pad 1 0x20) true with origin := some 7 }
  s.setCore 0 { s.core 0 with origins := [(7, ⟨0x1000, 0, 0, 1, 0, true, count⟩)] }

theorem witness_DrainsLand_origin : ∀ count ∈ [1, 2], let s := landingOrigin count
    let d := { landing (.pad 1 0x20) true with origin := some 7 }
    aget? (s.core 0).drains 3 = some d ∧ (∀ c ∈ s.cores, c.1 ≠ 0 → aget? c.2.drains 3 = none) ∧ d.refused = false ∧
      NothingWaits s ∧ d.moves.length = 1 ∧ aget? (s.core 0).origins 7 = some ⟨0x1000, 0, 0, 1, 0, true, count⟩ ∧
      ∃ bs, d.moves[0]? = some (.pad 1 0x40, bs) ∧ bs.length = 16 ∧ PlainPlace s (.pad 1 0x40) 16 ∧ PlainPlace s d.bar 16 ∧
      (Place.pad 1 0x40).meets 16 d.bar 16 = false := by
  intro count hc
  simp only [List.mem_cons, List.not_mem_nil, or_false] at hc
  rcases hc with rfl | rfl <;>
    exact ⟨by decide +kernel, by decide +kernel, rfl, nothingWaits_of (by decide +kernel) (by decide +kernel), by decide, by decide +kernel,
      _, rfl, by decide +kernel, plain_of (by decide +kernel), plain_of (by decide +kernel), by decide +kernel⟩

theorem witness_DrainsLand :
    (∀ bar ∈ [Place.pad 1 0xBF0, .glob (devPlace 0x3000)], let o := drainOp bar
     let s := drainState bar
     let f := tabFlight 6
     let t := (s.team o.team).table o.tab
     (s.core 0).crucible = [o] ∧ o.fn = 6 ∧ o.bar = some bar ∧ aget? s.flights o.flight = some f ∧ f.gid = o.gid ∧ f.dst = none ∧
      f.pdst = none ∧ f.preds = [] ∧ (aget? s.teams o.team).isSome = true ∧ NothingWaits s ∧
      (∀ j, j < t.spillcnt.toNat → o.spillAt s (t.spill + 16 * j) = .inl (devPlace (0x2000 + 16 * j)) ∧
        s.isPoisoned (devPlace (0x2000 + 16 * j)) = false ∧
        ∀ c ∈ s.cores, aget? c.2.l1 (lineOf (devPlace (0x2000 + 16 * j))) = none) ∧
      (∀ x ∈ t.slots, (s.team o.team).padBad x t.slotBytes = false) ∧
      (∀ a, bar = .glob a → NoPartials s (lineOf a)) ∧
      ∀ m a, bar = .pad m a → (aget? s.teams m).isSome = true ∧ (m = o.team → a + 16 ≤ t.base ∨ t.base + 64 * 2 ^ t.b ≤ a)) ∧
    (∀ x ∈ [(Place.pad 1 0x20, 0, Place.pad 1 0x40, 16, true), (.glob (devPlace 0x3000), 1, .glob (devPlace 0x30F8), 8, false)],
     let d := landing x.1 x.2.2.2.2
     let s := landingState d
     aget? (s.core 0).drains 3 = some d ∧ (∀ c ∈ s.cores, c.1 ≠ 0 → aget? c.2.drains 3 = none) ∧ d.refused = false ∧ NothingWaits s ∧
      ∃ bs, d.moves[x.2.1]? = some (x.2.2.1, bs) ∧ bs.length = x.2.2.2.1 ∧
      (∀ q m, (q, m) ∈ [(x.2.2.1, bs.length), (d.bar, 16)] → PlainPlace s q m) ∧ x.2.2.1.meets bs.length d.bar 16 = false) := by
  refine ⟨fun bar hb => ?_, fun x hx => ?_⟩
  · simp only [List.mem_cons, List.not_mem_nil, or_false] at hb
    rcases hb with rfl | rfl <;>
      exact ⟨by decide +kernel, rfl, rfl, by decide +kernel, rfl, by decide +kernel, by decide +kernel, by decide +kernel,
        by decide +kernel, nothingWaits_of (by decide +kernel) (by decide +kernel), by decide +kernel, by decide +kernel,
        fun a _ => noPartials_of (by decide +kernel), fun m a h => by cases h <;> decide +kernel⟩
  · simp only [List.mem_cons, List.not_mem_nil, or_false] at hx
    rcases hx with rfl | rfl
    · refine ⟨by decide +kernel, by decide +kernel, rfl,
        nothingWaits_of (by decide +kernel) (by decide +kernel), _, rfl, by decide +kernel, ?_, by decide +kernel⟩
      simp only [List.mem_cons, List.not_mem_nil, or_false, Prod.mk.injEq]
      rintro q m (⟨rfl, rfl⟩ | ⟨rfl, rfl⟩) <;> exact plain_of (by decide +kernel)
    · refine ⟨by decide +kernel, by decide +kernel, rfl,
        nothingWaits_of (by decide +kernel) (by decide +kernel), _, rfl, by decide +kernel, ?_, by decide +kernel⟩
      simp only [List.mem_cons, List.not_mem_nil, or_false, Prod.mk.injEq]
      rintro q m (⟨rfl, rfl⟩ | ⟨rfl, rfl⟩) <;> exact plain_of (by decide +kernel)

/-! ## States that meet the statements' hypotheses: copies -/

/-- A DENSE descriptor of `ty` elements: space, base, extents and the stride of its second dimension. -/
def denseDesc (ty space base d0 d1 d2 stride : Nat) : List Byte :=
  let rank := if d2 ≠ 0 then 2 else if d1 ≠ 0 then 1 else 0
  [ty * 2 ^ 10 + space * 2 ^ 15 + rank * 2 ^ 16, 0, base, 0, d0, d1, d2, 0, stride, d1 * stride].flatMap (fun w => toBytes w 4) ++
    List.replicate 24 0

def withTeam (s : State) (f : Team → Team) : State := s.setTeam 1 (f (s.team 1))

/-- Slots 5 and 6 hold handles at generations 7 and 0xFFF; a token of each. -/
def handled (s : State) (a b : List Byte) : State :=
  withTeam s (fun t => { t with handles := [(5, ⟨true, 7, a⟩), (6, ⟨true, 0xFFF, b⟩)] })
def tok5 : Word := 0x10075
def tok6 : Word := 0x1FFF6

theorem token_of {t : Team} {tok : Word} {slot : Nat} {desc : List Byte} (h : slot = tok.toNat % 16 ∧
    tok.toNat / 2 ^ 16 = t.check.toNat ∧ (t.handle slot).valid = true ∧ tok.toNat / 16 % 2 ^ 12 = (t.handle slot).gen.toNat ∧
    (t.handle slot).desc = desc) : TokenNames t tok slot desc := h

def pad32 : List Byte := denseDesc 3 1 0x40 4 2 0 16
def glob32 : List Byte := denseDesc 3 0 0x2000 4 2 0 16

/-- A copy of a team's slots 5 and 6 by `fn` in core 0, some moves left. -/
def copyOf (fn : Nat) (bar : Place) (moves : List Move) : SwageCmd :=
  { flight := 1, gid := 2, team := 1, ctx := 0, core := 0, fn, w0 := 0, w2 := 0, pc := 0x1000, flag := none, origin := none
    snapD := pad32, snapS := glob32, slotD := 5, slotS := 6, index := [0], bar := .pad 1 0x80, pbar := bar, slotBars := []
    permit := none, waiting := false, accepted := false, total := 32, alts := [], moves, rptr := [], cidx := [], val := [], pages := []
    refused := false }

/-- A move of one word from memory to the scratchpad. -/
def moveOf : Move := ⟨[⟨.pad 1 0x40, .at (.glob (devPlace 0x2000)), 4, none, false⟩], 4, false⟩

def iThset : Instr := .thset noGuard 5 108 100
def iThget : Instr := .thget noGuard 4 100
def iThdrop : Instr := .thdrop noGuard 100
def iRevoke : Instr := .thdropRevoke noGuard 100

/-- THSET of the last 64 bytes of the scratchpad. -/
def thsetState (bs : List Byte) : State := withTeam (lab iThset [] [(4, 0xFC0)]) (fun t => { t with pad := writeBytes [] 0xFC0 bs })

/-- THDROP.REVOKE of slot 6, which two copies and a waiting MMA use; a third copy does not. -/
def revokeState : State :=
  let s := { handled (lab iRevoke [] [(4, tok6)]) pad32 glob32 with
    hallmarks := [(lineOf (devPlace 0x3000), { lv := true, lcore := 5 })] }
  let s := s.setCore 0 { s.core 0 with
    swageQueue := [copyOf 3 (.pad 1 0x80) [moveOf], { copyOf 3 (.glob (devPlace 0x3000)) [moveOf] with flight := 2 }]
    swage := [(0, { copyOf 3 (.pad 1 0x80) [moveOf] with flight := 0, slotS := 5 })] }
  s.setCluster 0 { s.cluster 0 with table := [
    { id := 0, flight := 0, gid := 2, team := 1, ctx := 0, core := 0, kind := .mma, tile := 0, slotA := 6, slotB := 5 },
    { id := 1, flight := 1, gid := 2, team := 1, ctx := 0, core := 0, kind := .mma, tile := 1, slotA := 5, slotB := 5 }] }

theorem witness_HandlesAreInstalledAndDropped :
    (∀ i ∈ [Instr.thset ⟨15, true, false⟩ 5 108 100, .thget ⟨15, true, false⟩ 4 100, .thdrop ⟨15, true, false⟩ 100,
        .thdropRevoke ⟨15, true, false⟩ 100],
      (envOf (lab i)).flagFull noGuard = false ∧ Issues i (lab i) (envOf (lab i)) ∧ (envOf (lab i)).lanes i &&& (envOf (lab i)).pres = 0) ∧
    (∀ bs ∈ [pad32, []], let s := thsetState bs
     let e := envOf s
     let x := readReg e.g 0 100
     Issues iThset s e ∧ e.lanes iThset &&& e.pres ≠ 0 ∧ e.accessHeld = false ∧ x.toNat % 64 = 0 ∧ x.toNat + 64 ≤ e.l.padBytes ∧
      e.t.claims x.toNat 64 = false ∧ lineBusy s e.gid (.pad e.g.team 0) = false ∧
      (wellDesc (readBytes e.t.pad x.toNat 64) = true ↔ bs = pad32)) ∧
    (let e := envOf (lab iThget [] [(4, tok5)])
     Issues iThget (lab iThget [] [(4, tok5)]) e ∧ e.lanes iThget &&& e.pres ≠ 0 ∧ e.accessHeld = false) ∧
    (let s := handled (lab iThdrop [] [(4, tok5)]) pad32 glob32
     let e := envOf s
     TokenNames e.t (readReg e.g 0 100) 5 pad32 ∧ e.accessHeld = false ∧ Issues iThdrop s e ∧ e.lanes iThdrop &&& e.pres ≠ 0) ∧
    (let s := revokeState
     let e := envOf s
     let uses := fun (y : SwageCmd) => decide (y.team = e.g.team ∧ (y.slotD = 6 ∨ y.slotS = 6))
     let reqs := fun (r : Request) => decide (r.team = e.g.team ∧ (r.slotA = 6 ∨ r.slotB = 6))
     let bars := revokedBars s e.core e.g.team 6
     TokenNames e.t (readReg e.g 0 100) 6 glob32 ∧ e.accessHeld = false ∧ Issues iRevoke s e ∧ e.lanes iRevoke &&& e.pres ≠ 0 ∧
      NothingWaits s ∧ bars.map Prod.fst = [.pad 1 0x80, .glob (devPlace 0x3000)] ∧
      (s.hallmark (lineOf (devPlace 0x3000))).lcore ≠ e.core ∧
      (∀ b ∈ bars, lineBusy s e.gid b.1 = false ∧ PlainPlace s b.1 16 ∧ ∀ b' ∈ bars, b'.1 ≠ b.1 → b.1.meets 16 b'.1 16 = false) ∧
      (∀ y y', y ∈ (s.core e.core).commands → y' ∈ (s.core e.core).commands → uses y = true → y.core = e.core ∧
         (y'.flight = y.flight → uses y' = true)) ∧ ((s.cluster (e.core / 4)).table.map (fun r => r.id)).Nodup ∧
      ∀ r ∈ (s.cluster (e.core / 4)).table, reqs r = true → r.revokers = [] ∧ r.suspended = false ∧ r.flight < s.nextId) := by
  refine ⟨fun i hi => ⟨?_, issues_all (f := lab) (by decide +kernel) i hi, ?_⟩, fun bs hb => ?_, ⟨issues_of (by decide +kernel), by decide +kernel⟩,
    ⟨token_of (by decide +kernel), by decide +kernel, issues_of (by decide +kernel), by decide +kernel⟩,
    token_of (by decide +kernel), by decide +kernel, issues_of (by decide +kernel), by decide +kernel,
    ⟨by decide +kernel, by decide +kernel⟩, by decide +kernel, by decide +kernel, fun b hb => ?_, fun y y' hy hy' => ?_, by decide +kernel,
    by decide +kernel⟩
  · revert i; decide +kernel
  · revert i; decide +kernel
  · simp only [List.mem_cons, List.not_mem_nil, or_false] at hb
    rcases hb with rfl | rfl <;>
      exact ⟨issues_of (by decide +kernel), by decide +kernel⟩
  · have a : ∀ b ∈ revokedBars revokeState (envOf revokeState).core (envOf revokeState).g.team 6,
        (lineBusy revokeState (envOf revokeState).gid b.1 = false ∧ plainB revokeState b.1 16 = true) ∧
        ∀ b' ∈ revokedBars revokeState (envOf revokeState).core (envOf revokeState).g.team 6, b'.1 ≠ b.1 → b.1.meets 16 b'.1 16 = false := by
      decide +kernel
    exact ⟨(a b hb).1.1, plain_of (a b hb).1.2, (a b hb).2⟩
  · have a : ∀ y ∈ (revokeState.core (envOf revokeState).core).commands, ∀ y' ∈ (revokeState.core (envOf revokeState).core).commands,
      decide (y.team = (envOf revokeState).g.team ∧ (y.slotD = 6 ∨ y.slotS = 6)) = true → y.core = (envOf revokeState).core ∧
         (y'.flight = y.flight → decide (y'.team = (envOf revokeState).g.team ∧ (y'.slotD = 6 ∨ y'.slotS = 6)) = true) := by decide +kernel
    exact a y hy y' hy'

/-- Copy instructions: what each copies to and from, its index word, and whether its barrier stands in memory. -/
def copies : List (Instr × Nat × Bool × List Byte × List Byte × Nat × Bool) :=
  let ring := denseDesc 3 1 0x40 4 2 2 16
  let two := 2 * 2 ^ 20 + 0xFF8
  [(.cpy noGuard false 100 102 104, 3, false, pad32, glob32, 0, false), (.cpy noGuard true 100 102 104, 3, false, glob32, pad32, 0, true),
   (.cpyg noGuard false 100 102 104, 4, false, pad32, glob32, two, false), (.cpys noGuard false 100 102 104, 5, false, glob32, pad32, two, false),
   (.cpysRadd noGuard false 100 102 104, 5, true, pad32, pad32, two, false),
   (.cpyr noGuard false 100 102 104, 6, false, ring, glob32, two, false), (.cpyr noGuard false 100 102 104, 6, false, ring, glob32, 0, false)]

/-- Its barrier or ring (of two slots) at 0x100 of the scratchpad, or at 0x3000. -/
def copyState (x : Instr × Nat × Bool × List Byte × List Byte × Nat × Bool) : State :=
  let (i, fn, _, d, src, iw, gl) := x
  let s := handled (lab i [] [(4, tok5), (5, if fn = 5 then BitVec.ofNat 32 iw else 0), (6, tok6), (7, BitVec.ofNat 32 iw),
    (8, if gl then 0x3000 else 0x100)]) d src
  withTeam s (fun t => { t with pad := [(0x100, 2)] })

def copyPlace (gl : Bool) : Place := if gl then .glob (devPlace 0x3000) else .pad 1 0x100

theorem witness_CopiesAreIssuedAndCover :
    (dType glob32 ≠ 2 ∧ dType (toBytes 2 64) = 2 ∧ dRank (denseDesc 3 1 0x40 4 2 2 16) = 3) ∧
    (∀ x ∈ copies, let i := x.1
     let fn := x.2.1
     let radd := x.2.2.1
     let d := x.2.2.2.1
     let src := x.2.2.2.2.1
     let bgl := x.2.2.2.2.2.2
     let pa := copyPlace bgl
     let s := copyState x
     let e := envOf s
     let p := e.object bgl 104
     let iw := if fn = 3 then 0 else (readReg e.g 0 ((if fn = 5 then (100 : RegCode) else 102).toNat + 1)).toNat
     let count := iw / 2 ^ 20
     let off := iw % 2 ^ 20
     let nslot := if fn = 6 then ofBytes (bytesAt s pa 16) % 2 ^ 11 else 0
     let gathers := fn = 4 ∨ fn = 5 ∨ (fn = 6 ∧ count ≠ 0)
     let index := if gathers then (List.range count).map (fun j =>
       (BitVec.ofNat 32 (ofBytes (readBytes e.t.pad (off + 4 * j) 4)) : Word)) else []
     let plan := copyPlan s e.core e.ctx e.g.team e.inh fn radd d src (index.map BitVec.toNat) (decide gathers) nslot
     (i, fn, radd) ∈ [(Instr.cpy noGuard bgl 100 102 104, 3, false), (.cpyg noGuard bgl 100 102 104, 4, false),
        (.cpys noGuard bgl 100 102 104, 5, false), (.cpysRadd noGuard bgl 100 102 104, 5, true), (.cpyr noGuard bgl 100 102 104, 6, false)] ∧
      Issues i s e ∧ e.flagFull noGuard = false ∧
      e.lanes i &&& e.pres ≠ 0 ∧ e.accessHeld = false ∧ TokenNames e.t (readReg e.g 0 100) 5 d ∧
      TokenNames e.t (readReg e.g 0 102) 6 src ∧ lineBusy s e.gid (.pad e.g.team 0) = false ∧
      (s.core e.core).origins.length < 256 ∧ Quiet e ∧ e.phys p = pa ∧ PlainPlace s pa 16 ∧
      e.objCheck p 16 = none ∧ e.objCheck p (16 + 16 * nslot) = none ∧
      (gathers → off % 4 = 0 ∧ (count ≠ 0 → off + 4 * count ≤ e.l.padBytes ∧ e.t.claims off (4 * count) = false)) ∧
      plan.trap = none ∧ (fn = 6 → nslot = 2)) ∧
    (let i := Instr.cpy ⟨15, true, false⟩ false 100 102 104
     Issues i (lab i) (envOf (lab i)) ∧ (envOf (lab i)).lanes i &&& (envOf (lab i)).pres = 0) := by
  refine ⟨by decide +kernel, fun x hx => ?_, issues_of (by decide +kernel), by decide +kernel⟩
  simp only [copies, List.mem_cons, List.not_mem_nil, or_false] at hx
  have a : ∀ p ∈ copies, p.1 = p.1 := fun _ _ => rfl
  rcases hx with rfl | rfl | rfl | rfl | rfl | rfl | rfl <;>
    refine ⟨by decide +kernel, issues_of (by decide +kernel), by decide +kernel, by decide +kernel, by decide +kernel,
      token_of (by decide +kernel), token_of (by decide +kernel), by decide +kernel, by decide +kernel, quiet_of (by decide +kernel),
      by decide +kernel, ?_, by decide +kernel⟩ <;>
    first | exact padPlace_of (by decide +kernel) | exact globPlace_of (by decide +kernel)

/-- Core 0 with copies issued, and in its slots. -/
def swageState (queue : List SwageCmd) (slots : AList SwageCmd) (pad : Store 8) (flights : AList Flight) : State :=
  let s := withTeam { lab .fence with flights } (fun t => { t with pad })
  s.setCore 0 { s.core 0 with swageQueue := queue, swage := slots }

def swageFlight : Flight := { gid := 2, team := 1, ctx := 0, core := 0, kind := .swage }

/-- A CPYR that waits for a permit of a ring of two slots at 0x100, and one whose last move is left to land. -/
def ringCopy : SwageCmd :=
  { copyOf 6 (.pad 1 0x100) [] with waiting := true, alts := [[moveOf], [moveOf]], slotBars := [.pad 1 0x110, .pad 1 0x120] }
def permitted : SwageCmd := { ringCopy with waiting := false, alts := [], moves := [moveOf], permit := some 0xFFFFFFFF }
/-- A ring whose PUT is past its GIVE by `n`, across the wrap. -/
def ringPad (n : Nat) : Store 8 := writeBytes [] 0x100 (toBytes (2 + (2 ^ 32 - 2 + n) % 2 ^ 32 * 2 ^ 64 + (2 ^ 32 - 2) * 2 ^ 96) 16)

/-- A scatter that adds a word of the scratchpad to one of memory. -/
def raddMove : Move := ⟨[⟨.glob (devPlace 0x2000), .at (.pad 1 0x40), 4, none, false⟩], 4, false⟩
def raddCopy : SwageCmd := { copyOf 5 (.pad 1 0x80) [raddMove] with w2 := 2 }
/-- The same on an AGG page; one of two rows of a scatter in the scratchpad. -/
def raddAgg : SwageCmd := { raddCopy with moves := [⟨[⟨.glob (devPlace 0x2000), .at (.pad 1 0x40), 4, none, true⟩], 4, false⟩] }
def raddRow : Move := ⟨[⟨.pad 1 0x60, .at (.pad 1 0x40), 4, none, false⟩], 4, false⟩
def raddRows : SwageCmd := { copyOf 5 (.pad 1 0x80) [raddRow, raddRow] with w2 := 2 }
def landedMove : Move := { moveOf with landed := true }

/-- A permit refused; moves held: of a refused command, behind a write of the group, behind an earlier row of a scatter. -/
theorem witness_CopiesLand_held :
    (let x := { ringCopy with refused := true }
     let s := swageState [] [(5, x)] (ringPad 1) []
     let v := ofBytes (bytesAt s x.pbar 16)
     let bar := x.slotBars.getD (v / 2 ^ 64 % 2 ^ 32 % (v % 2 ^ 11)) x.pbar
     aget? (s.core 0).swage 5 = some x ∧ x.waiting = true ∧ x.refused = true ∧
      (∀ y ∈ (s.core 0).swage, y.2.waiting = true → y.2.pbar = x.pbar → x.flight ≤ y.2.flight) ∧ PlainPlace s x.pbar 16 ∧
      NothingWaits s ∧ x.alts.length = v % 2 ^ 11 ∧ x.slotBars.length = v % 2 ^ 11 ∧ v % 2 ^ 11 ≠ 0 ∧ PlainPlace s bar 16 ∧
      bar.meets 16 x.pbar 16 = false) ∧
    (let x := { copyOf 3 (.pad 1 0x80) [moveOf] with refused := true }
     aget? ((swageState [] [(5, x)] [] []).core 0).swage 5 = some x ∧ x.moves[0]? = some moveOf ∧ x.waiting = false ∧ x.refused = true) ∧
    (let x := { copyOf 3 (.pad 1 0x80) [moveOf] with flight := 9 }
     let s := swageState [] [(5, x)] [] [(3, throughFlight (.glob (devPlace 0x5000)))]
     aget? (s.core 0).swage 5 = some x ∧ x.moves[0]? = some moveOf ∧ x.waiting = false ∧ writesOpen s x.gid x.flight = true) ∧
    (let x := raddRows
     aget? ((swageState [] [(5, x)] [] []).core 0).swage 5 = some x ∧ x.moves[1]? = some raddRow ∧ x.waiting = false ∧
      (x.fn = 5 ∧ x.w2.getLsbD 1 = true) ∧ dSpace x.snapD = 1 ∧ raddRow.landed = false ∧
      ∃ k y, k < 1 ∧ x.moves[k]? = some y ∧ y.landed = false) :=
  ⟨⟨by decide +kernel, rfl, rfl, by decide +kernel, padPlace_of (by decide +kernel),
      nothingWaits_of (by decide +kernel) (by decide +kernel), by decide +kernel, by decide +kernel, by decide +kernel,
      padPlace_of (by decide +kernel), by decide +kernel⟩, by decide +kernel, by decide +kernel,
   by decide +kernel, rfl, rfl, by decide, by decide, rfl, 0, raddRow, by decide, rfl, rfl⟩

theorem witness_CopiesLand :
    (∀ moves ∈ [[moveOf], []], let x := copyOf 3 (.pad 1 0x80) moves
     let s := swageState [x] [(0, { x with flight := 7 })] [] [(1, swageFlight)]
     (s.core 0).swageQueue = [x] ∧ x.core = 0 ∧ aget? s.flights x.flight = some swageFlight ∧ aget? (s.core 0).swage 1 = none ∧
      (∀ m, m < 1 → (aget? (s.core 0).swage m).isSome = true) ∧ (∀ y ∈ (s.core 0).swage, y.2.flight ≠ x.flight) ∧
      (s.core 0).origins.length < 256) ∧
    (∀ n ∈ [1, 2], let x := ringCopy
     let s := swageState [] [(5, x)] (ringPad n) []
     let v := ofBytes (bytesAt s x.pbar 16)
     let put := v / 2 ^ 64 % 2 ^ 32
     let give := v / 2 ^ 96 % 2 ^ 32
     let nslot := v % 2 ^ 11
     let bar := x.slotBars.getD (put % nslot) x.pbar
     aget? (s.core 0).swage 5 = some x ∧ x.waiting = true ∧
      (∀ y ∈ (s.core 0).swage, y.2.waiting = true → y.2.pbar = x.pbar → x.flight ≤ y.2.flight) ∧ PlainPlace s x.pbar 16 ∧
      NothingWaits s ∧ x.alts.length = nslot ∧ x.slotBars.length = nslot ∧ nslot ≠ 0 ∧ PlainPlace s bar 16 ∧
      bar.meets 16 x.pbar 16 = false ∧ ((put + 2 ^ 32 - give) % 2 ^ 32 < nslot ↔ n = 1)) ∧
    (∀ x ∈ [copyOf 3 (.glob (devPlace 0x3000)) [moveOf, moveOf], permitted, raddCopy, raddAgg],
     let s := swageState [] [(5, x)] [] []
     let radd := x.fn = 5 ∧ x.w2.getLsbD 1 = true
     ∃ mv, aget? (s.core 0).swage 5 = some x ∧ x.core = 0 ∧ x.moves[0]? = some mv ∧ x.waiting = false ∧ x.refused = false ∧
      writesOpen s x.gid x.flight = false ∧ mv.landed = false ∧
      (∀ u ∈ mv.units, PlainPlace s u.dst u.n ∧ 0 < u.n ∧ (u.half.isSome = true → u.n = 1) ∧
        ∀ y ∈ readsOf s x u, PlainPlace s y.1 y.2 ∧ (radd → y.1.global = false) ∧
          ∀ u' ∈ mv.units, u'.dst.meets u'.n y.1 y.2 = false) ∧
      mv.units.Pairwise (fun (u u' : CopyUnit) => u.dst.meets u.n u'.dst u'.n = false) ∧
      HasRoom s 0 mv.units.length ∧ (radd ↔ x = raddCopy ∨ x = raddAgg) ∧
      ∀ u ∈ mv.units, radd → u.agg = true → u.n = (dTy x.snapD).width / 8) ∧
    (∀ x ∈ [copyOf 3 (.glob (devPlace 0x3000)) [landedMove, moveOf], { permitted with moves := [landedMove] }],
     let s := swageState [] [(5, x)] [] []
     aget? (s.core 0).swage 5 = some x ∧ x.core = 0 ∧ x.moves[0]? = some landedMove ∧ x.waiting = false ∧ x.refused = false ∧
      writesOpen s x.gid x.flight = false ∧ NothingWaits s ∧ aget? s.flights x.flight = none ∧
      ((s.core 0).swage.map Prod.fst).Nodup ∧ (∀ y ∈ (s.core 0).swage, y.1 ≠ 5 → y.2.flight ≠ x.flight) ∧
      PlainPlace s x.credits 16) := by
  refine ⟨fun m hm => ?_, fun n hn => ?_, fun x hx => ?_, fun x hx => ?_⟩
  · revert m; decide +kernel
  · simp only [List.mem_cons, List.not_mem_nil, or_false] at hn
    rcases hn with rfl | rfl <;>
      exact ⟨by decide +kernel, rfl, by decide +kernel, padPlace_of (by decide +kernel),
        nothingWaits_of (by decide +kernel) (by decide +kernel), by decide +kernel, by decide +kernel, by decide +kernel,
        padPlace_of (by decide +kernel), by decide +kernel, by decide +kernel⟩
  · have a : ∀ x ∈ [copyOf 3 (.glob (devPlace 0x3000)) [moveOf, moveOf], permitted, raddCopy, raddAgg],
        let s := swageState [] [(5, x)] [] []
        ∀ mv ∈ x.moves, ∀ u ∈ mv.units, (plainB s u.dst u.n = true ∧ 0 < u.n ∧ (u.half.isSome = true → u.n = 1)) ∧
          ∀ y ∈ readsOf s x u, plainB s y.1 y.2 = true ∧ (x.fn = 5 ∧ x.w2.getLsbD 1 = true → y.1.global = false) ∧
            ∀ u' ∈ mv.units, u'.dst.meets u'.n y.1 y.2 = false := by decide +kernel
    have b := a x hx
    simp only [List.mem_cons, List.not_mem_nil, or_false] at hx
    rcases hx with rfl | rfl | rfl | rfl
    all_goals
      exact ⟨_, by decide +kernel, by decide, rfl, by decide, by decide, by decide +kernel, by decide,
        fun u hu => ⟨plain_of (b _ (by decide) u hu).1.1, (b _ (by decide) u hu).1.2.1, (b _ (by decide) u hu).1.2.2,
          fun y hy => ⟨plain_of ((b _ (by decide) u hu).2 y hy).1, ((b _ (by decide) u hu).2 y hy).2⟩⟩,
        by decide +kernel, room_of (by decide +kernel), by decide +kernel, by decide⟩
  · simp only [List.mem_cons, List.not_mem_nil, or_false] at hx
    rcases hx with rfl | rfl <;>
      exact ⟨by decide +kernel, by decide, by decide +kernel, by decide, by decide, by decide +kernel,
        nothingWaits_of (by decide +kernel) (by decide +kernel), by decide +kernel, by decide +kernel, by decide +kernel,
        plain_of (by decide +kernel)⟩

/-! ## States that meet the statements' hypotheses: the Anvil -/

/-- Tile 0 is mapped, tile 7 is not; a mask and a second register. -/
def tileLab (i : Instr) (mask arg : Word) (mapped : Bool) : State :=
  withTeam (lab i [] [(4, mask), (5, arg)]) (fun t => { t with tiles := if mapped then [(0, { mapped := true, prio := 1 })] else [] })

def iMrsv : Instr := .mrsv noGuard true 1 100 101
def iMrel : Instr := .mrel noGuard 100 101
def iMpri : Instr := .mpri noGuard 100 101
def iMzero : Instr := .mzero noGuard 100

/-- A request on tile 0, the one that runs if `runs`. -/
def mrelState (runs : Bool) : State :=
  let s := tileLab iMrel 0x81 0xFF true
  s.setCluster 0 { s.cluster 0 with
    table := [{ id := 1, flight := 1, gid := 2, team := 1, ctx := 0, core := 0, kind := .mzero, tile := 0 }]
    running := if runs then some ⟨1, 5, none⟩ else none }

/-- MZERO of tiles 0 and 7, `n` requests of its core in the table. -/
def mzeroState (n : Nat) : State :=
  let s := withTeam (tileLab iMzero 0x81 0 true) (fun t => { t with tiles := [(0, { mapped := true }), (7, { mapped := true })] })
  s.setCluster 0 { s.cluster 0 with
    table := (List.range n).map (fun k => { id := k, flight := k, gid := 2, team := 1, ctx := 0, core := 0, kind := .mmat, tile := 0 }) }

theorem named_of {N M Q : Nat → Prop} {R B : Prop} (h : ((∃ n, N n ∧ M n) ∧ (∀ n, N n → M n → Q n) ∧ R) ↔ B) :
    ((∃ n, N n ∧ M n) ∧ (∀ n, N n ∧ M n → Q n) ∧ R) ↔ B := by
  simpa only [and_imp] using h

theorem witness_TilesAreMappedAndReleased :
    (∀ i ∈ [Instr.mrsv ⟨15, true, false⟩ true 1 100 101, .mrel ⟨15, true, false⟩ 100 101, .mpri ⟨15, true, false⟩ 100 101,
        .mzero ⟨15, true, false⟩ 100],
      (aget? (lab i).teams (envOf (lab i)).g.team).isSome = true ∧ Issues i (lab i) (envOf (lab i)) ∧
        (envOf (lab i)).lanes i &&& (envOf (lab i)).pres = 0) ∧
    (∀ x ∈ [((0x181 : Word), false, true), (0x81, true, false), (0, false, false), (0xFFFFFF00, false, false)],
     let s := tileLab iMrsv x.1 7 x.2.1
     let e := envOf s
     let mask := readReg e.g 0 100
     let named := fun (n : Nat) => n < 8 ∧ mask.getLsbD n = true
     (aget? s.teams e.g.team).isSome = true ∧ Issues iMrsv s e ∧ e.lanes iMrsv &&& e.pres ≠ 0 ∧
      (((∃ n, named n) ∧ (∀ n, named n → (e.t.tile n).mapped = false) ∧
        ((List.range 8).filter mask.getLsbD).length * 2 ≤ openTiles s (e.core / 4)) ↔ x.2.2 = true)) ∧
    (∀ runs, let s := mrelState runs
     let e := envOf s
     let ts := mappedOf e.t (readReg e.g 0 100)
     Issues iMrel s e ∧ e.lanes iMrel &&& e.pres ≠ 0 ∧ ((s.cluster (e.core / 4)).table.map (fun r => r.id)).Nodup ∧ ts = [0] ∧
      ∀ r ∈ (s.cluster (e.core / 4)).table, r.team = e.g.team → r.tile ∈ ts → (readReg e.g 0 101).getLsbD r.tile = true ∧
        r.revokers = [] ∧ (s.cluster (e.core / 4)).detached r = false) ∧
    (let s := tileLab iMpri 0x81 0xF true
     Issues iMpri s (envOf s) ∧ (envOf s).lanes iMpri &&& (envOf s).pres ≠ 0) ∧
    (∀ n ∈ [0, 14, 15, 16], let s := mzeroState n
     let e := envOf s
     let left := (mappedOf e.t (readReg e.g 0 100)).filter (fun n => !e.is.entered.contains n)
     let room := min (16 - ((s.cluster (e.core / 4)).table.filter (fun r => r.core == e.core)).length)
       (match e.is.flag noGuard.fs with | some f => 63 - (Store.get e.g.flags f).toNat | none => 16)
     Issues iMzero s e ∧ e.lanes iMzero &&& e.pres ≠ 0 ∧ Quiet e ∧ e.accessHeld = false ∧ left = [0, 7] ∧ room = 16 - n) := by
  refine ⟨fun i hi => ⟨?_, issues_all (f := lab) (by decide +kernel) i hi, ?_⟩, fun x hx => ?_, fun runs => ?_,
    ⟨issues_of (by decide +kernel), by decide +kernel⟩, fun n hn => ⟨issues_of (by revert n; decide +kernel), by revert n; decide +kernel,
      quiet_of (by revert n; decide +kernel), by revert n; decide +kernel⟩⟩
  · revert i; decide +kernel
  · revert i; decide +kernel
  · simp only [List.mem_cons, List.not_mem_nil, or_false] at hx
    rcases hx with rfl | rfl | rfl | rfl <;>
      exact ⟨by decide +kernel, issues_of (by decide +kernel), by decide +kernel, named_of (by decide +kernel)⟩
  · cases runs <;> exact ⟨issues_of (by decide +kernel), by decide +kernel⟩

/-- A multiplication of two I16 operands, 2 rows in the scratchpad and 2 columns in memory, over 64 K indices. -/
def matA : List Byte := denseDesc 2 1 0x40 64 2 0 128
def matB (space : Nat) : List Byte := denseDesc 2 space 0x2000 64 2 0 128
/-- Registers: tokens in S4 and S6, the record in S16 on; its trigger at 0x100 waits for phase `ph`. -/
def mmaRegs (ph : Word) : Store 32 := [(4, tok5), (6, tok6), (18, 32), (19, 64), (20, 0x100), (22, ph)]
def mmaState (i : Instr) (ph : Word) (obj : List Byte) : State :=
  withTeam (handled (lab i [] (mmaRegs ph)) matA (matB 0)) (fun t => { t with
    tiles := [(3, { mapped := true })], pad := writeBytes [] 0x100 obj })

def iMma : Instr := .mma noGuard 3 100 102 112
def iMmat : Instr := .mmat noGuard 3 false 100 102 112
def iMld : Instr := .mld noGuard 3 1 100 104 108
def iMst : Instr := .mst noGuard 3 1 102 104 108

/-- Objects whose phase is 5: one completed with an error, one without. -/
def objOf (err : Bool) : List Byte := barBytes ⟨5, 1, err, 0, 0, 0⟩

theorem witness_RequestsAreEntered :
    (∀ i ∈ [Instr.mma ⟨15, true, false⟩ 3 100 102 112, .mmat ⟨15, true, false⟩ 3 false 100 102 112, .mld ⟨15, true, false⟩ 3 1 100 104 108,
        .mst ⟨15, true, false⟩ 3 1 100 104 108],
      Issues i (lab i) (envOf (lab i)) ∧ (envOf (lab i)).lanes i &&& (envOf (lab i)).pres = 0) ∧
    (∀ x ∈ [(iMma, (0 : Word), false, false), (iMmat, 5, false, false), (iMmat, 3, true, false), (iMmat, 4, false, false), (iMmat, 4, true, true)],
     let s := mmaState x.1 x.2.1 (objOf x.2.2.1)
     let e := envOf s
     let tl := e.t.tile 3
     let w := fun (n : Nat) => (readReg e.g 0 (112 + n)).toNat
     let trig : Place := .pad e.g.team (w 4)
     let o := parseBar (bytesAt s (e.phys trig) 16)
     Issues x.1 s e ∧ e.lanes x.1 &&& e.pres ≠ 0 ∧ tl.mapped = true ∧ TokenNames e.t (readReg e.g 0 100) 5 matA ∧
      TokenNames e.t (readReg e.g 0 102) 6 (matB 0) ∧ (mmaAcc matA (matB 0) tl.wide).isSome = true ∧
      w 2 % (passRate matA (matB 0)).1 = 0 ∧ operandCheck s e.g.team matA (w 0) (w 2) (w 3) = none ∧
      (dSpace (matB 0) = 1 → operandCheck s e.g.team (matB 0) (w 1) (w 2) (w 3) = none) ∧ Quiet e ∧ e.anvilHeld noGuard = false ∧
      e.objCheck trig 16 = none ∧ e.phys trig = .pad 1 0x100 ∧ PlainPlace s (.pad 1 0x100) 16 ∧ (aget? s.teams e.g.team).isSome = true ∧
      (x.1 = iMmat → (Passed o.phase (w 6) ↔ x.2.1 ≠ 5) ∧ ((o.err = true ∧ o.phase = (w 6 + 1) % 2 ^ 32) ↔ x.2.2.2 = true))) ∧
    (∀ x ∈ [(iMld, ReqKind.mld, 5, matA, (100 : RegCode)), (iMst, .mst, 6, matB 0, 102)],
     let s := mmaState x.1 0 []
     let e := envOf s
     let tl := e.t.tile 3
     let runs := moveRuns x.2.2.2.1 (readReg e.g 0 104).toNat (readReg e.g 0 105).toNat
     Issues x.1 s e ∧ e.lanes x.1 &&& e.pres ≠ 0 ∧ tl.mapped = true ∧ TokenNames e.t (readReg e.g 0 x.2.2.2.2.toNat) x.2.2.1 x.2.2.2.1 ∧
      ((1 : BitVec 2) = 2 ↔ tl.wide = true) ∧ dType x.2.2.2.1 = 0 ∧ dRank x.2.2.2.1 = 2 ∧
      ¬ (9 ≤ dEty x.2.2.2.1 ∧ dEty x.2.2.2.1 ≤ 13) ∧ runs ≠ [] ∧
      (∀ y ∈ runs, if dSpace x.2.2.2.1 = 1 then checkPadSpan s e.g.team y.2.2 y.1 y.2.1 = none
        else checkSpan s e.core e.ctx e.inh (if x.2.1 = .mst then .write else .read) noRegion y.2.2 y.1 y.2.1 = none) ∧
      Quiet e ∧ e.anvilHeld noGuard = false ∧ (s.core e.core).origins.length < 256) := by
  refine ⟨fun i hi => ⟨issues_all (f := lab) (by decide +kernel) i hi, ?_⟩, fun x hx => ?_, fun x hx => ?_⟩
  · revert i; decide +kernel
  · simp only [List.mem_cons, List.not_mem_nil, or_false] at hx
    unfold Passed
    rcases hx with rfl | rfl | rfl | rfl | rfl <;>
      exact ⟨issues_of (by decide +kernel), by decide +kernel, by decide +kernel, token_of (by decide +kernel), token_of (by decide +kernel),
        by decide +kernel, by decide +kernel, by decide +kernel, by decide +kernel, quiet_of (by decide +kernel), by decide +kernel,
        by decide +kernel, by decide +kernel, padPlace_of (by decide +kernel), by decide +kernel, by decide +kernel⟩
  · simp only [List.mem_cons, List.not_mem_nil, or_false] at hx
    rcases hx with rfl | rfl <;>
      exact ⟨issues_of (by decide +kernel), by decide +kernel, by decide +kernel, token_of (by decide +kernel),
        by decide +kernel, by decide +kernel, by decide +kernel, by decide +kernel, by decide +kernel, by decide +kernel,
        quiet_of (by decide +kernel), by decide +kernel, by decide +kernel⟩

/-- An MMAT discarded at issue while another request of its tile has begun. -/
theorem witness_RequestsAreEntered_begun :
    let s0 := mmaState iMmat 4 (objOf true)
    let s := s0.setCluster 0 { s0.cluster 0 with
      table := [{ id := 7, flight := 7, gid := 2, team := 1, ctx := 0, core := 0, kind := .mma, tile := 3, ran := true }] }
    let e := envOf s
    let w := fun (n : Nat) => (readReg e.g 0 (112 + n)).toNat
    let trig : Place := .pad e.g.team (w 4)
    let o := parseBar (bytesAt s (e.phys trig) 16)
    Issues iMmat s e ∧ e.lanes iMmat &&& e.pres ≠ 0 ∧ (e.t.tile 3).mapped = true ∧ TokenNames e.t (readReg e.g 0 100) 5 matA ∧
      TokenNames e.t (readReg e.g 0 102) 6 (matB 0) ∧ operandCheck s e.g.team matA (w 0) (w 2) (w 3) = none ∧ Quiet e ∧
      e.anvilHeld noGuard = false ∧ e.objCheck trig 16 = none ∧ PlainPlace s (.pad 1 0x100) 16 ∧ e.phys trig = .pad 1 0x100 ∧
      Passed o.phase (w 6) ∧ o.err = true ∧ o.phase = (w 6 + 1) % 2 ^ 32 ∧
      ∃ x ∈ (s.cluster (e.core / 4)).table, x.id ≠ s.nextId ∧ x.team = e.g.team ∧ x.tile = 3 ∧
        (x.ran = true ∨ x.suspended = true ∨ (s.cluster (e.core / 4)).runs x = true) :=
  ⟨issues_of (by decide +kernel), by decide +kernel, by decide +kernel, token_of (by decide +kernel), token_of (by decide +kernel),
    by decide +kernel, quiet_of (by decide +kernel), by decide +kernel, by decide +kernel, padPlace_of (by decide +kernel), by decide +kernel,
    by unfold Passed; decide +kernel⟩

/-- A request of id 3 on tile 3. -/
def reqOf (kind : ReqKind) (a b : List Byte) (record : List Word) (k : Nat) : Request :=
  { id := 3, flight := 3, gid := 2, team := 1, ctx := 0, core := 0, kind, tile := 3, snapA := a, snapB := b, slotA := 5, slotB := 6
    record, k, flag := some 2 }

def anvilFlight : Flight := { gid := 2, team := 1, ctx := 0, core := 0, kind := .anvil, flag := some 2 }

/-- Requests in cluster 0's table, tile 3 of a higher priority than tile 0. -/
def anvilState (table : List Request) (running : Option Running) : State :=
  let s := withTeam { lab .fence with flights := [(3, anvilFlight)] } (fun t => { t with
    tiles := [(0, { mapped := true, prio := 1 }), (3, { mapped := true, prio := 5, elems := [(1, 7)] })] })
  s.setCluster 0 { s.cluster 0 with table, running }

theorem queues_of {s : State} {cl : Nat} {r : Request} {f : Flight} (h : r ∈ (s.cluster cl).table)
    (k : ((s.cluster cl).table.map (fun x => x.id)).Nodup ∧ aget? s.flights r.flight = some f ∧ f.gid = r.gid ∧
      (r.revokers = [] ∧ r.suspended = false ∧ r.aborted = false) ∧
      (aget? s.groups r.gid).isSome = true ∧ (aget? s.teams r.team).isSome = true) : Queues s cl r f :=
  ⟨h, k.1, k.2.1, k.2.2.1, k.2.2.2.1, k.2.2.2.2⟩

/-- An MMA with a pass left, one with none, an MMAT whose trigger is still to be seen. -/
def mmaReq (k : Nat) : Request := reqOf .mma matA (matB 0) [0, 0, 0, 64] k
def mmatReq (seen : Option Bool) : Request := { reqOf .mmat matA (matB 0) [0, 0, 0, 64, 0x100, 0, 0, 0] 0 with passed := false, seen }
def zeroReq : Request := { reqOf .mzero [] [] [] 0 with id := 1, flight := 1, tile := 0 }

theorem witness_AnvilGrantsByPriority :
    (let s := anvilState [zeroReq, mmaReq 32] none
     let r := mmaReq 32
     let c := s.cluster 0
     let eff := fun (x : Request) => ((s.team x.team).tile x.tile).prio + min 7 ((s.clock - x.since.getD s.clock) / 256)
     let spent := fun (x : Request) => (x.kind = .mma ∨ x.kind = .mmat) ∧ (x.record.getD 3 0).toNat ≤ x.k
     Queues s 0 r anvilFlight ∧ (∀ x ∈ c.table, c.eligible x = true → ¬ spent x) ∧ c.running = none ∧ s.iluic.stopped = false ∧
      grantable s 0 r = true ∧ (∀ x ∈ c.table, grantable s 0 x = true → eff x ≤ eff r) ∧ eff r ≤ 64 ∧
      c.table[1]? = some r ∧ ∀ m x, m < 1 → c.table[m]? = some x → grantable s 0 x = true → eff x < eff r) ∧
    (let s := anvilState [zeroReq, mmaReq 64] none
     Queues s 0 (mmaReq 64) anvilFlight ∧
      (s.cluster 0).table.find? (fun x => (s.cluster 0).eligible x && x.spent) = some (mmaReq 64)) ∧
    (let s := anvilState [zeroReq, mmaReq 0] (some ⟨1, 9, none⟩)
     let spent := fun (x : Request) => (x.kind = .mma ∨ x.kind = .mmat) ∧ (x.record.getD 3 0).toNat ≤ x.k
     Queues s 0 (mmaReq 0) anvilFlight ∧ (∀ x ∈ (s.cluster 0).table, (s.cluster 0).eligible x = true → ¬ spent x) ∧
      (s.cluster 0).running ≠ none) ∧
    (∀ seen ∈ [none, some false, some true], let s := anvilState [mmatReq seen] none
     Queues s 0 (mmatReq seen) anvilFlight ∧ (mmatReq seen).passed = false ∧ (mmatReq seen).seen = seen ∧ (s.cluster 0).running = none) := by
  refine ⟨⟨queues_of (by decide +kernel) (by decide +kernel), by decide +kernel, by decide +kernel, by decide +kernel, by decide +kernel,
      by decide +kernel, by decide +kernel, by decide +kernel, fun m x hm hx hg => ?_⟩,
    ⟨queues_of (by decide +kernel) (by decide +kernel), by decide +kernel⟩,
    ⟨queues_of (by decide +kernel) (by decide +kernel), by decide +kernel, by decide +kernel⟩, fun seen hs => ?_⟩
  · obtain rfl : m = 0 := by omega
    have a : ((anvilState [zeroReq, mmaReq 32] none).cluster 0).table[0]? = some zeroReq := by decide +kernel
    obtain rfl : x = zeroReq := by rw [a] at hx; exact (Option.some.inj hx).symm
    decide +kernel
  · simp only [List.mem_cons, List.not_mem_nil, or_false] at hs
    rcases hs with rfl | rfl | rfl <;>
      exact ⟨queues_of (by decide +kernel) (by decide +kernel), by decide +kernel, by decide +kernel, by decide +kernel⟩

/-- A unit that ends now: of an MMA at its last step and before it, an MZERO, an MLD and an MST of 2 lines of 4 words. -/
def unitState (r : Request) : State := anvilState [r] (some ⟨3, 0, none⟩)
def tileReq (kind : ReqKind) (h : List Byte) : Request := { reqOf kind h [] [0, 0, 1] 0 with w2 := 8, spans := [⟨0x2000, devPlace 0x2000, 64⟩] }

def noRead (s : State) : State := { s with mem := writeBytes s.mem (devPlace 0x10000) (toBytes 0xC2 8) }

/-- A unit that ends now where the sector at 0x40 of its team's scratchpad, and that at 0x2000 of memory, are poisoned. -/
def spoiltUnit (r : Request) : State :=
  { withTeam (unitState r) (fun t => { t with padPoison := [1] }) with poison := [devPlace 0x2000 / 64] }
def spoiltTile : State := withTeam (unitState (tileReq .mst pad32)) (fun t => { t with
  tiles := [(3, { mapped := true, poisoned := true })] })

/-- Handles of 2 lines of 3 elements of 4 bits, in the scratchpad and in memory. -/
def nibs (space base : Nat) : List Byte := denseDesc 24 space base 3 2 0 16

theorem witness_AnvilUnitsCommit_poison :
    (let r := mmaReq 0
     let s := spoiltUnit r
     let w := fun (n : Nat) => (r.record.getD n 0).toNat
     let tl := (s.team r.team).tile r.tile
     let n := (passRate r.snapA r.snapB).1
     let pad : Reader := fun a n => (readBytes (s.team r.team).pad a n, (s.team r.team).padBad a n)
     Queues s 0 r anvilFlight ∧ (s.cluster 0).running = some ⟨r.id, 0, none⟩ ∧ r.origin = none ∧ (s.ctx r.ctx).erred = false ∧
      stepFault s r = none ∧ mmaAcc r.snapA r.snapB tl.wide = some .i32 ∧ (∀ c ∈ s.cores, c.2.l1 = []) ∧
      ∃ i, i < 128 ∧ ((stepLine pad r.snapA (w 0 + i) r.k n (w 3)).2 = true ∨
        (stepLine (operandReader s r r.snapB) r.snapB (w 1 + i) r.k n (w 3)).2 = true)) ∧
    (∀ h ∈ [pad32, glob32], let r := tileReq .mld h
     let s := spoiltUnit r
     let w := fun (n : Nat) => (r.record.getD n 0).toNat
     let rd := readerAt s r.core r.team (dSpace r.snapA) (spanAt r.spans)
     Queues s 0 r anvilFlight ∧ (s.ctx r.ctx).erred = false ∧ (∀ c ∈ s.cores, c.2.l1 = []) ∧
      ∃ i j, (i < 128 ∧ j < 128 ∧ w 0 + i < dDim r.snapA 1 ∧ w 1 + j < dDim r.snapA 0) ∧ (elemCode rd r.snapA (w 0 + i) (w 1 + j)).2 = true) ∧
    (let r := tileReq .mst pad32
     Queues spoiltTile 0 r anvilFlight ∧ (spoiltTile.cluster 0).running = some ⟨r.id, 0, none⟩ ∧
      ((spoiltTile.team r.team).tile r.tile).poisoned = true ∧ (spoiltTile.ctx r.ctx).erred = false) := by
  refine ⟨⟨queues_of (by decide +kernel) (by decide +kernel), by decide +kernel, rfl, by decide +kernel, by decide +kernel, by decide +kernel,
    by decide +kernel, 0, by decide, by decide +kernel⟩, fun h hh => ?_, queues_of (by decide +kernel) (by decide +kernel), by decide +kernel⟩
  · simp only [List.mem_cons, List.not_mem_nil, or_false] at hh
    rcases hh with rfl | rfl <;>
      exact ⟨queues_of (by decide +kernel) (by decide +kernel), by decide +kernel, by decide +kernel, 0, 0, by decide +kernel⟩

/-- The cells of 2 lines of 4 columns. -/
def cells : List (Nat × Nat) := (List.range 2).flatMap (fun i => (List.range 4).map (fun j => (i, j)))

theorem cells_of {i j : Nat} (h : i < 2) (k : j < 4) : (i, j) ∈ cells := by
  simp only [cells, List.mem_flatMap, List.mem_range, List.mem_map, Prod.mk.injEq]
  exact ⟨i, h, j, k, rfl, rfl⟩

theorem witness_AnvilUnitsCommit_nibbles : ∀ h ∈ [nibs 1 0x40, nibs 0 0x2000],
    let r := tileReq .mst h
    let s := unitState r
    let w := fun (n : Nat) => (r.record.getD n 0).toNat
    let inside := fun (i j : Nat) => i < 128 ∧ j < 128 ∧ w 0 + i < dDim r.snapA 1 ∧ w 1 + j < dDim r.snapA 0
    let va := fun (i j : Nat) => dBase r.snapA + (w 0 + i) * descWord r.snapA 8 + (w 1 + j) / 2
    let p := fun (i j : Nat) => if dSpace r.snapA = 1 then Place.pad r.team (va i j) else .glob (spanAt r.spans (va i j))
    Queues s 0 r anvilFlight ∧ (s.cluster 0).running = some ⟨r.id, 0, none⟩ ∧ ((s.team r.team).tile r.tile).poisoned = false ∧
      dBits r.snapA = 4 ∧ inside 0 2 ∧
      (∀ i j, inside i j → PlainPlace s (p i j) 1 ∧ ∀ i' j', inside i' j' → (i', (w 1 + j') / 2) ≠ (i, (w 1 + j) / 2) →
        (p i j).meets 1 (p i' j') 1 = false) := by
  intro h hh
  have small : ∀ h ∈ [nibs 1 0x40, nibs 0 0x2000], dDim h 1 = 2 ∧ dDim h 0 = 3 := by decide +kernel
  have a : ∀ h ∈ [nibs 1 0x40, nibs 0 0x2000], ∀ x ∈ cells, let r := tileReq .mst h
      let s := unitState r
      let va := fun (i j : Nat) => dBase r.snapA + ((r.record.getD 0 0).toNat + i) * descWord r.snapA 8 +
        ((r.record.getD 1 0).toNat + j) / 2
      let p := fun (i j : Nat) => if dSpace r.snapA = 1 then Place.pad r.team (va i j) else .glob (spanAt r.spans (va i j))
      plainB s (p x.1 x.2) 1 = true ∧ ∀ y ∈ cells, (y.1, ((r.record.getD 1 0).toNat + y.2) / 2) ≠ (x.1, ((r.record.getD 1 0).toNat + x.2) / 2) →
        (p x.1 x.2).meets 1 (p y.1 y.2) 1 = false := by decide +kernel
  have b := small h hh
  have c : ∀ i j, (i < 128 ∧ j < 128 ∧ ((tileReq .mst h).record.getD 0 0).toNat + i < dDim (tileReq .mst h).snapA 1 ∧
      ((tileReq .mst h).record.getD 1 0).toNat + j < dDim (tileReq .mst h).snapA 0) → (i, j) ∈ cells := by
    intro i j hij
    have := hij.2.2
    simp only [tileReq, reqOf] at this
    rw [b.1, b.2] at this
    exact cells_of (by simpa using this.1) (Nat.lt_of_lt_of_le (by simpa using this.2) (by decide : 3 ≤ 4))
  refine ⟨?_, ?_, ?_, ?_, ?_, fun i j hij => ?_⟩
  · simp only [List.mem_cons, List.not_mem_nil, or_false] at hh
    rcases hh with rfl | rfl <;> exact queues_of (by decide +kernel) (by decide +kernel)
  · clear c b a; revert h; decide +kernel
  · clear c b a; revert h; decide +kernel
  · clear c b a; revert h; decide +kernel
  · clear c b a; revert h; decide +kernel
  · have d := a h hh (i, j) (c i j hij)
    exact ⟨plain_of d.1, fun i' j' h' hn => d.2 (i', j') (c i' j' h') hn⟩

theorem witness_AnvilUnitsCommit :
    (∀ r ∈ [mmaReq 0, mmaReq 32, reqOf .mzero [] [] [] 0, tileReq .mld pad32, tileReq .mld glob32, tileReq .mst pad32, tileReq .mst glob32],
     let s := unitState r
     Queues s 0 r anvilFlight ∧ (s.cluster 0).running = some ⟨r.id, 0, none⟩ ∧ 0 ≤ s.clock ∧ r.refused = false) ∧
    (∀ k ∈ [0, 32], let r := mmaReq k
     let s := unitState r
     let w := fun (n : Nat) => (r.record.getD n 0).toNat
     let tl := (s.team r.team).tile r.tile
     let n := (passRate r.snapA r.snapB).1
     let pad : Reader := fun a n => (readBytes (s.team r.team).pad a n, (s.team r.team).padBad a n)
     stepFault s r = none ∧ mmaAcc r.snapA r.snapB tl.wide = some .i32 ∧
      (∀ i, i < 128 → (stepLine pad r.snapA (w 0 + i) r.k n (w 3)).2 = false ∧
        (stepLine (operandReader s r r.snapB) r.snapB (w 1 + i) r.k n (w 3)).2 = false) ∧
      (∀ c ∈ s.cores, c.2.l1 = []) ∧ (w 3 ≤ r.k + n ↔ k = 32)) ∧
    (∀ h ∈ [pad32, glob32], let r := tileReq .mld h
     let s := unitState r
     let w := fun (n : Nat) => (r.record.getD n 0).toNat
     let rd := readerAt s r.core r.team (dSpace r.snapA) (spanAt r.spans)
     let inside := fun (i j : Nat) => i < 128 ∧ j < 128 ∧ w 0 + i < dDim r.snapA 1 ∧ w 1 + j < dDim r.snapA 0
     (∃ i j, inside i j) ∧ (∀ i j, inside i j → (elemCode rd r.snapA (w 0 + i) (w 1 + j)).2 = false) ∧ ∀ c ∈ s.cores, c.2.l1 = []) ∧
    (∀ h ∈ [pad32, glob32], let r := tileReq .mst h
     let s := unitState r
     let w := fun (n : Nat) => (r.record.getD n 0).toNat
     let inside := fun (i j : Nat) => i < 128 ∧ j < 128 ∧ w 0 + i < dDim r.snapA 1 ∧ w 1 + j < dDim r.snapA 0
     let va := fun (i j : Nat) => dBase r.snapA + (w 0 + i) * descWord r.snapA 8 + (w 1 + j) * dBits r.snapA / 8
     let p := fun (i j : Nat) => if dSpace r.snapA = 1 then Place.pad r.team (va i j) else .glob (spanAt r.spans (va i j))
     ((s.team r.team).tile r.tile).poisoned = false ∧ 8 ≤ dBits r.snapA ∧
      (∀ i j, inside i j → PlainPlace s (p i j) (dBytes r.snapA) ∧ ∀ i' j', inside i' j' → (i', j') ≠ (i, j) →
        (p i j).meets (dBytes r.snapA) (p i' j') (dBytes r.snapA) = false)) ∧
    (let r := mmaReq 0
     let s := noRead (unitState r)
     Queues s 0 r anvilFlight ∧ (s.cluster 0).running = some ⟨r.id, 0, none⟩ ∧ stepFault s r = some (.prot, 0x2000) ∧ (s.group r.gid).allEnded = false) := by
  have small : ∀ h ∈ [pad32, glob32], dDim h 1 = 2 ∧ dDim h 0 = 4 := by decide +kernel
  refine ⟨fun r hr => ?_, fun k hk => ?_, fun h hh => ⟨⟨0, 0, ?_⟩, fun i j hij => ?_, ?_⟩, fun h hh => ⟨?_, ?_, fun i j hij => ?_⟩,
    queues_of (by decide +kernel) (by decide +kernel), by decide +kernel, by decide +kernel, by decide +kernel⟩
  · simp only [List.mem_cons, List.not_mem_nil, or_false] at hr
    rcases hr with rfl | rfl | rfl | rfl | rfl | rfl | rfl <;>
      exact ⟨queues_of (by decide +kernel) (by decide +kernel), by decide +kernel, by decide +kernel, by decide +kernel⟩
  · revert k; decide +kernel
  · revert h; decide +kernel
  · have a : ∀ h ∈ [pad32, glob32], ∀ i, i < 2 → ∀ j, j < 4 → let r := tileReq .mld h
        (elemCode (readerAt (unitState r) r.core r.team (dSpace r.snapA) (spanAt r.spans)) r.snapA ((r.record.getD 0 0).toNat + i)
          ((r.record.getD 1 0).toNat + j)).2 = false := by decide +kernel
    have b := small h hh
    have c : i < 2 ∧ j < 4 := by
      have := hij.2.2
      simp only [tileReq, reqOf] at this
      rw [b.1, b.2] at this
      exact ⟨by simpa using this.1, by simpa using this.2⟩
    exact a h hh i c.1 j c.2
  · revert h; decide +kernel
  · revert h; decide +kernel
  · revert h; decide +kernel
  · have a : ∀ h ∈ [pad32, glob32], ∀ x ∈ cells, let r := tileReq .mst h
        let s := unitState r
        let va := fun (i j : Nat) => dBase r.snapA + ((r.record.getD 0 0).toNat + i) * descWord r.snapA 8 +
          ((r.record.getD 1 0).toNat + j) * dBits r.snapA / 8
        let p := fun (i j : Nat) => if dSpace r.snapA = 1 then Place.pad r.team (va i j) else .glob (spanAt r.spans (va i j))
        plainB s (p x.1 x.2) (dBytes r.snapA) = true ∧ ∀ y ∈ cells, y ≠ x →
          (p x.1 x.2).meets (dBytes r.snapA) (p y.1 y.2) (dBytes r.snapA) = false := by decide +kernel
    have b := small h hh
    have c : ∀ i j, (i < 128 ∧ j < 128 ∧ ((tileReq .mst h).record.getD 0 0).toNat + i < dDim (tileReq .mst h).snapA 1 ∧
        ((tileReq .mst h).record.getD 1 0).toNat + j < dDim (tileReq .mst h).snapA 0) → (i, j) ∈ cells := by
      intro i j hij
      have := hij.2.2
      simp only [tileReq, reqOf] at this
      rw [b.1, b.2] at this
      exact cells_of (by simpa using this.1) (by simpa using this.2)
    have d := a h hh (i, j) (c i j hij)
    exact ⟨plain_of d.1, fun i' j' h' hn => d.2 (i', j') (c i' j' h') hn⟩

/-! ## States that meet the statements' hypotheses: scheduling -/

/-- A launch of one unit that has not started, its teams with `pages` of scratchpad each; a gang of four under CLUSTER. -/
def placeState (cluster : Bool) (pages : Nat) : State :=
  let s := lab .fence
  { s with teams := [], groups := [], launches := [(0, { s.launch 0 with next := 0, record := recordOf (if cluster then 4 else 0) pages })] }

theorem freeAt_le (s : State) (n b : Nat) : freeAt s n b ≤ 96 * n := by
  unfold freeAt
  induction n with
  | zero => simp
  | succ n ih =>
    have k : (roomOf s (b + n)).slots ≤ 96 := by
      refine (List.length_filter_le _ _).trans ?_
      simp
    simp only [List.range_succ, List.map_append, List.sum_append, List.map_cons, List.map_nil, List.sum_cons, List.sum_nil]
    omega

theorem best_of {s : State} {p n : Nat} {l : Launch} (a : ∀ i, i < n → (s.part p).clusters.getLsbD (i / 4) = true ∧
      (s.core i).service = .inService)
    (b : ∀ i, i < n → l.ngroups ≤ (roomOf s i).slots ∧ 512 * l.ngroups * l.vregs ≤ (roomOf s i).rf ∧ l.padBytes ≤ (roomOf s i).pad)
    (c : freeAt s n 0 = 96 * n) : BestSpot s p l n 0 := by
  refine ⟨⟨by omega, fun _ => rfl, fun i hi => by simpa only [Nat.zero_add] using a i hi⟩, fun i hi => by simpa only [Nat.zero_add] using b i hi,
    fun x hx _ => ?_⟩
  have := freeAt_le s n x
  omega

/-- A gang of four whose teams take nearly all of a scratchpad, beside a team that does on core 0. -/
def fullState : State :=
  let s := lab .fence
  { s with launches := [(0, { s.launch 0 with record := recordOf 0 255 }), (5, { s.launch 0 with next := 0, record := recordOf 4 255 })] }

/-- Context 0, resident since clock 0, at clock `t`. -/
def ctxState (t : Nat) (c : Context → Context) : State :=
  let s := { lab .fence with clock := t }
  s.setCtx 0 (c { s.ctx 0 with since := some 0 })

/-- Group 2 between clauses; with its instruction held at core 0's port; or with another group's there. -/
def stopState (n : Nat) : State :=
  let s := ctxState 60001 (fun c => { c with stopping := some 60000 })
  s.setCore 0 ((s.core 0).setPort 0 { issue := match n with
    | 0 => none
    | 1 => some { placedIssue 2 (encode .fence) with held := true }
    | 2 => some { placedIssue 2 (encode .fence) with held := false, clockHeld := false }
    | _ => some (placedIssue 9 (encode .fence)) })

/-- Context 0 stopped, its group keeping nothing, with a save area of `n` 64 KiB. -/
def suspendState (n : Nat) : State :=
  withGroup (ctxState 60001 (fun c => { c with stopping := some 60000, save := 0x2000000, savelen := n, status := 0x2000 })) (fun g => { g with
    stop := some (.record ⟨0, 0, 0, 0, 0, []⟩) })

/-- An event of a type waits in function 0. -/
def waitingFor (s : State) (type : Nat) : State := s.setFunc 0 { s.func 0 with waiting := [⟨type, 0, 0, 0, 0⟩] }

theorem suspendable_of {s : State} (h : (s.ctx 0).state = .live ∧ suspending s 0 = true ∧ (residents s 0).isEmpty = false ∧
    unfinished s 0 = false) : Suspendable s 0 :=
  ⟨h.1, h.2.1, fun k => by rw [k] at h; simp at h, h.2.2.2⟩

theorem witness_SchedulingRuns :
    ((State.reset.part 0).enabled = false ∧ (lab .fence).iluic.stopped = false ∧ ((lab .fence).part 0).enabled = true) ∧
    (∀ cluster, ∀ pages ∈ [192, 255], let s := placeState cluster pages
     let l := s.launch 0
     let m := if l.isCluster then 4 else 1
     (s.part 0).enabled = true ∧ s.iluic.stopped = false ∧ (s.part 0).wait = none ∧ aget? s.launches 0 = some l ∧ Placeable s 0 l ∧
      l.age < 2 ^ 64 ∧ (∀ x ∈ s.ctxs, partOf x.1 = 0 → x.2.saved = []) ∧ (s.launches.map Prod.fst).Nodup ∧
      (∀ x ∈ s.teams, x.1 < s.nextId) ∧ (∀ x ∈ s.groups, x.1 < s.nextId) ∧ (∀ x ∈ s.launches, x.1 = 0) ∧
      (heldChecks s 0).length + m ≤ 65535 ∧ BestSpot s 0 l m 0) ∧
    ((fullState.launch 5).isCluster = true ∧ Placeable fullState 0 (fullState.launch 5) ∧ ¬ Placeable fullState 0 (fullState.launch 0) ∧
      (∀ x ∈ fullState.launches, x.1 = 0 ∨ x.1 = 5) ∧ SpotOk fullState 0 4 0 ∧
      ∀ b, SpotOk fullState 0 4 b → ¬ RoomAt fullState (fullState.launch 5) 4 b) ∧
    (let s := ctxState 0 (fun c => { c with since := none })
     (s.ctx 0).since = none) ∧
    (∀ x ∈ [(12000, true), (11999, true), (12000, false)], let s := ctxState x.1 (fun c => { c with slice := 10, costus := 10, asked := x.2 })
     let c := s.ctx 0
     let floor := max c.slice (2 * c.costus)
     c.state = .live ∧ c.since = some 0 ∧ c.stopping = none ∧ c.deferred = none ∧ c.slice ≤ (s.clock - 0) / 600 ∧
      (floor ≤ (s.clock - 0) / 600 ↔ x.1 = 12000) ∧ c.asked = x.2 ∧ wantsNow s 0 = false ∧ wantsLater s 0 = false) ∧
    (pastDeadline (lab .fence) 0 = false ∧ ∀ n ∈ [0, 1, 2, 3], let s := stopState n
     pastDeadline s 0 = true ∧ (s.groups.map Prod.fst).Nodup ∧ aget? s.groups 2 = some (s.group 2) ∧ ctxOf s (s.group 2) = 0 ∧
      stopped s 0 (s.group 2) = false) ∧
    (¬ Suspendable (lab .fence) 0 ∧ ∀ n ∈ [0, 1], let s := suspendState n
     let c := s.ctx 0
     let total := ((addressed (framesOf s 0)).map (fun x => x.2.length)).sum
     Suspendable s 0 ∧ (if n = 0 then c.savelen * 2 ^ 16 < 64 + total else 64 + total ≤ c.savelen * 2 ^ 16) ∧ c.save % 64 = 0 ∧
      c.save + c.savelen * 2 ^ 16 ≤ 2 ^ 39 ∧ (s.groups.map Prod.fst).Nodup ∧
      (∀ line, NoPartials s line) ∧
      (∃ l, walk s 0 (c.status + 32) = .ok l ∧ l.w = true ∧ l.place s 0 (c.status + 32) = some (devPlace 0x2020)) ∧
      (∃ y, aget? s.teams 1 = some y ∧ (s.launch y.launch).ctx = 0 ∧ (s.launch y.launch).record.length = 64 ∧
        (keepOf s 1).ranges.length ≤ 128) ∧
      addressed (framesOf s 0) ≠ [] ∧ ∀ x ∈ addressed (framesOf s 0), x.2.length % 64 = 0) ∧
    (∀ ran ∈ [600000, 600001], let c := (ctxState 0 (fun c => { c with tlimit := 1, ran })).ctx 0
     (c.state = .live ∧ c.tlimit ≠ 0 ∧ c.tlimit * 600000 < c.ran ↔ ran = 600001) ∧ c.erred = false) ∧
    (((lab .fence).core 0).service ≠ .testing ∧
      (let s := (lab .fence).setCore 0 { (lab .fence).core 0 with service := .testing }
       (∃ e ∈ ((waitingFor s 0xB).func 0).waiting, e.type = 0xB) ∧ (¬ ∃ e ∈ (s.func 0).waiting, e.type = 0xB) ∧
       (s.core 0).service = .testing ∧ (Config.selfTest s.tick = true ∨ Config.selfTest s.tick = false))) := by
  refine ⟨by decide +kernel, fun cluster pages hp => ?_, ⟨by decide +kernel, ?_, fun h => ?_, by decide +kernel, ⟨by decide, by decide, by decide +kernel⟩, fun b hb hr => ?_⟩, by decide +kernel, by decide +kernel,
    ⟨by decide +kernel, by decide +kernel⟩, ⟨fun h => ?_, fun n hn => ?_⟩, by decide +kernel, by decide +kernel, by decide +kernel, ?_⟩
  · simp only [List.mem_cons, List.not_mem_nil, or_false] at hp
    cases cluster <;> rcases hp with rfl | rfl <;>
      refine ⟨by decide +kernel, by decide +kernel, by decide +kernel, by decide +kernel, ?_, by decide +kernel, by decide +kernel,
        by decide +kernel, by decide +kernel, by decide +kernel, by decide +kernel, by decide +kernel, ?_⟩
    all_goals first
      | (unfold Placeable; decide +kernel)
      | exact best_of (by decide +kernel) (by decide +kernel) (by decide +kernel)
  · unfold Placeable; decide +kernel
  · exact absurd h.2.2.2.2 (by decide +kernel)
  · have a : ∀ b, b < 128 → b % 4 = 0 → (fullState.part 0).clusters.getLsbD ((b + 0) / 4) = true → b = 0 := by decide +kernel
    have c := a b hb.1 (hb.2.1 (by decide)) (hb.2.2 0 (by decide)).1
    subst c
    exact absurd (hr 0 (by decide)).2.2 (by decide +kernel)
  · exact absurd h.2.1 (by decide +kernel)
  · simp only [List.mem_cons, List.not_mem_nil, or_false] at hn
    rcases hn with rfl | rfl <;>
      exact ⟨suspendable_of (by decide +kernel), by decide +kernel, by decide +kernel, by decide +kernel, by decide +kernel,
        fun _ => noPartials_of (by decide +kernel), ⟨leafOf 0, by decide +kernel, by decide +kernel, by decide +kernel⟩,
        ⟨_, rfl, by decide +kernel, by decide +kernel, by decide +kernel⟩, by decide +kernel, by decide +kernel⟩
  · exact ⟨by decide +kernel, by decide +kernel, Bool.eq_false_or_eq_true _⟩

/-! ## States that meet the statements' hypotheses: errors, the host's side, commands -/

/-- Link 2 with an inbound window onto the first GiB of the partition's extent; a store through it in flight, or loads. -/
def linkState (f : Flight) : State :=
  (flightState f).setLink 2 { ((flightState f).link 2) with inbound := some (0, 0, 1) }
/-- The last word of link 2's peer window. -/
def peerWord : Place := .glob (2 ^ 65 + 3 * 2 ^ 45 - 4)
def hostLoad : Flight :=
  { gid := 2, team := 1, ctx := 0, core := 0, kind := .load, dst := some 1, width := 4, lanes := 1, flag := some 3, pieces := [
    ⟨0, .glob (2 ^ 64 + 0x10C), 4, 0, 0, none, false, 0x2000, 38, false, false⟩] }

/-- A copy of one word of the host's memory to the scratchpad; a tile to be loaded from there, and one from the scratchpad. -/
def hostMove : Move := ⟨[⟨.pad 1 0x40, .at (.glob (2 ^ 64 + 0x10C)), 4, none, false⟩], 4, false⟩
def hostCopy : SwageCmd := { copyOf 3 (.pad 1 0x80) [hostMove] with flight := 3 }
def hostTile (h : List Byte) : Request := { tileReq .mld h with spans := [⟨0x2000, 2 ^ 64 + 0x10C, 64⟩] }

theorem witness_ErrorsAreHandled_engines :
    (let s := swageState [] [(5, hostCopy)] [] [(3, swageFlight)]
     let copies := fun (x : SwageCmd) => ∃ c ∈ s.cores, ∃ n, (n, x) ∈ c.2.swage ∧ x.flight = 3 ∧ x.waiting = false
     copies hostCopy ∧ (∀ y, copies y → y = hostCopy) ∧ hostCopy.readsHost 0 = none ∧ hostCopy.readsHost (2 ^ 56 + 1) ≠ none ∧
      hostCopy.origin = none) ∧
    (∀ h ∈ [pad32, glob32], let r := hostTile h
     let s := unitState r
     let copies := fun (x : SwageCmd) => ∃ c ∈ s.cores, ∃ n, (n, x) ∈ c.2.swage ∧ x.flight = 3 ∧ x.waiting = false
     let units := fun (r : Request) => ∃ c ∈ s.clusters, r ∈ c.2.table ∧ r.flight = 3 ∧ c.2.runs r = true
     (∀ x, ¬ copies x) ∧ units r ∧ (∀ y, units y → y = r) ∧ (r.readsHost s (2 ^ 56 + 1) = true ↔ h = glob32) ∧ r.origin = none) := by
  refine ⟨⟨?_, fun y hy => ?_, by decide +kernel, by decide +kernel, rfl⟩, fun h hh => ⟨fun x hx => ?_, ?_, fun y hy => ?_, ?_, ?_⟩⟩
  · exact ⟨(0, (swageState [] [(5, hostCopy)] [] [(3, swageFlight)]).core 0), by decide +kernel, 5, by decide +kernel, by decide, by decide⟩
  · obtain ⟨c, hc, n, hn, -, -⟩ := hy
    have a : ∀ c ∈ (swageState [] [(5, hostCopy)] [] [(3, swageFlight)]).cores, ∀ z ∈ c.2.swage, z.2 = hostCopy := by decide +kernel
    exact a c hc _ hn
  · obtain ⟨c, hc, n, hn, -, -⟩ := hx
    have a : ∀ h ∈ [pad32, glob32], ∀ c ∈ (unitState (hostTile h)).cores, c.2.swage = [] := by decide +kernel
    rw [a h hh c hc] at hn
    exact absurd hn List.not_mem_nil
  · have a : ∀ h ∈ [pad32, glob32], ∃ c ∈ (unitState (hostTile h)).clusters,
        hostTile h ∈ c.2.table ∧ (hostTile h).flight = 3 ∧ c.2.runs (hostTile h) = true := by decide +kernel
    exact a h hh
  · obtain ⟨c, hc, hn, -, -⟩ := hy
    have a : ∀ h ∈ [pad32, glob32], ∀ c ∈ (unitState (hostTile h)).clusters, ∀ z ∈ c.2.table, z = hostTile h := by decide +kernel
    exact a h hh c hc _ hn
  · revert h; decide +kernel
  · revert h; decide +kernel

theorem witness_ErrorsAreHandled :
    (let s := coresState dirtyCore
     aget? (s.core 1).l1 31 = none ∧ (∃ y, aget? (s.core 1).l1 32 = some y) ∧ (s.core 1).service = .inService) ∧
    (let s := mrelState false
     aget? s.teams 9 = none ∧ (∃ y, aget? s.teams 1 = some y) ∧ ((s.team 1).tile 7).mapped = false ∧ ((s.team 1).tile 0).mapped = true) ∧
    (let s := { withRegion (lab .fence) with poison := [7] }
     aget? s.regions (2 * 256 + 1) = none ∧ aget? s.regions (2 * 256 + 0) = some region0 ∧ 8 ∉ s.poison ∧ 7 ∈ s.poison) ∧
    (((lab .fence).setCore 0 { (lab .fence).core 0 with service := .out }).core 0).service ≠ .inService ∧
    (let s := linkState (throughFlight peerWord)
     (2 < 8 ∧ (s.link 2).up = true) ∧ ¬ (8 < 8 ∧ (s.link 8).up = true) ∧ aget? s.flights 3 = some (throughFlight peerWord) ∧
      (throughFlight peerWord).kind = .through ∧ (∃ p ∈ (throughFlight peerWord).pieces, InWindow 2 p.pa) ∧
      ∀ o y, (throughFlight peerWord).origin = some o → (o, y) ∈ (s.core 0).origins → y.ctx = 0) ∧
    (let s := linkState hostLoad
     ∀ f ∈ s.flights, f.2.kind = .through → ∀ p ∈ f.2.pieces, ¬ InWindow 2 p.pa) ∧
    (let s := linkState hostLoad
     (s.link 2).inbound = some (0, 0, 1) ∧ (s.part 0).ext[0]? = some (0, 1) ∧ 0 + 1 ≤ 48 ∧
      ∀ x ∈ [(2 ^ 30 - 4, (some [1, 2, 3, 4] : Option (List Byte)), true), (2 ^ 30 - 3, some [1, 2, 3, 4], false), (2 ^ 30 - 1, none, true)],
      let size := match x.2.1 with | some (bs : List Byte) => bs.length | none => 1
      ((s.part 0).enabled = true ∧ (s.link 2).up = true ∧ x.1 + size ≤ 1 * 2 ^ 30 ∧ x.1 + size ≤ 8 * 1 * 2 ^ 30 ↔ x.2.2 = true)) ∧
    ((linkState hostLoad).cores.map Prod.fst).Nodup ∧ (∀ line, NoPartials (linkState hostLoad) line) ∧
    (let s := linkState hostLoad
     let hit := fun (line : Nat) (p : Piece) => ∃ pa, p.pa = .glob pa ∧ lineOf pa = line ∧ 2 ^ 64 ≤ pa ∧ pa < 2 ^ 65
     (aget? s.flights 3 = some hostLoad ∧ hostLoad.kind = .load ∧ hostLoad.pieces ≠ [] ∧ (aget? s.groups 2).isSome = true ∧
      (∀ c ∈ s.cores, c.2.swage = []) ∧ (∀ c ∈ s.clusters, c.2.table = []) ∧
      (∀ p ∈ hostLoad.pieces, hit (2 ^ 56 + 1) p ∧ (presentLanes (s.launch (s.team hostLoad.team).launch)
        (s.group hostLoad.gid).idx).getLsbD p.lane = true)) ∧
      ∀ f, aget? s.flights 3 = some f → f.kind ≠ .load ∨ ∀ p ∈ f.pieces, ¬ hit 0 p) := by
  have fl : aget? (linkState hostLoad).flights 3 = some hostLoad := by decide +kernel
  refine ⟨⟨by decide +kernel, ⟨_, rfl⟩, by decide +kernel⟩, ⟨by decide +kernel, ⟨_, rfl⟩, by decide +kernel⟩, by decide +kernel, by decide +kernel,
    ⟨by decide +kernel, by decide, by decide +kernel, rfl, ⟨_, List.mem_cons_self, _, rfl, by decide, by decide⟩, fun o y h => (nomatch h)⟩,
    fun f hf hk => ?_, ⟨by decide +kernel, by decide +kernel, by decide, by decide +kernel⟩, by decide +kernel, fun _ => noPartials_of (by decide +kernel),
    ⟨fl, rfl, by decide, by decide +kernel, by decide +kernel, by decide +kernel, fun p hp => ?_⟩, fun f hf => .inr fun p hp => ?_⟩
  · have a : ∀ f ∈ (linkState hostLoad).flights, f.2.kind ≠ .through := by decide +kernel
    exact absurd hk (a f hf)
  · simp only [hostLoad, List.mem_cons, List.not_mem_nil, or_false] at hp
    subst hp
    exact ⟨⟨_, rfl, by decide, by decide, by decide⟩, by decide +kernel⟩
  · rw [fl] at hf
    obtain rfl := Option.some.inj hf
    simp only [hostLoad, List.mem_cons, List.not_mem_nil, or_false] at hp
    subst hp
    rintro ⟨pa, h, k, -⟩
    cases h
    exact absurd k (by decide)

/-- Function 0 of the placed partition with an event waiting and a queue of 16 entries, `n` of them unread. -/
def eventState (n : Nat) (waiting : List HostEvent) : State :=
  let s := lab .fence
  s.setFunc 0 { s.func 0 with waiting, eqlog2 := 4, eqhead := 2 ^ 32 - 1, eqtail := (2 ^ 32 - 1 + n) % 2 ^ 32 }

theorem inside_of {p : Part} (hp : p.ext = [(0, 1)]) {a : Nat} (h : a < 8 * 2 ^ 30) : memInRange p 0 a = true := by
  have q : a / 32768 < 2 ^ 18 := by omega
  have m : a % 4096 < 4096 := by omega
  have t : a / 4096 % 8 < 8 := by omega
  have e : devPlace a = a / 4096 % 8 * 2 ^ 36 + (a / 32768 * 4096 + a % 4096) := by unfold devPlace; omega
  generalize a / 4096 % 8 = t' at t e
  generalize a / 32768 = q' at q e
  generalize a % 4096 = m' at m e
  have c : devPlace a % 2 ^ 36 < 2 ^ 30 := by omega
  have d : devPlace a < 2 ^ 39 := by omega
  simp only [memInRange, if_true, Part.owns, Part.covers, hp, isDevice, Bool.and_eq_true, decide_eq_true_eq, List.any_cons,
    List.any_nil, Bool.or_false]
  refine ⟨by omega, by simpa using d, ?_⟩
  simp
  omega

theorem devInside_of {p : Part} (hp : p.ext = [(0, 1)]) {d n : Nat} (h : d + n ≤ 8 * 2 ^ 30) : DevInside p d n :=
  fun i hi => inside_of hp (by omega)

theorem witness_ModuleEventsAndWindows :
    (let s := lab .fence
     s.iluic.stopped = false ∧ Exposed s 0 ∧ ¬ Exposed s 32 ∧ partOfFunc s 0 = some 0 ∧ partOfFunc s 1 = none ∧ (∀ line, NoPartials s line) ∧
      (∀ i, i < 8 → memInRange (s.part 0) 0 (8 * 2 ^ 30 - 8 + i) = true) ∧ (∀ i, i < 8 → memInRange (s.part 0) 0 (8 * 2 ^ 30 + i) = false)) ∧
    (∀ x ∈ [((0 : Nat), ([] : List HostEvent), false), (15, [⟨9, 0, 0xFFFF, 0, 1⟩], true), (16, [⟨9, 0, 0xFFFF, 0, 1⟩], false)],
     let f := (eventState x.1 x.2.1).func 0
     f.eqhead < 2 ^ 32 ∧ f.waiting = x.2.1 ∧
      ((4 ≤ f.eqlog2 ∧ f.eqlog2 ≤ 12 ∧ (f.eqtail + 2 ^ 32 - f.eqhead) % 2 ^ 32 < 2 ^ f.eqlog2 ∧ f.waiting ≠ []) ↔ x.2.2 = true)) ∧
    (∃ e ∈ ((eventState 16 [⟨1, 0, 0, 7, 0⟩]).func 0).waiting, e.type = 1) ∧
    (∀ v w, (v, w) ∈ [(2 ^ 64 - 1, 8), (2 ^ 32 - 1, 4)] → RegsOk ((lab .fence).func 0) ∧ v < 2 ^ (8 * w)) := by
  refine ⟨⟨by decide +kernel, by unfold Exposed; decide +kernel, by unfold Exposed; decide +kernel, by decide +kernel, by decide +kernel,
    fun _ => noPartials_of (by decide +kernel), by decide +kernel, by decide +kernel⟩, by decide +kernel, by decide +kernel, fun v w h => ⟨?_, ?_⟩⟩
  · unfold RegsOk; decide +kernel
  · simp only [List.mem_cons, List.not_mem_nil, or_false, Prod.mk.injEq] at h
    rcases h with ⟨rfl, rfl⟩ | ⟨rfl, rfl⟩ <;> decide

/-- A host command of the physical function on partition 0's context 0, in a state whose context table begins with 0. -/
def hdr0 : Hdr := ⟨0, 0, 0, 7⟩

/-- A context's entry: valid, or not; with a page table within the extent, or one past it; `n` other contexts live. -/
def entryImage (v : Nat) (l1pt : Nat) : List Byte := toBytes (v + l1pt * 2 ^ 64) 64
def createState (img : List Byte) (n : Nat) : State :=
  let s := lab .fence
  { s with mem := writeBytes s.mem (2 ^ 64 + 0x1000) img
           ctxs := (0, {}) :: (List.range n).map (fun k => (k + 1, { valid := true, asid := k })) }

/-- Group 2 parked in a handler that lane 0 entered, its context with a record and a region held. -/
def name0 : GroupName := ⟨1, 0, 0⟩
def heldRecord : HeldRecord := { hid := 5, record := recordOf 0 1, ext := List.replicate 64 0, flight := none }
def heldRegion : HeldRegion := { rid := 6, flight := 9, stack := 2, region := region0 }
def parkedState : State :=
  let s := withGroup (lab .fence) (fun g => { g with
    park := true, frame := { g.frame with tstate := 0x400, tact := 1, gang := 1 }, quads := g.quads.map (fun q =>
      if q.1 = 0 then (q.1, { q.2 with handler := true, resident := [stackEntry 4 1 1 0x1000] }) else q) })
  let s := s.setPart 0 { s.part 0 with rquota := [0, 0, 1] }
  s.setCtx 0 { s.ctx 0 with held := [heldRecord], heldRegions := [heldRegion] }

/-- The same while its context is being stopped. -/
def stoppingState : State := parkedState.setCtx 0 { parkedState.ctx 0 with stopping := some 60000 }

def busyState : State := { parkedState with
  launches := parkedState.launches ++ (List.range 64).map (fun n => (n + 10, { ctx := 0, record := recordOf 0 1 }))
  regions := [(515, region0)] }

theorem onParked_of {s : State} (h : ∀ x ∈ s.groups, x.1 = 2) : ∀ y ∈ s.groups, NamedParked s 0 name0 y.2 → y.1 = 2 := fun y hy _ => h y hy

theorem nothingOut_flights {s : State} (h : s.flights = [] ∧ (∀ p ∈ s.cores, p.2.swageQueue = [] ∧ p.2.swage = [] ∧ p.2.crucible = [] ∧ p.2.drains = []) ∧
    ∀ p ∈ s.clusters, p.2.table = []) : NothingOut s 0 := by
  refine ⟨fun f hf => by rw [h.1] at hf; exact absurd hf List.not_mem_nil, fun c => ?_, fun c r hr => ?_⟩
  · have k : (s.core c).swageQueue = [] ∧ (s.core c).swage = [] ∧ (s.core c).crucible = [] ∧ (s.core c).drains = [] := by
      unfold State.core
      cases hc : aget? s.cores c with
      | none => exact ⟨rfl, rfl, rfl, rfl⟩
      | some x => exact h.2.1 _ (mem_of_aget? hc)
    rw [k.1, k.2.1, k.2.2.1, k.2.2.2]
    simp
  · have k : (s.cluster c).table = [] := by
      unfold State.cluster
      cases hc : aget? s.clusters c with
      | none => rfl
      | some x => exact h.2.2 _ (mem_of_aget? hc)
    rw [k] at hr
    exact absurd hr List.not_mem_nil

theorem witness_ContextCommands :
    (∀ s ∈ [parkedState, busyState], (s.ctxs.map Prod.fst).Pairwise (· < ·) ∧ Exposed s 0 ∧ s.iluic.recovery = false ∧ (s.part 0).enabled = true ∧
      hdr0.ctx < (s.part 0).nctx ∧ (s.part 0).nctx ≤ 1024 ∧ (s.ctx 0).state = .live ∧ (s.ctx 0).valid = true ∧ (s.ctx 0).erred = false) ∧
    ((¬ Exposed parkedState 32) ∧ (32 % 64 ≠ 0 ∧ 2 ^ 64 - 64 < 2 ^ 64)) ∧
    (∀ x ∈ [(0, 0, 0), (1, 8 * 2 ^ 30 - 16383, 0), (1, 8 * 2 ^ 30 - 16384, 1)], let s := createState (entryImage x.1 x.2.1) 1
     let b := readBytes s.mem (2 ^ 64 + 0x1000) 64
     let f := fun (hi lo : Nat) => bits (ofBytes b) hi lo
     let p := s.part 0
     let bad := f 0 0 = 0 ∨ ∃ r ∈ [(383, 368), (325, 320), (319, 305), (261, 256), (255, 241), (196, 192), (191, 177),
        (127, 112), (77, 64), (63, 41), (31, 3)], f r.1 r.2 ≠ 0
     let refused := (s.ctx 0).state = .live ∨ ¬ DevInside p (f 111 64) 16384 ∨ ¬ DevInside p (f 367 320) (max 1 (f 415 384 * 2 ^ 16))
     (s.ctxs.map Prod.fst).Pairwise (· < ·) ∧ 0x1000 % 64 = 0 ∧ (bad ↔ x.1 = 0 ∨ x.2.2 = 0 ∧ x.2.1 % 16384 ≠ 0) ∧ (x.2.2 = 1 → ¬ refused) ∧
      ∃ k, k < 512 ∧ ¬ ∃ c ∈ s.ctxs, c.1 ≠ 0 ∧ c.2.valid = true ∧ c.2.asid = k) ∧
    (let s := createState (entryImage 1 (8 * 2 ^ 30)) 1
     let b := readBytes s.mem (2 ^ 64 + 0x1000) 64
     bits (ofBytes b) 0 0 ≠ 0 ∧ ¬ DevInside (s.part 0) (bits (ofBytes b) 111 64) 16384) ∧
    (∀ k, k < 512 → ∃ c ∈ (createState [] 512).ctxs, c.1 ≠ 0 ∧ c.2.valid = true ∧ c.2.asid = k) ∧
    (∀ s ∈ [parkedState, stoppingState], let x := s.group 2
     aget? s.groups 2 = some x ∧ NamedParked s 0 name0 x ∧ (∀ y ∈ s.groups, NamedParked s 0 name0 y.2 → y.1 = 2) ∧
      x.frame.tstate.getLsbD 10 = true ∧ (x.quads.map Prod.fst).Pairwise (· < ·) ∧
      (∀ q ∈ x.quads, q.2.handler = true → q.2.handled = false → ∃ en, q.2.resident.head? = some en ∧ entryKind en = 4) ∧
      ∃ y, aget? x.quads 0 = some y ∧ x.frame.gang.getLsbD 0 = true ∧ y.kind ≠ .absent ∧ y.kind ≠ .ended ∧
        laneNibble x.frame.tact 0 &&& ~~~ y.exited ≠ 0) ∧
    NothingOut (lab .fence) 0 ∧
    (∀ s ∈ [parkedState, busyState], heldRecord ∈ (s.ctx 0).held ∧ (∀ y ∈ (s.ctx 0).held, y.hid = heldRecord.hid → y = heldRecord) ∧
      heldRegion ∈ (s.ctx 0).heldRegions ∧ (∀ y ∈ (s.ctx 0).heldRegions, y.rid = heldRegion.rid → y = heldRegion) ∧
      heldRecord.record.length = 64) ∧
    (queued parkedState 0 (recField heldRecord.record 319 317) < 64 ∧ 64 ≤ queued busyState 0 (recField heldRecord.record 319 317) ∧
      ∀ w, DepsReady w 0 heldRecord.ext) ∧
    (let s := parkedState
     let meets := ∃ r ∈ s.regions, r.2.ctx = 0 ∧ spansMeet (heldRegion.region.leaves ++ heldRegion.region.shadow) (r.2.leaves ++ r.2.shadow) = true
     ¬ meets ∧ (s.regions.filter (fun r => decide (r.1 / 256 = heldRegion.stack ∧ r.2.ctx / 1024 = 0 / 1024))).length <
            (s.part (0 / 1024)).rquota.getD heldRegion.stack 0 ∧ aget? s.regions (heldRegion.stack * 256 + 0) = none) ∧
    (∃ r ∈ busyState.regions, r.2.ctx = 0 ∧
      spansMeet (heldRegion.region.leaves ++ heldRegion.region.shadow) (r.2.leaves ++ r.2.shadow) = true) := by
  refine ⟨fun s hs => ?_, ⟨by unfold Exposed; decide +kernel, by decide⟩, fun x hx => ?_, ⟨by decide +kernel, fun h => ?_⟩, fun k hk => ?_,
    fun s hs => ?_, nothingOut_flights (by decide +kernel), ?_,
    ⟨by decide +kernel, by decide +kernel, fun w d hd => by
      have a : depsOf heldRecord.ext = [] := by decide +kernel
      rw [a] at hd
      cases hd⟩, by decide +kernel, by decide +kernel⟩
  · simp only [List.mem_cons, List.not_mem_nil, or_false] at hs
    unfold Exposed
    rcases hs with rfl | rfl <;> decide +kernel
  · have a : ∀ x ∈ [(0, 0, 0), (1, 8 * 2 ^ 30 - 16383, 0), (1, 8 * 2 ^ 30 - 16384, 1)], let s := createState (entryImage x.1 x.2.1) 1
      let b := readBytes s.mem (2 ^ 64 + 0x1000) 64
      let f := fun (hi lo : Nat) => bits (ofBytes b) hi lo
      let bad := f 0 0 = 0 ∨ ∃ r ∈ [(383, 368), (325, 320), (319, 305), (261, 256), (255, 241), (196, 192), (191, 177),
        (127, 112), (77, 64), (63, 41), (31, 3)], f r.1 r.2 ≠ 0
      (s.ctxs.map Prod.fst).Pairwise (· < ·) ∧ 0x1000 % 64 = 0 ∧ (bad ↔ x.1 = 0 ∨ x.2.2 = 0 ∧ x.2.1 % 16384 ≠ 0) ∧
      ¬ ∃ c ∈ s.ctxs, c.1 ≠ 0 ∧ c.2.valid = true ∧ c.2.asid = 5 := by decide +kernel
    have b : ∀ x ∈ [(0, 0, 0), (1, 8 * 2 ^ 30 - 16383, 0), (1, 8 * 2 ^ 30 - 16384, 1)], x.2.2 = 1 →
      let s := createState (entryImage x.1 x.2.1) 1
      let b := readBytes s.mem (2 ^ 64 + 0x1000) 64
      (s.ctx 0).state ≠ .live ∧ (s.part 0).ext = [(0, 1)] ∧ bits (ofBytes b) 111 64 + 16384 ≤ 8 * 2 ^ 30 ∧
        bits (ofBytes b) 367 320 + max 1 (bits (ofBytes b) 415 384 * 2 ^ 16) ≤ 8 * 2 ^ 30 := by decide +kernel
    refine ⟨(a x hx).1, (a x hx).2.1, (a x hx).2.2.1, fun h => ?_, 5, by decide, (a x hx).2.2.2⟩
    have c := b x hx h
    rintro (k | k | k)
    · exact c.1 k
    · exact k (devInside_of c.2.1 c.2.2.1)
    · exact k (devInside_of c.2.1 c.2.2.2)
  · exact absurd (h 0 (by decide)) (by decide +kernel)
  · exact ⟨(k + 1, { valid := true, asid := k }), List.mem_cons_of_mem _ (List.mem_map.mpr ⟨k, List.mem_range.mpr hk, rfl⟩), by simp⟩
  · have a : ∀ s ∈ [parkedState, stoppingState], ∀ q ∈ (s.group 2).quads, q.2.handler = true →
        q.2.resident.head? = some (stackEntry 4 1 1 0x1000) := by decide +kernel
    refine ⟨?_, ?_, onParked_of ?_, ?_, ?_, fun q hq h1 _ => ⟨_, a s hs q hq h1, by decide +kernel⟩, ?_⟩
    · revert s; decide +kernel
    · unfold NamedParked; revert s; decide +kernel
    · revert s; decide +kernel
    · revert s; decide +kernel
    · revert s; decide +kernel
    · have b : ∀ s ∈ [parkedState, stoppingState], (aget? (s.group 2).quads 0).any (fun y => (s.group 2).frame.gang.getLsbD 0 &&
          decide (y.kind ≠ .absent) && decide (y.kind ≠ .ended) && decide (laneNibble (s.group 2).frame.tact 0 &&& ~~~ y.exited ≠ 0)) = true := by
        decide +kernel
      obtain ⟨y, hy, hp⟩ := (Option.any_eq_true _ _).mp (b s hs)
      simp only [Bool.and_eq_true, decide_eq_true_eq] at hp
      exact ⟨y, hy, hp.1.1.1, hp.1.1.2, hp.1.2, hp.2⟩
  · intro s hs
    simp only [List.mem_cons, List.not_mem_nil, or_false] at hs
    rcases hs with rfl | rfl <;> decide +kernel

/-- Partition entries: enabled with one GiB of each stack and no cluster; not enabled; with an extent past the stacks. -/
def psetImages : List (List Byte × Bool) :=
  [(toBytes (2 ^ 42 + 2 ^ 328) 64, false), (toBytes (2 ^ 320) 64, false), (toBytes (48 * 2 ^ 320 + 2 ^ 328) 64, true)]
def psetState (bs : List Byte) : State := { State.reset with mem := writeBytes [] (2 ^ 64 + 0x1000) bs }

theorem devIdle {p : Part} {d n : Nat} (h : n = 0) : DevInside p d n := fun i hi => absurd hi (by omega)

theorem witness_PartitionAndModuleCommands :
    (let s := lab .fence
     (s.part 0).enabled = true ∧ DevInside (s.part 0) (8 * 2 ^ 30 - 8) 8 ∧ ¬ DevInside (s.part 0) (8 * 2 ^ 30) 8 ∧
      NoPartials s (lineOf (devPlace (8 * 2 ^ 30 - 8))) ∧ (8 * 2 ^ 30 - 8) % 8 = 0 ∧ Exposed s 0 ∧ s.iluic.recovery = false ∧
      ((s.part 0).ext.getD 0 (0, 0)).2 ≠ 0 ∧ ((s.part 0).ext.getD 1 (0, 0)).2 = 0) ∧
    (∀ y ∈ psetImages, let s := psetState y.1
     let b := readBytes s.mem (2 ^ 64 + 0x1000) 64
     let f := fun (hi lo : Nat) => bits (ofBytes b) hi lo
     let x : Part := {
       enabled := decide (f 42 42 = 1), clusters := BitVec.ofNat 32 (f 31 0),
       split := BitVec.ofNat 5 (f 36 32), func := f 41 37, pstack := f 111 64, ctxtab := f 175 128, nctx := f 233 224,
       rquota := [f 263 256, f 271 264, f 279 272, f 287 280, f 295 288, f 303 296, f 311 304, f 319 312],
       ext := [(f 325 320, f 333 328), (f 341 336, f 349 344), (f 357 352, f 365 360), (f 373 368, f 381 376)],
       hlen := f 447 432, hbase := f 511 448, image := b }
     (PsetRefused s 0 x b ↔ y.2 = true) ∧ (s.part 0).enabled = false) ∧
    ((List.replicate 32 (0 : Byte)).length = 32) ∧
    (let x : Stage := { booted := true, minSvn := 1, svn := 3 }
     (x.booted = true ∧ x.minSvn ≤ 3 ∧ 3 ≤ x.svn) ∧ ¬ (x.booted = true ∧ x.minSvn ≤ 0 ∧ 0 ≤ x.svn)) ∧
    (400 ≤ 1600 ∧ 1600 ≤ 1600) := by
  refine ⟨⟨by decide +kernel, devInside_of (by decide +kernel) (by decide), fun h => ?_, noPartials_of (by decide +kernel), by decide,
    by unfold Exposed; decide +kernel, by decide +kernel, by decide +kernel, by decide +kernel⟩, fun y hy => ⟨?_, ?_⟩, by decide, by decide, by decide⟩
  · exact absurd (h 0 (by decide)) (by decide +kernel)
  · simp only [psetImages, List.mem_cons, List.not_mem_nil, or_false] at hy
    unfold PsetRefused
    rcases hy with rfl | rfl | rfl
    · refine ⟨?_, fun h => by cases h⟩
      rintro (h | h | h | h | h | h | h)
      · exact absurd h (by decide +kernel)
      · exact absurd h (by decide +kernel)
      · exact absurd h (by decide +kernel)
      · exact absurd h (by decide +kernel)
      · exact absurd (devIdle (by decide +kernel)) h
      · exact absurd (devIdle (by decide +kernel)) h
      · exact absurd h (by decide +kernel)
    · refine ⟨?_, fun h => by cases h⟩
      rintro (h | h | h | h | h | h | h)
      · exact absurd h (by decide +kernel)
      · exact absurd h (by decide +kernel)
      · exact absurd h (by decide +kernel)
      · exact absurd h (by decide +kernel)
      · exact absurd (devIdle (by decide +kernel)) h
      · exact absurd (devIdle (by decide +kernel)) h
      · exact absurd h (by decide +kernel)
    · exact ⟨fun _ => rfl, fun _ => .inr (.inr (.inl (by decide +kernel)))⟩
  · revert y; decide +kernel

/-! ## Encoding and the machine -/

theorem witness_EncodingsRoundTrip :
    (WellFormed (.iadd noGuard .i32 true 1 2 (.reg 3)) = true ∧ isEvent (.iadd noGuard .i32 true 1 2 (.reg 3)) = false) ∧
    decode [0x8C004103, 0x01EF0C40, 0x00000000] = some (.iadd noGuard .i32 true 1 2 (.reg 3), []) := by decide

def isIdle : Taken → Bool
  | .idle => true
  | _ => false

theorem idle_cmd {t : Taken} (h : isIdle t = true) : t = .idle := by
  cases t <;> first | rfl | simp [isIdle] at h

def isNext : Host.Outcome State Fault Refusal → Bool
  | .next _ => true
  | _ => false

/-- A launch all of whose teams have ended, its function's queue full: its end would post an event. -/
def lastFull : State :=
  let s := (lab .fence).setLaunch 0 { (lab .fence).launch 0 with ended := 1 }
  { s.setFunc 0 ((eventState 16 []).func 0) with agenda := [.event (.launchEnd 0)] }

/-- Words that are no instruction, of a gang whose own acquire is in progress. -/
def heldWords : State :=
  { placeClause State.reset [0x00E00000] with flights := [(3, { gid := 2, team := 1, ctx := 0, core := 0, kind := .waitAcquire, quads := 1 })] }

theorem overfull_of {a b : State} (h : ∃ e ∈ b.funcs, (a.func e.1).waiting.length < e.2.waiting.length ∧ 4 ≤ e.2.eqlog2 ∧ e.2.eqlog2 ≤ 12 ∧
    2 ^ e.2.eqlog2 < (e.2.eqtail + 2 ^ 32 - e.2.eqhead % 2 ^ 32) % 2 ^ 32 + e.2.waiting.length) : Overfull a b := by
  obtain ⟨⟨n, f⟩, h, k⟩ := h
  exact ⟨n, f, h, k⟩

def stateOf : Host.Outcome State Fault Refusal → State
  | .next t => t
  | _ => .reset

theorem stateOf_next {o : Host.Outcome State Fault Refusal} (h : isNext o = true) : o = .next (stateOf o) := by
  cases o <;> first | rfl | simp [isNext] at h

theorem next_of {o : Host.Outcome State Fault Refusal} (h : isNext o = true) : ∃ t, o = .next t := by
  cases o <;> first | exact ⟨_, rfl⟩ | simp [isNext] at h

/-- A turn of each kind: none, an event, a function's without a command, a port's with an instruction and without, with words
that are no instruction, and of a stopped module. -/
theorem witness_StepsExecuteTheirTurn :
    (∃ t rest, (lab .fence).agenda = t :: rest ∧ t = .issue 0 0) ∧
    nextTurn (lab .fence) = some (.issue 0 0) ∧ (lab .fence).iluic.stopped = false ∧
    (∃ x, (((beginTurn (lab .fence)).core 0).port 0).issue = some x ∧ decode x.words = some (.fence, [])) ∧
    (let s := placeClause State.reset [0x00E00000]
     let c := { beginTurn s with cur := (0, 0) }
     ∃ x e, ((c.core 0).port 0).issue = some x ∧ decode x.words = none ∧ c.env? = some e ∧ acquireHolds c e.gid e.is.quads = false ∧
       Deliverable e .illop (e.active (guardOfWords x.words) &&& e.pres)) ∧
    (∀ t ∈ [Turn.event .moduleReset, .event (.eventPost 0), .command 0, .issue 0 1],
      let s := { lab .fence with agenda := [t], iluic := { (lab .fence).iluic with stopped := decide (t = .event (.eventPost 0)) } }
      nextTurn s = some t ∧ takeCommand (beginTurn s) 0 = .idle ∧ (((beginTurn s).core 0).port 1).issue = none) ∧
    (let b := beginTurn lastFull
     nextTurn lastFull = some (.event (.launchEnd 0)) ∧ fromOutside (.launchEnd 0) = false ∧
      ∃ u, exec (.launchEnd 0) b = .next u ∧ Overfull b u) ∧
    (let c := { beginTurn heldWords with cur := (0, 0) }
     c.env?.isSome = true ∧ ∀ e, c.env? = some e → acquireHolds c e.gid e.is.quads = true) := by
  have d : (placeClause State.reset [0x00E00000]).env?.isSome = true := by decide +kernel
  refine ⟨⟨_, _, rfl, rfl⟩, by decide +kernel, by decide +kernel, ⟨_, rfl, by decide +kernel⟩, ?_, ?_,
    ⟨by decide +kernel, rfl, _, stateOf_next (by decide +kernel), overfull_of (by decide +kernel)⟩, by decide +kernel, fun e h => ?_⟩
  · have k : ({ beginTurn (placeClause State.reset [0x00E00000]) with cur := (0, 0) } : State).env?.isSome = true := by decide +kernel
    exact ⟨placedIssue 2 [0x00E00000], _, by decide +kernel, by decide +kernel, env_of k, by decide +kernel, deliverable_of (by decide +kernel)⟩
  · intro t ht
    simp only [List.mem_cons, List.not_mem_nil, or_false] at ht
    rcases ht with rfl | rfl | rfl | rfl <;> exact ⟨by decide +kernel, idle_cmd (by decide +kernel), by decide +kernel⟩
  · have a : (match ({ beginTurn heldWords with cur := (0, 0) } : State).env? with
        | some e => acquireHolds { beginTurn heldWords with cur := (0, 0) } e.gid e.is.quads
        | none => true) = true := by decide +kernel
    rw [h] at a
    exact a

theorem witness_StepsNeverStop : State.reset.AgendaOk ∧ (lab .fence).AgendaOk := by
  refine ⟨fun i h => absurd h List.not_mem_nil, fun i h => ?_⟩
  have a : (lab .fence).agenda = [.issue 0 0] := by decide +kernel
  rw [a] at h
  simp at h

theorem witness_StepsKeepMemoryCanonical : State.reset.MemOk ∧ (lab iSt).MemOk ∧ ∃ t, step (lab iSt) = .next t :=
  ⟨by unfold State.MemOk; decide, by unfold State.MemOk; decide +kernel, next_of (by decide +kernel)⟩

end Sys2Proof.Tests
end

section
/-!
PROOF. Rounding a magnitude to a quantum (R73, R75): `roundAt` gives the integer the mode chooses.
-/
namespace Sys2Proof.Machine

/-! ## Signs -/

/-- The mode that does to a magnitude what `rm` does to its negative: RUP and RDN change places. -/
def mirror : Rnd → Rnd
  | .rup => .rdn
  | .rdn => .rup
  | rm => rm

theorem roundedTo_neg (rm : Rnd) (r : Nat) (u : ℝ) (k : Int) :
    RoundedTo rm r (-u) (-k) ↔ RoundedTo (mirror rm) r u k := by
  have hd : |(-u) - ((-k : Int) : ℝ)| = |u - k| := by
    rw [Int.cast_neg, ← neg_sub', abs_neg]
  cases rm with
  | rne => simp only [RoundedTo, mirror, hd, even_neg]
  | rna =>
    have hk : |((-k : Int) : ℝ)| = |(k : ℝ)| := by rw [Int.cast_neg, abs_neg]
    simp only [RoundedTo, mirror, hd, hk, abs_neg u]
  | rtz => simp only [RoundedTo, mirror, abs_neg, Int.cast_neg, neg_mul_neg]
  | rup => simp only [RoundedTo, mirror, Int.ceil_neg, neg_inj]
  | rdn => simp only [RoundedTo, mirror, Int.floor_neg, neg_inj]
  | sr => simp only [RoundedTo, mirror, abs_neg, Int.cast_neg, neg_mul_neg]

theorem roundsUp_neg (rm : Rnd) (m k r : Nat) : roundsUp rm true m k r = roundsUp (mirror rm) false m k r := by
  cases rm <;> rfl

theorem roundAt_neg (rm : Rnd) (m : Nat) (e q : Int) (r : Nat) :
    roundAt rm true m e q r = roundAt (mirror rm) false m e q r := by
  simp only [roundAt, roundsUp_neg]

/-! ## The choice between two neighbours -/

@[simp] theorem b2n_false : b2n false = 0 := rfl
@[simp] theorem b2n_true : b2n true = 1 := rfl

theorem b2n_le_one (b : Bool) : b2n b ≤ 1 := by cases b <;> decide

theorem floor_natCast_add {n : Nat} {f : ℝ} (h0 : 0 ≤ f) (h1 : f < 1) : ⌊(n : ℝ) + f⌋ = (n : Int) :=
  Int.floor_eq_iff.2 ⟨by simpa using h0, by simpa using h1⟩

/-- An integer is its own rounding in every mode. -/
theorem roundedTo_natCast (rm : Rnd) {r : Nat} (hr : r < 2 ^ 64) (n : Nat) : RoundedTo rm r (n : ℝ) (n : Int) := by
  have hsq : (0 : ℝ) ≤ n * n := mul_self_nonneg _
  cases rm with
  | sr =>
    have hdraw : r < 18446744073709551616 := hr
    simpa [RoundedTo, hdraw] using hsq
  | rtz => simpa [RoundedTo] using hsq
  | _ => simp [RoundedTo]

/-- When the mode takes the upper of the two neighbours of a magnitude whose fraction `f` is not zero, `odd` telling
whether the lower neighbour is odd. -/
def TakesUpper (rm : Rnd) (r : Nat) (odd : Prop) (f : ℝ) : Prop :=
  match rm with
  | .rne => 1 / 2 < f ∨ (f = 1 / 2 ∧ odd)
  | .rna => 1 / 2 ≤ f
  | .rtz | .rdn => False
  | .rup => True
  | .sr => 2 ^ 64 ≤ ⌊f * 2 ^ 64⌋ + (r : Int)

/-- The neighbour `TakesUpper` names is the one R73 and R75 choose. -/
theorem roundedTo_of_takesUpper {rm : Rnd} {r n : Nat} {f : ℝ} {up : Bool} (h0 : 0 < f) (h1 : f < 1)
    (h : up = true ↔ TakesUpper rm r (n % 2 = 1) f) : RoundedTo rm r ((n : ℝ) + f) ((n + b2n up : Nat) : Int) := by
  have hfl := floor_natCast_add (n := n) h0.le h1
  have habs : |(n : ℝ) + f| = n + f := abs_of_nonneg (by positivity)
  have hdist : |(n : ℝ) + f - ((n + b2n up : Nat) : Int)| = if up then 1 - f else f := by
    cases up
    · simp [abs_of_pos h0]
    · have hneg : (n : ℝ) + f - ((n + b2n true : Nat) : Int) < 0 := by simp; linarith
      rw [abs_of_neg hneg]
      simp
  cases rm with
  | rne =>
    simp only [RoundedTo, hdist]
    cases up with
    | false =>
      simp only [TakesUpper, Bool.false_eq_true, false_iff, not_or, not_lt, not_and, Nat.mod_two_ne_one] at h
      refine ⟨by simpa using h.1, fun e => ?_⟩
      simpa [Nat.even_iff] using h.2 (by simpa using e)
    | true =>
      simp only [TakesUpper, true_iff] at h
      refine ⟨?_, fun e => ?_⟩
      · rcases h with h | ⟨h, -⟩ <;> simp <;> linarith
      · rcases h with h | ⟨-, h⟩
        · simp at e; linarith
        · simpa [Int.even_add_one, Nat.odd_iff] using h
  | rna =>
    simp only [RoundedTo, hdist, habs]
    cases up with
    | false =>
      simp only [TakesUpper, Bool.false_eq_true, false_iff, not_le] at h
      exact ⟨by simpa using h.le, fun e => absurd e (by simpa using h.ne)⟩
    | true =>
      simp only [TakesUpper, true_iff] at h
      refine ⟨by simp; linarith, fun _ => ?_⟩
      rw [abs_of_nonneg (by positivity)]
      simp; linarith
  | rtz =>
    obtain rfl : up = false := by simpa [TakesUpper] using h
    simp only [RoundedTo, habs, hfl]
    exact ⟨by simp; positivity, by simp⟩
  | rup =>
    obtain rfl : up = true := h.2 trivial
    simp only [RoundedTo]
    refine (Int.ceil_eq_iff.2 ⟨?_, ?_⟩).symm <;> simp <;> linarith
  | rdn =>
    obtain rfl : up = false := by simpa [TakesUpper] using h
    simpa [RoundedTo] using hfl.symm
  | sr =>
    simp only [TakesUpper] at h
    simp only [RoundedTo, habs, hfl, Int.cast_natCast, add_sub_cancel_left]
    refine ⟨by positivity, ?_⟩
    rw [Int.abs_natCast]
    cases up with
    | false => rw [if_neg (by simpa using h)]; simp
    | true => rw [if_pos (h.1 rfl)]; simp

/-! ## The model's choice -/

/-- The draw of R75 in the model's integers: the discarded bits, scaled to 64 places, and the draw carry over. -/
theorem srUp_iff (m k r : Nat) : srUp m k r = true ↔ 2 ^ 64 ≤ m % 2 ^ k * 2 ^ 64 / 2 ^ k + r := by
  by_cases hk : 64 < k
  · obtain ⟨j, rfl⟩ := Nat.exists_eq_add_of_lt hk
    have hj : 64 + j + 1 = 64 + (j + 1) := by omega
    simp only [srUp, gt_iff_lt, hk, if_true, decide_eq_true_eq, Nat.sub_self, pow_zero, Nat.div_one]
    rw [hj, Nat.add_sub_cancel_left, pow_add, Nat.mul_comm (2 ^ 64), Nat.mul_div_mul_right _ _ (by positivity)]
  · obtain ⟨j, hj⟩ := Nat.exists_eq_add_of_le (Nat.not_lt.1 hk)
    have h64 : 2 ^ 64 = 2 ^ k * 2 ^ j := by rw [← pow_add, ← hj]
    have hsub : 64 - k = j := by omega
    simp only [srUp, gt_iff_lt, hk, if_false, decide_eq_true_eq, hsub]
    rw [h64, Nat.mul_left_comm, Nat.mul_div_cancel_left _ (by positivity)]
    have hle : m % 2 ^ k ≤ 2 ^ k := (Nat.mod_lt _ (by positivity)).le
    generalize m % 2 ^ k = d at hle ⊢
    calc 2 ^ k ≤ d + r / 2 ^ j ↔ 2 ^ k - d ≤ r / 2 ^ j := by omega
      _ ↔ (2 ^ k - d) * 2 ^ j ≤ r := Nat.le_div_iff_mul_le (by positivity)
      _ ↔ 2 ^ k * 2 ^ j ≤ d * 2 ^ j + r := by rw [Nat.sub_mul]; omega

/-- Where something is discarded, `roundsUp` takes the upper neighbour exactly when the mode does. -/
theorem roundsUp_iff (rm : Rnd) {m k r : Nat} (hk : 0 < k) (hm : m % 2 ^ k ≠ 0) :
    roundsUp rm false m k r = true ↔
      TakesUpper rm r (m / 2 ^ k % 2 = 1) (((m % 2 ^ k : Nat) : ℝ) / 2 ^ k) := by
  have hpow : (2 : ℝ) ^ k = 2 * (2 ^ (k - 1) : Nat) := by
    rw [Nat.cast_pow, Nat.cast_ofNat, ← pow_succ', Nat.sub_add_cancel hk]
  have hhalf : (0 : ℝ) < (2 ^ (k - 1) : Nat) := by positivity
  simp only [roundsUp, hm, if_false]
  cases rm with
  | rne =>
    simp only [TakesUpper, hpow, lt_div_iff₀ (mul_pos two_pos hhalf), div_eq_iff (mul_pos two_pos hhalf).ne',
      one_div, inv_mul_cancel_left₀ (two_ne_zero' ℝ), Nat.cast_lt, Nat.cast_inj]
    simp
  | rna =>
    simp only [TakesUpper, hpow, le_div_iff₀ (mul_pos two_pos hhalf), one_div,
      inv_mul_cancel_left₀ (two_ne_zero' ℝ), Nat.cast_le, decide_eq_true_eq]
  | rtz => simp [TakesUpper]
  | rup => simp [TakesUpper]
  | rdn => simp [TakesUpper]
  | sr =>
    have hfloor : ⌊((m % 2 ^ k : Nat) : ℝ) / 2 ^ k * 2 ^ 64⌋ = ((m % 2 ^ k * 2 ^ 64 / 2 ^ k : Nat) : Int) := by
      rw [div_mul_eq_mul_div, ← Int.natCast_floor_eq_floor (by positivity), ← Nat.floor_div_eq_div (K := ℝ)]
      rw [Nat.cast_mul, Nat.cast_pow, Nat.cast_pow, Nat.cast_ofNat]
    simp only [TakesUpper, hfloor, srUp_iff]
    norm_cast

/-- A magnitude rounded at a quantum is the integer the mode chooses. -/
theorem roundedTo_roundAt_pos (rm : Rnd) (m : Nat) (e q : Int) {r : Nat} (hr : r < 2 ^ 64) :
    RoundedTo rm r ((m : ℝ) * 2 ^ e / 2 ^ q) (roundAt rm false m e q r : Int) := by
  rw [mul_div_assoc, ← zpow_sub₀ (two_ne_zero' ℝ)]
  by_cases hq : q ≤ e
  · have hexact : (m : ℝ) * 2 ^ (e - q) = ((m * 2 ^ (e - q).toNat : Nat) : ℝ) := by
      obtain ⟨j, hj⟩ := Int.le.dest hq
      rw [show e - q = (j : Int) by omega]
      simp
    rw [hexact, roundAt, if_pos hq]
    exact roundedTo_natCast rm hr _
  · obtain ⟨k, hk⟩ := Int.le.dest (Int.not_le.1 hq).le
    have hkpos : 0 < k := by omega
    have hsplit : (m : ℝ) * 2 ^ (e - q) = (m / 2 ^ k : Nat) + ((m % 2 ^ k : Nat) : ℝ) / 2 ^ k := by
      rw [show e - q = -(k : Int) by omega, zpow_neg, zpow_natCast, ← div_eq_mul_inv]
      rw [div_eq_iff (by positivity), add_mul, div_mul_cancel₀ _ (by positivity)]
      exact_mod_cast (Nat.div_add_mod' m (2 ^ k)).symm
    rw [hsplit, roundAt, if_neg hq, show (q - e).toNat = k by omega]
    by_cases hm : m % 2 ^ k = 0
    · simpa [roundsUp, hm] using roundedTo_natCast rm hr (m / 2 ^ k)
    · have hlt : m % 2 ^ k < 2 ^ k := Nat.mod_lt _ (by positivity)
      exact roundedTo_of_takesUpper (div_pos (by exact_mod_cast Nat.pos_of_ne_zero hm) (by positivity))
        ((div_lt_one (by positivity)).2 (by exact_mod_cast hlt)) (roundsUp_iff rm hkpos hm)

/-! ## Numbers of either sign -/

/-- A magnitude with a sign. -/
def withSign {α : Type} [Neg α] (neg : Bool) (a : α) : α := if neg then -a else a

theorem cast_ratOf (neg : Bool) (m : Nat) (e : Int) :
    ((ratOf neg m e : ℚ) : ℝ) = withSign neg ((m : ℝ) * 2 ^ e) := by
  cases neg <;> simp [ratOf, withSign]

theorem abs_withSign (neg : Bool) {a : ℝ} (h : 0 ≤ a) : |withSign neg a| = a := by
  cases neg <;> simp [withSign, abs_of_nonneg h]

theorem abs_cast_withSign (neg : Bool) (n : Nat) : |((withSign neg (n : Int) : Int) : ℝ)| = n := by
  cases neg <;> simp [withSign]

/-- A number rounded at a quantum is the integer the mode chooses (R73, R75). -/
theorem roundedTo_roundAt (rm : Rnd) (neg : Bool) (m : Nat) (e q : Int) {r : Nat} (hr : r < 2 ^ 64) :
    RoundedTo rm r (withSign neg ((m : ℝ) * 2 ^ e) / 2 ^ q) (withSign neg (roundAt rm neg m e q r : Int)) := by
  cases neg with
  | false => exact roundedTo_roundAt_pos rm m e q hr
  | true =>
    simp only [withSign, if_true, neg_div, roundAt_neg, roundedTo_neg]
    exact roundedTo_roundAt_pos (mirror rm) m e q hr

end Sys2Proof.Machine
end

section
/-!
PROOF. Integer types and FX64 (R68, R76, R77): the code of a number within its type's bounds, and conversions.
-/
namespace Sys2Proof.Machine

theorem wrapN_cast (w : Nat) (v : Int) : (wrapN w v : Int) = v % 2 ^ w := by
  rw [wrapN, Int.toNat_of_nonneg (Int.emod_nonneg _ (by positivity))]
  push_cast
  rfl

theorem wrapN_lt (w : Nat) (v : Int) : wrapN w v < 2 ^ w := by
  have h : (wrapN w v : Int) < 2 ^ w := wrapN_cast w v ▸ Int.emod_lt_of_pos _ (by positivity)
  exact_mod_cast h

/-- A signed number of `w` bits is read back from its code. -/
theorem sgn_wrapN {w : Nat} {v : Int} (hw : 0 < w) (hlo : -2 ^ (w - 1) ≤ v) (hhi : v < 2 ^ (w - 1)) :
    sgn w (wrapN w v) = v := by
  have hpow : (2 : Int) ^ w = 2 * 2 ^ (w - 1) := by rw [← pow_succ', Nat.sub_add_cancel hw]
  have hlt : (wrapN w v < 2 ^ (w - 1)) ↔ v % 2 ^ w < 2 ^ (w - 1) := by
    rw [← wrapN_cast]; exact_mod_cast Iff.rfl
  rw [sgn, wrapN_cast]
  rcases lt_or_ge v 0 with hv | hv
  · have hmod : v % 2 ^ w = v + 2 ^ w := by
      rw [← Int.add_emod_right, Int.emod_eq_of_lt] <;> omega
    rw [if_neg (by rw [hlt, hmod]; omega), hmod]
    omega
  · have hmod : v % 2 ^ w = v := Int.emod_eq_of_lt hv (by omega)
    rw [if_pos (by rw [hlt, hmod]; exact hhi), hmod]

theorem width_pos (t : Ty) : 0 < t.width := by cases t <;> decide

/-- A number within a type's range is read back from its code. -/
theorem asInt_wrapN {t : Ty} {v : Int} (hlo : (intRange t).1 ≤ v) (hhi : v ≤ (intRange t).2) :
    asInt t (wrapN t.width v) = v := by
  unfold asInt
  unfold intRange at hlo hhi
  cases h : t.signed with
  | true =>
    simp only [h, if_true] at hlo hhi ⊢
    exact sgn_wrapN (width_pos t) hlo (by omega)
  | false =>
    simp only [h, Bool.false_eq_true, if_false] at hlo hhi ⊢
    rw [Nat.mod_eq_of_lt (wrapN_lt _ _), wrapN_cast, Int.emod_eq_of_lt hlo (by omega)]

theorem intBounds_eq (t : Ty) : intBounds t = boundsOf t := by cases t <;> rfl

theorem boundsOf_le (t : Ty) : (boundsOf t).1 ≤ (boundsOf t).2 := by cases t <;> decide

theorem boundsOf_within_intRange (t : Ty) :
    (intRange t).1 ≤ (boundsOf t).1 ∧ (boundsOf t).2 ≤ (intRange t).2 := by cases t <;> decide

/-- A number between the bounds of its destination is read back from its code. -/
theorem asInt_wrapN_of_bounds {t : Ty} {v : Int} (hlo : (boundsOf t).1 ≤ v) (hhi : v ≤ (boundsOf t).2) :
    asInt t (wrapN t.width v) = v :=
  asInt_wrapN ((boundsOf_within_intRange t).1.trans hlo) (hhi.trans (boundsOf_within_intRange t).2)

theorem clampTo_eq {lo hi : Int} (h : lo ≤ hi) (v : Int) :
    clampTo lo hi v = (max lo (min hi v), decide (v < lo ∨ hi < v)) := by
  unfold clampTo
  split_ifs with h1 h2
  · simp [h1, h1.le]
  · simp [h2, h2.le, h]
  · simp [h1, h2, not_lt.1 h1, not_lt.1 h2]

/-! ## Conversion -/

theorem exactMul_undef (x : Exact) : exactMul .undef x = .undef := by cases x <;> rfl

theorem exactMul_inf_two_zpow (neg : Bool) (k : Int) : exactMul (.inf neg) (.num false (2 ^ k)) = .inf neg := by
  have : (2 : ℚ) ^ k ≠ 0 := by positivity
  simp [exactMul, this]

/-- A finite value in units of `2^q`. -/
theorem exactMul_fin_two_zpow (neg : Bool) (m : Nat) (e q : Int) :
    exactMul (exactOf (.fin neg m e)) (.num false (2 ^ (-q))) = .num neg (ratOf neg m (e - q)) := by
  simp only [exactMul, exactOf, ratOf, Bool.bne_false, mul_assoc, ← zpow_add₀ (two_ne_zero' ℚ), sub_eq_add_neg]

theorem toIntCode_inf (t : Ty) (rm : Rnd) (r : Nat) (neg : Bool) :
    toIntCode t rm r (.inf neg) =
      (wrapN t.width (if neg then (boundsOf t).1 else (boundsOf t).2), { ovf := true }) := by
  simp only [toIntCode, intBounds_eq]

theorem toIntCode_fin (t : Ty) (rm : Rnd) (r : Nat) (neg : Bool) (m : Nat) (e : Int) :
    toIntCode t rm r (.fin neg m e) =
      let k : Int := withSign neg (roundAt rm neg m e 0 r : Int)
      (wrapN t.width (max (boundsOf t).1 (min (boundsOf t).2 k)),
        { ovf := decide (k < (boundsOf t).1 ∨ (boundsOf t).2 < k) }) := by
  simp only [toIntCode, intBounds_eq, clampTo_eq (boundsOf_le t), withSign]
  rfl

/-- A conversion into an integer type or FX64, its source in units of the destination (R76, R77). -/
theorem convHolds_toIntCode {t : Ty} (ht : floatFields t = none) (rm : Rnd) (sat : Bool) {r : Nat} (hr : r < 2 ^ 64)
    (x : FVal) : ConvHolds t rm sat r (exactOf x) (toIntCode t rm r x).1 (toIntCode t rm r x).2 := by
  have hb := boundsOf_le t
  simp only [ConvHolds, ht, Option.isSome_none, Bool.false_eq_true, if_false]
  cases x with
  | nan => exact ⟨by simp [toIntCode], rfl, rfl⟩
  | inf neg =>
    rw [toIntCode_inf]
    refine ⟨wrapN_lt _ _, asInt_wrapN_of_bounds ?_ ?_, rfl⟩ <;> cases neg <;> simp [hb]
  | fin neg m e =>
    rw [toIntCode_fin]
    refine ⟨wrapN_lt _ _, withSign neg (roundAt rm neg m e 0 r : Int), ?_, asInt_wrapN_of_bounds ?_ ?_, rfl⟩
    · simpa [cast_ratOf] using roundedTo_roundAt rm neg m e 0 hr
    · exact le_max_left _ _
    · exact max_le hb (min_le_left _ _)

theorem convHolds_convQ_int {dst : Ty} (hd : floatFields dst = none) {q : Int} (hq : q = 0 ∨ dst = .fx64) (rm : Rnd)
    (sat : Bool) {r : Nat} (hr : r < 2 ^ 64) (x : FVal) :
    ConvHolds dst rm sat r (exactMul (exactOf x) (.num false (2 ^ (-q)))) (convQ dst q rm sat r x).1
      (convQ dst q rm sat r x).2 := by
  simp only [convQ, hd, Option.isSome_none, Bool.false_eq_true, if_false]
  cases x with
  | nan => rw [exactOf, exactMul_undef]; exact convHolds_toIntCode hd rm sat hr .nan
  | inf neg => rw [exactOf, exactMul_inf_two_zpow]; exact convHolds_toIntCode hd rm sat hr (.inf neg)
  | fin neg m e =>
    have he : (if dst = .fx64 then e - q else e) = e - q := by
      rcases hq with rfl | h
      · simp
      · rw [if_pos h]
    rw [exactMul_fin_two_zpow]
    simp only [he]
    exact convHolds_toIntCode hd rm sat hr (.fin neg m (e - q))

end Sys2Proof.Machine
end

section
/-!
PROOF. Floating destinations (R65, R73, R76): the code of a magnitude a format holds, the quantum of a binade, and the
rounding into a format with its overflow.
-/
namespace Sys2Proof.Machine

/-! ## The tables of R65 -/

/-- What the model's tables say of a format with `eb` exponent bits, `mb` fraction bits and a bias: its span and its
largest finite magnitude are those of its fields, the codes above that magnitude being its infinity and NaNs. -/
structure Format (t : Ty) (eb mb : Nat) (bias : Int) : Prop where
  fields : floatFields t = some (eb, mb, bias)
  span : ∃ top, t.floatSpan = some (mb + 1, 1 - bias - mb, top)
  least_le : 1 - bias - mb ≤ 0
  exponentBits : 0 < eb
  lead : 2 ^ mb ≤ (largest t).1 ∧ (largest t).1 < 2 ^ (mb + 1)
  exponent : 1 ≤ (largest t).2 + bias + mb ∧ (largest t).2 + bias + mb < 2 ^ eb
  belowInf : hasInf t = true → (largest t).2 + bias + mb + 1 < 2 ^ eb
  belowNaN : t = .e4m3 → mb = 3 ∧ (largest t).2 + bias + mb = 15 ∧ (largest t).1 = 14
  container : t = .tf32 → 1 + eb + mb = 19
  noNaN : canonicalNaN t = 0 ↔ t = .e3m2 ∨ t = .e2m3 ∨ t = .e2m1

theorem format_of_fields {t : Ty} {eb mb : Nat} {bias : Int} (h : floatFields t = some (eb, mb, bias)) :
    Format t eb mb bias := by
  cases t <;> simp only [floatFields, reduceCtorEq, Option.some.injEq, Prod.mk.injEq] at h <;>
    obtain ⟨rfl, rfl, rfl⟩ := h <;>
    exact ⟨rfl, ⟨_, rfl⟩, by decide, by decide, by decide, by decide, by decide, by decide, by decide, by decide⟩

variable {t : Ty} {eb mb : Nat} {bias : Int}

/-! ## Codes -/

/-- Sign, exponent field and fraction field side by side (R65). -/
def floatCode (eb mb : Nat) (neg : Bool) (E M : Nat) : Nat := b2n neg * 2 ^ (eb + mb) + (E * 2 ^ mb + M)

section
variable (neg : Bool) {E M : Nat} (hE : E < 2 ^ eb) (hM : M < 2 ^ mb)
include hE hM

theorem fields_lt : E * 2 ^ mb + M < 2 ^ (eb + mb) := by
  rw [pow_add]
  calc E * 2 ^ mb + M < E * 2 ^ mb + 2 ^ mb := by omega
    _ = (E + 1) * 2 ^ mb := by ring
    _ ≤ 2 ^ eb * 2 ^ mb := Nat.mul_le_mul_right _ hE

theorem floatCode_lt : floatCode eb mb neg E M < 2 ^ (1 + eb + mb) := by
  have hlow := fields_lt hE hM
  have h2 : 2 ^ (1 + eb + mb) = 2 ^ (eb + mb) + 2 ^ (eb + mb) := by ring
  unfold floatCode
  cases neg <;> simp <;> omega

theorem floatCode_sign : (floatCode eb mb neg E M).testBit (eb + mb) = neg := by
  rw [floatCode, Nat.mul_comm, Nat.testBit_two_pow_mul_add _ (fields_lt hE hM), if_neg (lt_irrefl _), Nat.sub_self]
  cases neg <;> rfl

theorem floatCode_exponent : floatCode eb mb neg E M / 2 ^ mb % 2 ^ eb = E := by
  have hsplit : floatCode eb mb neg E M = 2 ^ mb * (2 ^ eb * b2n neg + E) + M := by unfold floatCode; ring
  rw [hsplit, Nat.mul_add_div (by positivity), Nat.div_eq_of_lt hM, Nat.add_zero, Nat.mul_add_mod, Nat.mod_eq_of_lt hE]

omit hE in
theorem floatCode_fraction : floatCode eb mb neg E M % 2 ^ mb = M := by
  have hsplit : floatCode eb mb neg E M = 2 ^ mb * (2 ^ eb * b2n neg + E) + M := by unfold floatCode; ring
  rw [hsplit, Nat.mul_add_mod, Nat.mod_eq_of_lt hM]

/-- The fields of a finite code give its sign and magnitude. -/
theorem codes_of_fields (F : Format t eb mb bias)
    (hinf : hasInf t = true → E ≠ 2 ^ eb - 1) (hnan : ¬ (t = .e4m3 ∧ E = 15 ∧ M = 7)) :
    Codes t neg
      (if E = 0 then (M : ℝ) * 2 ^ (1 - bias - mb : Int) else ((2 ^ mb + M : Nat) : ℝ) * 2 ^ ((E : Int) - bias - mb))
      (if t = .tf32 then floatCode eb mb neg E M * 2 ^ 13 else floatCode eb mb neg E M) := by
  have hlt := floatCode_lt neg hE hM
  have hread (full : Nat) : (if t = .tf32 then (if t = .tf32 then full * 2 ^ 13 else full) / 2 ^ 13
      else if t = .tf32 then full * 2 ^ 13 else full) = full := by
    split_ifs
    · exact Nat.mul_div_cancel _ (by positivity)
    · rfl
  have hinf' : (hasInf t && E == 2 ^ eb - 1) = false := by
    cases h : hasInf t with
    | false => rfl
    | true => simpa using hinf h
  refine ⟨?_, ?_⟩
  · simp only [F.fields]
    split_ifs with ht
    · rw [F.container ht] at hlt
      exact ⟨by omega, Nat.mul_mod_left _ _⟩
    · exact hlt
  · simp only [floatVal, F.fields, hread, floatCode_sign neg hE hM, floatCode_exponent neg hE hM,
      floatCode_fraction neg hM, hinf', hnan, Bool.false_eq_true, if_false]
    by_cases h0 : E = 0
    · simp only [h0, if_true]
      exact ⟨_, _, rfl, rfl⟩
    · simp only [h0, if_false]
      exact ⟨_, _, rfl, rfl⟩

end

/-! ## Normal form -/

theorem bitLen_le_iff {n j : Nat} : bitLen n ≤ j ↔ n < 2 ^ j := by
  unfold bitLen
  split_ifs with h
  · simp [h]
  · rw [Nat.succ_le_iff, Nat.log2_lt h]

theorem lt_bitLen_iff {n j : Nat} : j < bitLen n ↔ 2 ^ j ≤ n := by
  rw [← not_le, bitLen_le_iff, not_lt]

theorem bitLen_pos {n : Nat} (h : n ≠ 0) : 0 < bitLen n := lt_bitLen_iff.2 (Nat.one_le_iff_ne_zero.2 h)

@[simp] theorem shiftN_natCast (n k : Nat) : shiftN n (k : Int) = n * 2 ^ k := by simp [shiftN]

/-- The normal form `packFloat` gives a magnitude: a significand of at most `mb + 1` bits, all of them used unless the
exponent is the format's least. -/
structure NormalForm (qmin : Int) (mb n : Nat) (q : Int) (m' : Nat) (q' : Int) : Prop where
  value_eq : (m' : ℝ) * 2 ^ q' = n * 2 ^ q
  lt : m' < 2 ^ (mb + 1)
  least : qmin ≤ q'
  subnormal : m' < 2 ^ mb → q' = qmin ∨ m' = 0

/-- A significand of at most `mb + 1` bits is shifted up. -/
theorem normalForm_shift {qmin q q' : Int} {n j : Nat} (h0 : n ≠ 0) (hq' : q' = max qmin (q + bitLen n - (mb + 1)))
    (hj : q' + j = q) : NormalForm qmin mb n q (n * 2 ^ j) q' := by
  have hL := bitLen_pos h0
  refine ⟨?_, ?_, hq' ▸ le_max_left _ _, fun hsmall => .inl ?_⟩
  · rw [← hj, zpow_add₀ two_ne_zero, zpow_natCast]
    push_cast
    ring
  · calc n * 2 ^ j < 2 ^ bitLen n * 2 ^ j := Nat.mul_lt_mul_of_pos_right (bitLen_le_iff.1 le_rfl) (by positivity)
      _ = 2 ^ (bitLen n + j) := (pow_add _ _ _).symm
      _ ≤ 2 ^ (mb + 1) := Nat.pow_le_pow_right two_pos (by omega)
  · by_contra hne
    have hfull : bitLen n - 1 + j = mb := by omega
    have hlead : 2 ^ (bitLen n - 1) ≤ n := lt_bitLen_iff.1 (by omega)
    have : 2 ^ mb ≤ n * 2 ^ j := by
      rw [← hfull, pow_add]
      exact Nat.mul_le_mul_right _ hlead
    omega

/-- A carry out of the significand moves to the next binade. -/
theorem normalForm_carry {qmin q : Int} (hq : qmin ≤ q) : NormalForm qmin mb (2 ^ (mb + 1)) q (2 ^ mb) (q + 1) := by
  refine ⟨?_, Nat.pow_lt_pow_right one_lt_two (by omega), by omega, fun h => absurd h (lt_irrefl _)⟩
  rw [zpow_add₀ two_ne_zero]
  push_cast
  ring

theorem normalForm_packFloat {qmin q : Int} {n : Nat} (hq : qmin ≤ q) (hn : n ≤ 2 ^ (mb + 1)) :
    NormalForm qmin mb n q (shiftN n (q - max qmin (q + bitLen n - (mb + 1))))
      (max qmin (q + bitLen n - (mb + 1))) := by
  rcases eq_or_ne n 0 with rfl | h0
  · have hzero : ∀ k, shiftN 0 k = 0 := fun k => by simp [shiftN]
    exact ⟨by simp [hzero], by simp [hzero], le_max_left _ _, fun _ => .inr (hzero _)⟩
  rcases hn.lt_or_eq with hlt | rfl
  · have hle : bitLen n ≤ mb + 1 := bitLen_le_iff.2 hlt
    obtain ⟨j, hj⟩ := Int.le.dest (show max qmin (q + bitLen n - (mb + 1)) ≤ q by omega)
    rw [show q - max qmin (q + bitLen n - (mb + 1)) = (j : Int) by omega, shiftN_natCast]
    exact normalForm_shift h0 rfl hj
  · have hlen : bitLen (2 ^ (mb + 1)) = mb + 2 :=
      le_antisymm (bitLen_le_iff.2 (Nat.pow_lt_pow_right one_lt_two (by omega))) (lt_bitLen_iff.2 le_rfl)
    have hq' : max qmin (q + bitLen (2 ^ (mb + 1)) - (mb + 1)) = q + 1 := by omega
    have hhalf : shiftN (2 ^ (mb + 1)) (-1) = 2 ^ mb := by simp [shiftN, pow_succ]
    rw [hq', sub_add_cancel_left, hhalf]
    exact normalForm_carry hq

/-! ## Magnitudes a format holds -/

/-- Magnitudes whose significands use all their bits are in the order of exponent, then significand. -/
theorem le_of_mul_zpow_le {m n : Nat} {p q : Int} (hm : 2 ^ mb ≤ m) (hn : n < 2 ^ (mb + 1))
    (h : (m : ℝ) * 2 ^ p ≤ n * 2 ^ q) : p ≤ q ∧ (p = q → m ≤ n) := by
  refine ⟨?_, ?_⟩
  · by_contra hlt
    have hbinade : (2 : ℝ) ^ (q + 1) ≤ 2 ^ p := zpow_le_zpow_right₀ one_le_two (by omega)
    have hsig : (n : ℝ) < 2 * m := by
      have : n < 2 * m := by rw [pow_succ] at hn; omega
      exact_mod_cast this
    refine lt_irrefl ((n : ℝ) * 2 ^ q) ?_
    calc (n : ℝ) * 2 ^ q < 2 * m * 2 ^ q := mul_lt_mul_of_pos_right hsig (by positivity)
      _ = m * 2 ^ (q + 1) := by rw [zpow_add_one₀ two_ne_zero]; ring
      _ ≤ m * 2 ^ p := mul_le_mul_of_nonneg_left hbinade (by positivity)
      _ ≤ n * 2 ^ q := h
  · rintro rfl
    rw [mul_le_mul_iff_left₀ (by positivity)] at h
    exact_mod_cast h

/-- A significand below the leading bit stands in the fraction field of exponent 0. -/
theorem codes_subnormal (F : Format t eb mb bias) (neg : Bool) {m : Nat} (hm : m < 2 ^ mb) :
    Codes t neg ((m : ℝ) * 2 ^ (1 - bias - mb : Int))
      (if t = .tf32 then floatCode eb mb neg 0 m * 2 ^ 13 else floatCode eb mb neg 0 m) := by
  have hinf : 1 < 2 ^ eb := Nat.one_lt_two_pow F.exponentBits.ne'
  simpa using codes_of_fields neg (E := 0) (by positivity) hm F (fun _ => by omega) (by simp)

/-- A significand with its leading bit, up to the format's largest magnitude. -/
theorem codes_normal (F : Format t eb mb bias) (neg : Bool) {m : Nat} {q : Int} (hlo : 2 ^ mb ≤ m)
    (hhi : m < 2 ^ (mb + 1)) (hq : 1 - bias - mb ≤ q) (htop : (m : ℝ) * 2 ^ q ≤ topOf t) :
    Codes t neg ((m : ℝ) * 2 ^ q)
      (if t = .tf32 then floatCode eb mb neg (q + bias + mb).toNat (m - 2 ^ mb) * 2 ^ 13
        else floatCode eb mb neg (q + bias + mb).toNat (m - 2 ^ mb)) := by
  obtain ⟨j, hj⟩ := Int.le.dest hq
  obtain ⟨M, rfl⟩ := Nat.exists_eq_add_of_le hlo
  obtain ⟨hexp, hsig⟩ := le_of_mul_zpow_le hlo F.lead.2 htop
  have hE : (q + bias + mb).toNat = j + 1 := by omega
  have hpow : ((2 ^ eb : Nat) : Int) = 2 ^ eb := by push_cast; rfl
  have hbound : j + 1 < 2 ^ eb := by have := F.exponent.2; omega
  have hinf (h : hasInf t = true) : j + 1 ≠ 2 ^ eb - 1 := by have := F.belowInf h; omega
  have hnan : ¬ (t = .e4m3 ∧ j + 1 = 15 ∧ M = 7) := by
    rintro ⟨h, hE15, hM7⟩
    obtain ⟨rfl, h15, h14⟩ := F.belowNaN h
    have := hsig (by omega)
    omega
  have hcode := codes_of_fields neg hbound (M := M) (by rw [pow_succ] at hhi; omega) F hinf hnan
  rw [if_neg (Nat.succ_ne_zero j), show ((j + 1 : Nat) : Int) - bias - mb = q by omega] at hcode
  rwa [hE, Nat.add_sub_cancel_left]

/-- `packFloat` gives the code of every magnitude up to the format's largest that it holds, `2^(mb+1)` included. -/
theorem codes_packFloat (F : Format t eb mb bias) (neg : Bool) {n : Nat} {q : Int} (hq : 1 - bias - mb ≤ q)
    (hn : n ≤ 2 ^ (mb + 1)) (htop : (n : ℝ) * 2 ^ q ≤ topOf t) :
    Codes t neg ((n : ℝ) * 2 ^ q) (packFloat t neg n q) := by
  obtain ⟨hval, hlt, hleast, hsub⟩ := normalForm_packFloat hq hn
  simp only [packFloat, F.fields]
  generalize max (1 - bias - mb) (q + bitLen n - (mb + 1)) = q' at *
  generalize shiftN n (q - q') = m' at *
  rw [← hval] at htop ⊢
  by_cases hm : m' < 2 ^ mb
  · have heq : (m' : ℝ) * 2 ^ q' = m' * 2 ^ (1 - bias - mb : Int) := by
      rcases hsub hm with rfl | rfl
      · rfl
      · simp
    simpa [floatCode, hm, heq] using codes_subnormal F neg hm
  · rw [if_neg hm]
    exact codes_normal F neg (not_lt.1 hm) hlt hleast htop

theorem codes_topOf (F : Format t eb mb bias) (neg : Bool) :
    Codes t neg (topOf t) (packFloat t neg (largest t).1 (largest t).2) :=
  codes_packFloat F neg (by have := F.exponent.1; omega) F.lead.2.le le_rfl

theorem topOf_nonneg (t : Ty) : 0 ≤ topOf t := by unfold topOf; positivity

theorem codes_zero (F : Format t eb mb bias) (neg : Bool) : Codes t neg 0 (packFloat t neg 0 0) := by
  simpa using codes_packFloat F neg (n := 0) F.least_le (by simp) (by simpa using topOf_nonneg t)

/-! ## Rounding into a format -/

/-- The binade of a magnitude. -/
theorem log_mul_zpow {m : Nat} (hm : m ≠ 0) (e : Int) : Int.log 2 ((m : ℝ) * 2 ^ e) = e + bitLen m - 1 := by
  have hpos : (0 : ℝ) < (m : ℝ) * 2 ^ e := mul_pos (by exact_mod_cast Nat.pos_of_ne_zero hm) (by positivity)
  obtain ⟨j, hj⟩ := Nat.exists_eq_add_of_lt (bitLen_pos hm)
  have hlo : (2 : ℝ) ^ j ≤ m := by exact_mod_cast lt_bitLen_iff.1 (show j < bitLen m by omega)
  have hhi : (m : ℝ) < 2 ^ (j + 1) := by exact_mod_cast bitLen_le_iff.1 (show bitLen m ≤ j + 1 by omega)
  have hexp : e + bitLen m - 1 = j + e := by omega
  rw [hexp]
  refine le_antisymm (Int.lt_add_one_iff.1 ((Int.lt_zpow_iff_log_lt one_lt_two hpos).1 ?_))
    ((Int.zpow_le_iff_le_log one_lt_two hpos).1 ?_)
  · rw [Nat.cast_ofNat, add_right_comm, zpow_add₀ two_ne_zero]
    exact mul_lt_mul_of_pos_right (by exact_mod_cast hhi) (by positivity)
  · rw [Nat.cast_ofNat, zpow_add₀ two_ne_zero, zpow_natCast]
    exact mul_le_mul_of_nonneg_right hlo (by positivity)

theorem quantum_eq (F : Format t eb mb bias) (m : Nat) (e : Int) :
    quantum t m e = max (1 - bias - mb) (e + bitLen m - ((mb + 1 : Nat) : Int)) := by
  obtain ⟨top, h⟩ := F.span
  simp [quantum, h]

/-- A magnitude rounded at the quantum of its binade has at most `mb + 1` bits, or is the next power of two. -/
theorem roundAt_le {m : Nat} {e q : Int} {p : Nat} (h : e + bitLen m - p ≤ q) (rm : Rnd) (neg : Bool) (r : Nat) :
    roundAt rm neg m e q r ≤ 2 ^ p := by
  have hm : m < 2 ^ bitLen m := bitLen_le_iff.1 le_rfl
  unfold roundAt
  split_ifs with hq
  · calc m * 2 ^ (e - q).toNat ≤ 2 ^ bitLen m * 2 ^ (e - q).toNat := Nat.mul_le_mul_right _ hm.le
      _ = 2 ^ (bitLen m + (e - q).toNat) := (pow_add _ _ _).symm
      _ ≤ 2 ^ p := Nat.pow_le_pow_right two_pos (by omega)
  · have hdiv : m / 2 ^ (q - e).toNat < 2 ^ p := by
      rw [Nat.div_lt_iff_lt_mul (by positivity), ← pow_add]
      exact hm.trans_le (Nat.pow_le_pow_right two_pos (by omega))
    have := b2n_le_one (roundsUp rm neg m (q - e).toNat r)
    simp only
    omega

theorem beyond_iff (t : Ty) (n : Nat) (q : Int) : beyond t n q = true ↔ topOf t < (n : ℝ) * 2 ^ q := by
  obtain ⟨i, hi⟩ := Int.le.dest (min_le_left q (largest t).2)
  obtain ⟨j, hj⟩ := Int.le.dest (min_le_right q (largest t).2)
  simp only [beyond, decide_eq_true_eq, topOf]
  generalize min q (largest t).2 = b at *
  rw [← hi, ← hj, zpow_add₀ two_ne_zero, zpow_add₀ two_ne_zero, mul_left_comm, mul_left_comm (n : ℝ),
    mul_lt_mul_iff_right₀ (by positivity), add_sub_cancel_left, add_sub_cancel_left]
  norm_cast

/-- Rounding a number other than zero into a format (R73, R76, R162). -/
theorem floatHolds_roundFloat (F : Format t eb mb bias) (rm : Rnd) (sat : Bool) {r : Nat} (hr : r < 2 ^ 64) (neg : Bool)
    {m : Nat} (hm : m ≠ 0) (e : Int) :
    FloatHolds t rm sat r neg (withSign neg ((m : ℝ) * 2 ^ e)) (roundFloat t rm sat r neg m e).1
      (roundFloat t rm sat r neg m e).2.ovf := by
  obtain ⟨top, hspan⟩ := F.span
  have hbinade : max (1 - bias - mb) (Int.log 2 |withSign neg ((m : ℝ) * 2 ^ e)| - ((mb + 1 : Nat) : Int) + 1) =
      quantum t m e := by
    rw [abs_withSign neg (by positivity), log_mul_zpow hm, quantum_eq F]
    congr 1
    omega
  have hq := quantum_eq F m e
  simp only [FloatHolds, hspan, hbinade, roundFloat]
  generalize quantum t m e = q at hq ⊢
  have hround := roundedTo_roundAt rm neg m e q hr
  have hn : roundAt rm neg m e q r ≤ 2 ^ (mb + 1) := roundAt_le (by omega) rm neg r
  generalize roundAt rm neg m e q r = n at hround hn ⊢
  refine ⟨_, hround, ?_⟩
  rw [abs_cast_withSign]
  by_cases hle : (n : ℝ) * 2 ^ q ≤ topOf t
  · have hb : beyond t n q = false := by simpa [← not_lt, ← beyond_iff] using hle
    simp only [hle, hb, if_true, Bool.false_eq_true, if_false]
    exact ⟨codes_packFloat F neg (by omega) hn hle, trivial⟩
  · have hb : beyond t n q = true := (beyond_iff t n q).2 (not_le.1 hle)
    have htop := codes_topOf F neg
    simp only [hle, hb, if_true, if_false]
    cases sat with
    | true => exact ⟨htop, rfl⟩
    | false =>
      cases rm with
      | rne => exact ⟨rfl, rfl⟩
      | rna => exact ⟨rfl, rfl⟩
      | sr => exact ⟨rfl, rfl⟩
      | rtz => exact ⟨rfl, htop⟩
      | rup => cases neg with
        | false => exact ⟨rfl, rfl⟩
        | true => exact ⟨rfl, htop⟩
      | rdn => cases neg with
        | false => exact ⟨rfl, htop⟩
        | true => exact ⟨rfl, rfl⟩

/-- Rounding into a format raises no flag but OVF. -/
theorem roundFloat_flags (t : Ty) (rm : Rnd) (sat : Bool) (r : Nat) (neg : Bool) (m : Nat) (e : Int) :
    (roundFloat t rm sat r neg m e).2 = { ovf := (roundFloat t rm sat r neg m e).2.ovf } := by
  simp only [roundFloat]
  split_ifs <;> rfl

/-! ## Conversion -/

/-- A conversion into a floating format (R76). -/
theorem convHolds_convQ_float (F : Format t eb mb bias) (rm : Rnd) (sat : Bool) {r : Nat} (hr : r < 2 ^ 64) (x : FVal) :
    ConvHolds t rm sat r (exactOf x) (convQ t 0 rm sat r x).1 (convQ t 0 rm sat r x).2 := by
  simp only [ConvHolds, convQ, F.fields, Option.isSome_some, if_true]
  cases x with
  | nan =>
    by_cases h0 : canonicalNaN t = 0
    · simp [exactOf, h0, ← F.noNaN]
    · simp [exactOf, h0, ← F.noNaN]
  | inf neg =>
    cases hi : hasInf t with
    | true => simp [exactOf]
    | false => simpa [exactOf, hi] using codes_topOf F neg
  | fin neg m e =>
    have hzero : ratOf neg m e = 0 ↔ m = 0 := by cases neg <;> simp [ratOf, zpow_ne_zero]
    by_cases hm : m = 0
    · simp only [exactOf, if_pos (hzero.2 hm), if_pos hm]
      exact ⟨codes_zero F neg, trivial⟩
    · have hnarrow : (sat || !(t == .f32 || t == .f64)) = (sat || decide (t ≠ .f32 ∧ t ≠ .f64)) := by
        simp [Bool.beq_eq_decide_eq]
      simp only [exactOf, hzero, hm, if_false, cast_ratOf, hnarrow]
      exact ⟨_, floatHolds_roundFloat F rm _ hr neg hm e, roundFloat_flags ..⟩

end Sys2Proof.Machine
end

section
/-!
PROOF. The statement on rounding and conversion (R73, R75, R76, R77).
-/
open Sys2Proof Sys2Proof.Machine

/-- Settles O8: a destination is a floating format, read in its own units, or an integer type or FX64 in units of its
quantum. -/
theorem roundingAndConversion : Obligations.RoundingAndConversion := by
  refine ⟨fun rm neg m e q r hr => ?_, fun dst q rm sat r x hr hq => ?_⟩
  · have h := roundedTo_roundAt rm neg m e q hr
    rw [← cast_ratOf] at h
    simpa [withSign] using h
  · cases hd : floatFields dst with
    | none => exact convHolds_convQ_int hd hq rm sat hr x
    | some p =>
      obtain ⟨eb, mb, bias⟩ := p
      obtain rfl : q = 0 := hq.resolve_right (by rintro rfl; cases hd)
      have hone : exactMul (exactOf x) (.num false (2 ^ (-(0 : Int)))) = exactOf x := by
        cases x with
        | nan => exact exactMul_undef _
        | inf neg => exact exactMul_inf_two_zpow neg _
        | fin neg m e => rw [exactMul_fin_two_zpow, sub_zero]; rfl
      rw [hone]
      exact convHolds_convQ_float (format_of_fields hd) rm sat hr x
end

section
/-!
PROOF. Instructions whose lanes give a value without flags: what their meaning at the lanes says of the destination
(R27, R130, R148).
-/
namespace Sys2Proof.Machine

variable {i : Instr} {s : State} {e : Env}

theorem Issues.wellFormed (h : Issues i s e) : WellFormed i = true := by
  have hl := h.legal
  simp only [Env.illegal, Bool.or_eq_false_iff, Bool.not_eq_false'] at hl
  exact hl.1.1

/-- A well-formed instruction's types are those that it accepts (R53, R62). -/
theorem Issues.typed (h : Issues i s e) {f p : Bool} (hw : WellFormed i = (f && p)) : p = true := by
  have hwf := h.wellFormed
  rw [hw, Bool.and_eq_true] at hwf
  exact hwf.2

/-- A well-formed instruction's types are those that it accepts, and its literal fits (R52, R53, R62). -/
theorem Issues.typed_and_fits (h : Issues i s e) {f p q : Bool} (hw : WellFormed i = (f && p && q)) :
    p = true ∧ q = true := by
  have hwf := h.wellFormed
  rw [hw, Bool.and_eq_true, Bool.and_eq_true] at hwf
  exact ⟨hwf.1.2, hwf.2⟩

/-- A value of `w` bits fills a set of registers, and such sets divide the V registers evenly (R26). -/
def WholeSet (w : Nat) : Prop := 32 ≤ w ∧ (w + 31) / 32 ∣ 96

theorem wholeSet_of_isInt {t : Ty} : t.isInt = true → WholeSet t.width := by
  unfold WholeSet; cases t <;> decide

theorem wholeSet_of_isB3264 {t : Ty} : t.isB3264 = true → WholeSet t.width := by
  unfold WholeSet; cases t <;> decide

theorem runsReg_of_perLane (h : Issues i s e) {d : RegCode} {w : Nat} (val : Env → Nat → Nat)
    (hx : exec i s = perLane i s (fun e l => outD (val e l))) (hd : (regsOf i).dst = [(d, w)])
    (hp : (regsOf i).pdst = none) (hw : WholeSet w) {rel : Nat → Nat → Prop} (hv : ∀ l, val e l < 2 ^ w)
    (hr : ∀ l, rel l (val e l)) : RunsReg i s e d w rel :=
  runsReg_of h (hx.trans (perLane_next h _)) hd hp (by have := hw.1; omega) hw.2 (val e) (fun _ => rfl) (fun _ => rfl)
    (fun l _ => hv l) (fun l _ => hr l)

theorem runsReg_of_gather (h : Issues i s e) {d : RegCode} {w : Nat} (val : Env → List Nat → Nat → Nat)
    (hx : exec i s = gather i s (fun e ps l => outD (val e ps l))) (hd : (regsOf i).dst = [(d, w)])
    (hp : (regsOf i).pdst = none) (hw : WholeSet w) {rel : Nat → Nat → Prop} (hv : ∀ l, val e (presentOf e i) l < 2 ^ w)
    (hr : ∀ l, rel l (val e (presentOf e i) l)) : RunsReg i s e d w rel :=
  runsReg_of h (hx.trans (gather_next h _)) hd hp (by have := hw.1; omega) hw.2 (val e (presentOf e i)) (fun _ => rfl)
    (fun _ => rfl) (fun l _ => hv l) (fun l _ => hr l)

theorem runsPred_of_gather (h : Issues i s e) {pd : PredCode} (val : Env → List Nat → Nat → Bool)
    (hx : exec i s = gather i s (fun e ps l => outP (val e ps l))) (hd : (regsOf i).dst = [])
    (hp : (regsOf i).pdst = some pd) {rel : Nat → Bool → Prop} (hr : ∀ l, rel l (val e (presentOf e i) l)) :
    RunsPred i s e pd rel :=
  runsPred_of (hx.trans (gather_next h _)) hd hp (val e (presentOf e i)) (fun _ => rfl) (fun _ => rfl) (fun l _ => hr l)

end Sys2Proof.Machine
end

section
/-!
PROOF. Codes of the integer types (R68), and an exact result wrapped or saturated (R150).
-/
namespace Sys2Proof.Machine

variable {t : Ty}

theorem intBounds_of_isInt (ht : t.isInt = true) : intBounds t = intRange t := by
  rw [intBounds_eq, boundsOf, if_neg]
  rintro rfl
  cases ht

theorem intRange_le (t : Ty) : (intRange t).1 ≤ (intRange t).2 := by cases t <;> decide

/-- The integer of a code lies within its type's bounds. -/
theorem asInt_mem_intRange (t : Ty) {v : Nat} (hv : v < 2 ^ t.width) :
    (intRange t).1 ≤ asInt t v ∧ asInt t v ≤ (intRange t).2 := by
  have hv' : (v : Int) < 2 ^ t.width := by exact_mod_cast hv
  unfold asInt intRange
  cases t.signed with
  | false => rw [Nat.mod_eq_of_lt hv]; simp only [Bool.false_eq_true, if_false]; omega
  | true =>
    have hpow : (2 : Int) ^ t.width = 2 * 2 ^ (t.width - 1) := by rw [← pow_succ', Nat.sub_add_cancel (width_pos t)]
    have hlt : v < 2 ^ (t.width - 1) ↔ (v : Int) < 2 ^ (t.width - 1) := by exact_mod_cast Iff.rfl
    simp only [if_true, sgn]
    split_ifs <;> omega

/-- A code is the remainder of its integer. -/
theorem wrapN_asInt (t : Ty) {v : Nat} (hv : v < 2 ^ t.width) : wrapN t.width (asInt t v) = v := by
  have hmod : (v : Int) % 2 ^ t.width = v := Int.emod_eq_of_lt (by positivity) (by exact_mod_cast hv)
  apply Int.natCast_inj.1
  rw [wrapN_cast, ← hmod]
  unfold asInt
  cases t.signed with
  | false => simp
  | true => simp only [if_true, sgn]; split_ifs <;> simp

theorem asInt_injective (t : Ty) {v u : Nat} (hv : v < 2 ^ t.width) (hu : u < 2 ^ t.width)
    (h : asInt t v = asInt t u) : v = u := by
  rw [← wrapN_asInt t hv, h, wrapN_asInt t hu]

theorem intResult_eq (ht : t.isInt = true) (sat : Bool) (x : Int) :
    intResult t sat x = if sat then (wrapN t.width (max (intRange t).1 (min (intRange t).2 x)),
        { ovf := decide (x < (intRange t).1 ∨ (intRange t).2 < x) }) else (wrapN t.width x, {}) := by
  simp only [intResult, intBounds_of_isInt ht, clampTo_eq (intRange_le t)]

/-- A result is wrapped, or saturated under SAT (R150). -/
theorem intHolds_intResult (ht : t.isInt = true) (sat : Bool) (x : Int) : IntHolds t sat x (intResult t sat x).1 := by
  rw [intResult_eq ht]
  cases sat with
  | false => exact ⟨wrapN_lt _ _, by simp [wrapN_cast]⟩
  | true =>
    refine ⟨wrapN_lt _ _, ?_⟩
    exact asInt_wrapN (le_max_left _ _) (max_le (intRange_le t) (min_le_left _ _))

/-- OVF is bit 0 of STICKY (R30). -/
theorem sticky_stickyOr_ovf (g : Group) (b : Bool) (k : Nat) :
    (stickyOr { g with sticky := 0 } { ovf := b }).sticky.getLsbD k = true ↔ k = 0 ∧ b = true := by
  cases b <;> simp [stickyOr, BitVec.getLsbD_one]

/-- Saturation that acts raises OVF, and no other flag (R150). -/
theorem sticky_intResult (ht : t.isInt = true) (g : Group) (sat : Bool) (x : Int) (k : Nat) :
    (stickyOr { g with sticky := 0 } (intResult t sat x).2).sticky.getLsbD k = true ↔ ovfRaised t sat x k := by
  rw [intResult_eq ht]
  cases sat with
  | false => simpa [ovfRaised] using sticky_stickyOr_ovf g false k
  | true => simpa [ovfRaised] using sticky_stickyOr_ovf g (decide (x < (intRange t).1 ∨ (intRange t).2 < x)) k

variable {i : Instr} {s : State} {e : Env}

/-- An instruction whose lanes each give one exact integer result. -/
theorem runsFlag_of_intResult (h : Issues i s e) {d : RegCode} {sat : Bool} (x : Env → Nat → Int)
    (hx : exec i s = perLane i s (fun e l => outF (intResult t sat (x e l)))) (hd : (regsOf i).dst = [(d, t.width)])
    (hp : (regsOf i).pdst = none) (ht : t.isInt = true) :
    RunsFlag i s e d t.width (fun l v => IntHolds t sat (x e l) v) (fun l n => ovfRaised t sat (x e l) n) :=
  runsFlag_of h (hx.trans (perLane_next h _)) hd hp (width_pos t) (wholeSet_of_isInt ht).2 _ (fun _ => rfl)
    (fun l _ => (intHolds_intResult ht sat (x e l)).1) (fun l _ => intHolds_intResult ht sat (x e l))
    (fun l k _ => sticky_intResult ht e.g sat (x e l) k)

/-- An instruction whose lanes each choose an integer of their type: IMIN and IMAX. -/
theorem runsReg_of_intResult (h : Issues i s e) {d : RegCode} (x : Env → Nat → Int)
    (hx : exec i s = perLane i s (fun e l => outF (intResult t false (x e l)))) (hd : (regsOf i).dst = [(d, t.width)])
    (hp : (regsOf i).pdst = none) (ht : t.isInt = true) (hlo : ∀ l, (intRange t).1 ≤ x e l)
    (hhi : ∀ l, x e l ≤ (intRange t).2) : RunsReg i s e d t.width (fun l v => v < 2 ^ t.width ∧ asInt t v = x e l) :=
  runsReg_of_perLane h (fun e l => wrapN t.width (x e l)) hx hd hp (wholeSet_of_isInt ht) (fun _ => wrapN_lt _ _)
    (fun l => ⟨wrapN_lt _ _, asInt_wrapN (hlo l) (hhi l)⟩)

theorem srcInt_mem_intRange (ht : t.isInt = true) (e : Env) (l : Nat) (r : RegCode) :
    (intRange t).1 ≤ srcInt e l t r ∧ srcInt e l t r ≤ (intRange t).2 :=
  asInt_mem_intRange t (readSet_lt _ _ _ _ (wholeSet_of_isInt ht).1)

theorem srcBInt_mem_intRange (ht : t.isInt = true) (e : Env) (l : Nat) {b : SrcB} (hb : b.fits t.width = true) :
    (intRange t).1 ≤ srcBInt e l t b ∧ srcBInt e l t b ≤ (intRange t).2 :=
  asInt_mem_intRange t (readB_lt _ _ _ _ (wholeSet_of_isInt ht).1 hb)

/-- IADDC: the sum of the operands and the carry in, modulo the width, and the carry out (R150). -/
theorem iaddc_runs {c : Ctl} {d a : RegCode} {b : SrcB} {pd p : PredCode} (h : Issues (.iaddc c t d pd a b p) s e) :
    let sum := fun (l : Nat) => readSet e.g l a t.width + readB e.g l b t.width + (if readPred e.g l p then 1 else 0)
    ∃ u, exec (.iaddc c t d pd a b p) s = .next u ∧
      RegFrame e u (e.lanes (.iaddc c t d pd a b p)) (some (d, t.width)) (some pd) ∧
      DstHolds e u (e.lanes (.iaddc c t d pd a b p)) d t.width (fun l v => v = sum l % 2 ^ t.width) ∧
      PredHolds e u (e.lanes (.iaddc c t d pd a b p)) pd (fun l v => v = true ↔ 2 ^ t.width ≤ sum l) ∧
      (u.group e.gid).sticky = e.g.sticky := by
  intro sum
  have hty : (t = .n32 ∨ t = .n64) := by
    have hwf := h.wellFormed
    simp only [WellFormed, Bool.and_eq_true, Bool.or_eq_true, beq_iff_eq] at hwf
    exact hwf.1.1.1.2
  have ht : t.isInt = true := by rcases hty with rfl | rfl <;> rfl
  refine ⟨_, perLane_next h _, afterLanes_frame _ e _ _, ?_, fun h12 l hl => ?_, afterLanes_sticky_eq _ e _ _ (fun _ _ => rfl)⟩
  · exact afterLanes_dst (.iaddc c t d pd a b p) e _ _ d t.width [] rfl (width_pos t)
      (h.dst_fits List.mem_cons_self (wholeSet_of_isInt ht).2) (fun l => sum l % 2 ^ t.width) (fun _ _ => rfl)
      (fun _ _ => Nat.mod_lt _ (by positivity))
  · rw [afterLanes_pred (.iaddc c t d pd a b p) e _ _ pd rfl (fun l => decide (2 ^ t.width ≤ sum l)) (fun _ _ => rfl) h12 l hl]
    exact decide_eq_true_iff

end Sys2Proof.Machine
end

section
/-!
PROOF. The statement on integer arithmetic (R150).
-/
open Sys2Proof Sys2Proof.Machine

/-- Settles O2: each instruction gives one exact integer, which is wrapped or saturated; IADDC adds the raw codes. -/
theorem integerArithmetic : Obligations.IntegerArithmetic := by
  intro c ty sat d a b k pd p s e A B C
  refine ⟨fun h => ?_, fun h => ?_, fun h => ?_, fun h => ?_, fun h => ?_, iaddc_runs, fun h => ?_, fun h => ?_, fun h => ?_⟩
  · exact runsFlag_of_intResult h (fun e l => srcInt e l ty a + srcBInt e l ty b) rfl rfl rfl (h.typed_and_fits rfl).1
  · exact runsFlag_of_intResult h (fun e l => srcInt e l ty a - srcBInt e l ty b) rfl rfl rfl (h.typed_and_fits rfl).1
  · exact runsFlag_of_intResult h (fun e l => srcInt e l ty a * srcBInt e l ty b) rfl rfl rfl (h.typed_and_fits rfl).1
  · exact runsFlag_of_intResult h (fun e l => srcInt e l ty a * srcBInt e l ty b + srcInt e l ty k) rfl rfl rfl
      (h.typed_and_fits rfl).1
  · have ht : ty.isInt = true := by
      have hty := h.typed rfl
      simp only [Bool.or_eq_true, beq_iff_eq] at hty
      obtain rfl | rfl := hty <;> rfl
    have hrun := runsFlag_of_intResult h (fun e l => ((srcInt e l ty a).natAbs : Int)) rfl rfl rfl ht
    simp only [Int.natCast_natAbs] at hrun
    exact hrun
  · exact runsReg_of_perLane h (fun e l => wrapN 32 (srcInt e l ty a * srcBInt e l ty b / 2 ^ 32)) rfl rfl rfl
      (by unfold WholeSet; decide) (fun _ => wrapN_lt _ _) (fun _ => ⟨wrapN_lt _ _, wrapN_cast _ _⟩)
  · obtain ⟨ht, hfits⟩ := h.typed_and_fits rfl
    have ha := fun l => srcInt_mem_intRange ht e l a
    have hb := fun l => srcBInt_mem_intRange ht e l hfits
    exact runsReg_of_intResult h (fun e l => min (srcInt e l ty a) (srcBInt e l ty b)) rfl rfl rfl ht
      (fun l => le_min (ha l).1 (hb l).1) (fun l => (min_le_left _ _).trans (ha l).2)
  · obtain ⟨ht, hfits⟩ := h.typed_and_fits rfl
    have ha := fun l => srcInt_mem_intRange ht e l a
    have hb := fun l => srcBInt_mem_intRange ht e l hfits
    exact runsReg_of_intResult h (fun e l => max (srcInt e l ty a) (srcBInt e l ty b)) rfl rfl rfl ht
      (fun l => (ha l).1.trans (le_max_left _ _)) (fun l => max_le (ha l).2 (hb l).2)
end

section
/-!
PROOF. Lane exchanges, votes and elections (R147, R148).
-/
namespace Sys2Proof.Machine

variable {i : Instr} {s : State} {e : Env}

/-! ## Exchanges -/

/-- Each active lane takes A of its source lane (R147). -/
theorem runsReg_of_exchange (h : Issues i s e) {ty : Ty} {d a : RegCode} (hx : exec i s = exchange i s ty a)
    (hd : (regsOf i).dst = [(d, ty.width)]) (hp : (regsOf i).pdst = none) (hty : ty.isB3264 = true) {src : Nat → Nat}
    (hsrc : ∀ l, exchangeSource i e.g l = some (src l)) :
    RunsReg i s e d ty.width (fun l v => v = readSet e.g (src l) a ty.width) := by
  have hw := wholeSet_of_isB3264 hty
  refine runsReg_of_perLane h (fun e l => readSet e.g ((exchangeSource i e.g l).getD l) a ty.width) hx hd hp hw
    (fun _ => readSet_lt _ _ _ _ hw.1) (fun l => ?_)
  rw [hsrc, Option.getD_some]

/-- Two bits of QSWZ's pattern (R147). -/
theorem bits_pattern (pat : BitVec 8) (n : Nat) : bits pat.toNat (n + 1) n = (pat.extractLsb' n 2).toNat := by
  rw [bits, BitVec.extractLsb'_toNat, show n + 1 + 1 - n = 2 by omega]

theorem mod_128_eq_and (n : Nat) : n % 128 = n &&& 127 := (Nat.and_two_pow_sub_one_eq_mod n 7).symm

/-! ## The first lane of a mask -/

/-- The first lane of a mask with a property is the lowest. -/
theorem find?_lanesOf_eq_some {m : LaneMask} {p : Nat → Bool} {l : Nat} :
    (lanesOf m).find? p = some l ↔ (l ∈ lanesOf m ∧ p l = true) ∧ ∀ j ∈ lanesOf m, p j = true → l ≤ j := by
  simp only [mem_lanesOf]
  rw [lanesOf, List.find?_filter, List.find?_range_eq_some]
  simp only [decide_eq_true_eq, List.mem_range, Bool.not_eq_true', decide_eq_false_iff_not, not_and]
  constructor
  · rintro ⟨hl, _, hlt⟩
    exact ⟨hl, fun j hj hp => not_lt.1 fun h => hlt j h hj hp⟩
  · rintro ⟨hl, hle⟩
    refine ⟨hl, ?_, fun j h hj hp => absurd (hle j hj hp) (not_le.2 h)⟩
    by_contra h
    rw [BitVec.getLsbD_of_ge _ _ (not_lt.1 h)] at hl
    cases hl.1

theorem head?_lanesOf_eq_some {m : LaneMask} {l : Nat} :
    (lanesOf m).head? = some l ↔ l ∈ lanesOf m ∧ ∀ j ∈ lanesOf m, l ≤ j := by
  have hhead : (lanesOf m).head? = (lanesOf m).find? (fun _ => true) := by cases lanesOf m <;> rfl
  rw [hhead, find?_lanesOf_eq_some]
  simp

/-- The lowest lane of a mask with a property, or all ones. -/
theorem find?_lanesOf_getD (m : LaneMask) (p : Nat → Bool) {v : Nat} (hv : v = ((lanesOf m).find? p).getD 0xFFFFFFFF) :
    v < 2 ^ 32 ∧ (((v ∈ lanesOf m ∧ p v = true) ∧ ∀ j, j ∈ lanesOf m ∧ p j = true → v ≤ j) ∨
      (∀ j, ¬ (j ∈ lanesOf m ∧ p j = true)) ∧ v = 0xFFFFFFFF) := by
  cases hf : (lanesOf m).find? p with
  | none =>
    rw [hf, Option.getD_none] at hv
    rw [List.find?_eq_none] at hf
    exact ⟨by omega, .inr ⟨fun j hj => hf j hj.1 hj.2, hv⟩⟩
  | some k =>
    rw [hf, Option.getD_some] at hv
    subst hv
    obtain ⟨hmem, hle⟩ := find?_lanesOf_eq_some.1 hf
    have hk : v < 128 := List.mem_range.1 (List.mem_filter.1 hmem.1).1
    exact ⟨by omega, .inl ⟨hmem, fun j hj => hle j hj.1 hj.2⟩⟩

/-- MATCH: the lowest active present lane with an equal A, or all ones for a helper lane without one (R148). -/
theorem matchAny_runs {c : Ctl} {ty : Ty} {d a : RegCode} (h : Issues (.matchAny c ty d a) s e) :
    RunsReg (.matchAny c ty d a) s e d 32 (fun l v =>
      let same := fun j => j ∈ presentOf e (.matchAny c ty d a) ∧ readSet e.g j a ty.width = readSet e.g l a ty.width
      (same v ∧ ∀ j, same j → v ≤ j) ∨ ((∀ j, ¬ same j) ∧ v = 0xFFFFFFFF)) := by
  have hfind := fun l => find?_lanesOf_getD (e.lanes (.matchAny c ty d a) &&& e.pres)
    (fun j => readSet e.g j a ty.width == readSet e.g l a ty.width) rfl
  simp only [beq_iff_eq] at hfind
  exact runsReg_of_gather h (fun e ps l =>
    (ps.find? (fun j => readSet e.g j a ty.width == readSet e.g l a ty.width)).getD 0xFFFFFFFF) rfl rfl rfl
    (by unfold WholeSet; decide) (fun l => (hfind l).1) (fun l => (hfind l).2)

/-! ## Votes -/

/-- VOTE.UNI: all lanes hold one truth value (R148). -/
theorem all_or_all_not_iff (xs : List Nat) (p : Nat → Bool) :
    (xs.all p || xs.all (fun j => !p j)) = true ↔ ∀ j ∈ xs, ∀ k ∈ xs, p j = p k := by
  rw [Bool.or_eq_true, List.all_eq_true, List.all_eq_true]
  constructor
  · rintro (h | h) j hj k hk
    · rw [h j hj, h k hk]
    · exact Bool.not_inj ((h j hj).trans (h k hk).symm)
  · intro h
    rcases xs with _ | ⟨x, xs⟩
    · exact .inl (by simp)
    · cases hx : p x with
      | true => exact .inl fun j hj => (h j hj x List.mem_cons_self).trans hx
      | false => exact .inr fun j hj => by rw [h j hj x List.mem_cons_self, hx]; rfl

/-! ## BALLOT -/

/-- A power of two above a number adds its own bit. -/
theorem testBit_add_two_pow {v k : Nat} (hv : v < 2 ^ k) (j : Nat) :
    (v + 2 ^ k).testBit j = true ↔ v.testBit j = true ∨ k = j := by
  rw [show v + 2 ^ k = 2 ^ k * 1 + v by omega, Nat.testBit_two_pow_mul_add 1 hv, ← pow_zero 2, Nat.testBit_two_pow]
  split_ifs with h
  · have : k ≠ j := by omega
    simp [this]
  · rw [Nat.testBit_lt_two_pow (hv.trans_le (Nat.pow_le_pow_right two_pos (not_lt.1 h)))]
    simp only [decide_eq_true_eq, Bool.false_eq_true, false_or]
    omega

/-- Ascending lanes of one segment that hold a predicate set each its own bit. -/
theorem testBit_foldl_lanes (p : Nat → Bool) (seg : Nat) (xs : List Nat) (hs : xs.Pairwise (· < ·)) (v : Nat)
    (hv : ∀ l ∈ xs, l / 32 = seg → v < 2 ^ (l % 32)) (j : Nat) :
    (xs.foldl (fun v l => if l / 32 = seg ∧ p l then v + 2 ^ (l % 32) else v) v).testBit j = true ↔
      v.testBit j = true ∨ ∃ l ∈ xs, (l / 32 = seg ∧ p l = true) ∧ l % 32 = j := by
  induction xs generalizing v with
  | nil => simp
  | cons x xs ih =>
    rw [List.pairwise_cons] at hs
    rw [List.foldl_cons]
    simp only [List.mem_cons, exists_eq_or_imp]
    by_cases hx : x / 32 = seg ∧ p x = true
    · have hlt := hv x List.mem_cons_self hx.1
      rw [if_pos hx, ih hs.2, testBit_add_two_pow hlt]
      · simp only [hx, true_and, or_assoc, and_self]
      · intro l hl hseg
        have hxl : x % 32 + 1 ≤ l % 32 := by have := hs.1 l hl; omega
        calc v + 2 ^ (x % 32) < 2 ^ (x % 32) + 2 ^ (x % 32) := by omega
          _ = 2 ^ (x % 32 + 1) := by rw [pow_succ]; omega
          _ ≤ 2 ^ (l % 32) := Nat.pow_le_pow_right two_pos hxl
    · rw [if_neg hx, ih hs.2 v fun l hl => hv l (List.mem_cons_of_mem _ hl)]
      simp only [hx, false_and, false_or]

theorem pairwise_lanesOf (m : LaneMask) : (lanesOf m).Pairwise (· < ·) := List.pairwise_lt_range.filter _

/-- Bit `j` of a segment's word stands for lane `32 * seg + j` (R148). -/
theorem testBit_ballotWord (e : Env) (m : LaneMask) (p : PredCode) (seg j : Nat) :
    (ballotWord e (lanesOf m) p seg).testBit j = true ↔
      j < 32 ∧ 32 * seg + j ∈ lanesOf m ∧ readPred e.g (32 * seg + j) p = true := by
  rw [ballotWord, testBit_foldl_lanes (fun l => readPred e.g l p) seg _ (pairwise_lanesOf m) 0 fun _ _ _ => by positivity]
  simp only [Nat.zero_testBit, Bool.false_eq_true, false_or]
  constructor
  · rintro ⟨l, hl, ⟨rfl, hp⟩, rfl⟩
    rw [Nat.div_add_mod]
    exact ⟨Nat.mod_lt _ (by omega), hl, hp⟩
  · rintro ⟨hj, hm, hp⟩
    exact ⟨_, hm, ⟨by omega, hp⟩, by omega⟩

theorem ballotWord_lt (e : Env) (m : LaneMask) (p : PredCode) (seg : Nat) : ballotWord e (lanesOf m) p seg < 2 ^ 32 := by
  refine Nat.lt_pow_two_of_testBit _ fun j hj => ?_
  rw [← Bool.not_eq_true, testBit_ballotWord]
  omega

/-- BALLOT.B128: the four segments' words, the lowest first (R148). -/
def ballotAll (e : Env) (ps : List Nat) (p : PredCode) : Nat :=
  ballotWord e ps p 0 + ballotWord e ps p 1 * 2 ^ 32 + ballotWord e ps p 2 * 2 ^ 64 + ballotWord e ps p 3 * 2 ^ 96

theorem ballotAll_lt (e : Env) (m : LaneMask) (p : PredCode) : ballotAll e (lanesOf m) p < 2 ^ 128 := by
  have h0 := ballotWord_lt e m p 0
  have h1 := ballotWord_lt e m p 1
  have h2 := ballotWord_lt e m p 2
  have h3 := ballotWord_lt e m p 3
  unfold ballotAll
  omega

theorem testBit_ballotAll (e : Env) (m : LaneMask) (p : PredCode) {j : Nat} (hj : j < 128) :
    (ballotAll e (lanesOf m) p).testBit j = true ↔ j ∈ lanesOf m ∧ readPred e.g j p = true := by
  have h0 := ballotWord_lt e m p 0
  have h1 := ballotWord_lt e m p 1
  have h2 := ballotWord_lt e m p 2
  have hword : (ballotAll e (lanesOf m) p).testBit j = (ballotWord e (lanesOf m) p (j / 32)).testBit (j % 32) := by
    have heq : ballotAll e (lanesOf m) p = 2 ^ 32 * (2 ^ 32 * (2 ^ 32 * ballotWord e (lanesOf m) p 3 +
        ballotWord e (lanesOf m) p 2) + ballotWord e (lanesOf m) p 1) + ballotWord e (lanesOf m) p 0 := by
      unfold ballotAll; omega
    rw [heq, Nat.testBit_two_pow_mul_add _ h0, Nat.testBit_two_pow_mul_add _ h1, Nat.testBit_two_pow_mul_add _ h2]
    split_ifs
    · rw [show j / 32 = 0 by omega, show j % 32 = j by omega]
    · rw [show j / 32 = 1 by omega, show j % 32 = j - 32 by omega]
    · rw [show j / 32 = 2 by omega, show j % 32 = j - 32 - 32 by omega]
    · rw [show j / 32 = 3 by omega, show j % 32 = j - 32 - 32 - 32 by omega]
  rw [hword, testBit_ballotWord, Nat.div_add_mod]
  exact and_iff_right (Nat.mod_lt _ (by omega))

end Sys2Proof.Machine
end

section
/-!
PROOF. REDUX and SCAN: the fold of each operation over the lanes' values, from its identity (R148).
-/
namespace Sys2Proof.Machine

variable {t : Ty}

/-- A fold of an operation that gives one of its operands, related to both, gives one of all, related to all. -/
theorem foldl_select {P : Nat → Prop} {R : Nat → Nat → Prop} {f : Nat → Nat → Nat} (hrefl : ∀ a, R a a)
    (htrans : ∀ a b c, R a b → R b c → R a c)
    (hf : ∀ a b, P a → P b → (f a b = a ∨ f a b = b) ∧ R (f a b) a ∧ R (f a b) b) (xs : List Nat) (x : Nat)
    (hP : ∀ y ∈ x :: xs, P y) : xs.foldl f x ∈ x :: xs ∧ ∀ y ∈ x :: xs, R (xs.foldl f x) y := by
  induction xs generalizing x with
  | nil => simp [hrefl]
  | cons z xs ih =>
    simp only [List.forall_mem_cons] at hP
    obtain ⟨hx, hz, hxs⟩ := hP
    obtain ⟨hor, hRx, hRz⟩ := hf x z hx hz
    have hPf : P (f x z) := by rcases hor with h | h <;> rwa [h]
    obtain ⟨hmem, hall⟩ := ih (f x z) (List.forall_mem_cons.2 ⟨hPf, hxs⟩)
    rw [List.forall_mem_cons] at hall
    rw [List.foldl_cons]
    constructor
    · rcases List.mem_cons.1 hmem with h | h
      · rcases hor with h' | h' <;> rw [h, h'] <;> simp
      · simp [h]
    · simp only [List.forall_mem_cons]
      exact ⟨htrans _ _ _ hall.1 hRx, htrans _ _ _ hall.1 hRz, hall.2⟩

theorem combine_min {a b : Nat} (ha : a < 2 ^ t.width) (hb : b < 2 ^ t.width) :
    combine 1 t a b = if asInt t a ≤ asInt t b then a else b := by
  unfold combine asInt
  cases t.signed with
  | true => rfl
  | false =>
    simp only [Bool.false_eq_true, if_false, Nat.mod_eq_of_lt ha, Nat.mod_eq_of_lt hb, Nat.cast_le]
    exact Nat.min_def

theorem combine_max {a b : Nat} (ha : a < 2 ^ t.width) (hb : b < 2 ^ t.width) :
    combine 2 t a b = if asInt t a ≤ asInt t b then b else a := by
  unfold combine asInt
  cases t.signed with
  | true => rfl
  | false =>
    simp only [Bool.false_eq_true, if_false, Nat.mod_eq_of_lt ha, Nat.mod_eq_of_lt hb, Nat.cast_le]
    exact Nat.max_def

/-- The type's greatest integer is the identity of MIN. -/
theorem combine_min_top {x : Nat} (hx : x < 2 ^ t.width) : combine 1 t (wrapN t.width (intRange t).2) x = x := by
  have htop : asInt t (wrapN t.width (intRange t).2) = (intRange t).2 := asInt_wrapN (intRange_le t) le_rfl
  rw [combine_min (wrapN_lt _ _) hx]
  split_ifs with h
  · exact asInt_injective t (wrapN_lt _ _) hx (le_antisymm h ((asInt_mem_intRange t hx).2.trans_eq htop.symm))
  · rfl

/-- The type's least integer is the identity of MAX. -/
theorem combine_max_bottom {x : Nat} (hx : x < 2 ^ t.width) : combine 2 t (wrapN t.width (intRange t).1) x = x := by
  have hbot : asInt t (wrapN t.width (intRange t).1) = (intRange t).1 := asInt_wrapN le_rfl (intRange_le t)
  rw [combine_max (wrapN_lt _ _) hx, if_pos (hbot.trans_le (asInt_mem_intRange t hx).1)]

theorem foldl_combine_add (ht : t ≠ .f32) (xs : List Nat) {v : Nat} (hv : v < 2 ^ t.width) :
    xs.foldl (combine 0 t) v = (v + xs.sum) % 2 ^ t.width := by
  induction xs generalizing v with
  | nil => simp [Nat.mod_eq_of_lt hv]
  | cons x xs ih =>
    have hadd : combine 0 t v x = (v + x) % 2 ^ t.width := if_neg ht
    rw [List.foldl_cons, hadd, ih (Nat.mod_lt _ (by positivity)), List.sum_cons, Nat.mod_add_mod, add_assoc]

theorem testBit_foldl_and (xs : List Nat) (v k : Nat) :
    (xs.foldl (combine 3 t) v).testBit k = true ↔ v.testBit k = true ∧ ∀ x ∈ xs, x.testBit k = true := by
  induction xs generalizing v with
  | nil => simp
  | cons x xs ih =>
    rw [List.foldl_cons, ih, combine, Nat.testBit_and, Bool.and_eq_true, List.forall_mem_cons, and_assoc]

theorem testBit_foldl_or (xs : List Nat) (v k : Nat) :
    (xs.foldl (combine 4 t) v).testBit k = true ↔ v.testBit k = true ∨ ∃ x ∈ xs, x.testBit k = true := by
  induction xs generalizing v with
  | nil => simp
  | cons x xs ih =>
    rw [List.foldl_cons, ih, combine, Nat.testBit_or, Bool.or_eq_true, or_assoc]
    simp only [List.mem_cons, exists_eq_or_imp]

theorem testBit_foldl_xor (xs : List Nat) (v k : Nat) :
    (xs.foldl (combine 5 t) v).testBit k = (v.testBit k ^^ decide (xs.countP (fun x => x.testBit k) % 2 = 1)) := by
  induction xs generalizing v with
  | nil => simp
  | cons x xs ih =>
    rw [List.foldl_cons, ih, combine, Nat.testBit_xor, Bool.xor_assoc, List.countP_cons]
    congr 1
    cases x.testBit k with
    | false => simp
    | true => rcases Nat.mod_two_eq_zero_or_one (xs.countP fun x => x.testBit k) with h | h <;> simp [h, Nat.add_mod]

/-- A number whose bits from `w` on are clear fits `w` bits; the folds of bits keep them clear. -/
theorem foldl_combine_lt {op : Nat} (hop : 3 ≤ op ∧ op ≤ 5) {xs : List Nat} (hxs : ∀ x ∈ xs, x < 2 ^ t.width) {v : Nat}
    (hv : v < 2 ^ t.width) : xs.foldl (combine op t) v < 2 ^ t.width := by
  induction xs generalizing v with
  | nil => exact hv
  | cons x xs ih =>
    rw [List.forall_mem_cons] at hxs
    refine ih hxs.2 ?_
    obtain rfl | rfl | rfl : op = 3 ∨ op = 4 ∨ op = 5 := by omega
    · exact Nat.and_lt_two_pow _ hxs.1
    · exact Nat.or_lt_two_pow hv hxs.1
    · exact Nat.xor_lt_two_pow hv hxs.1

theorem foldHolds_min (ht : t.isInt = true) {xs : List Nat} (hxs : ∀ x ∈ xs, x < 2 ^ t.width) :
    FoldHolds 1 t xs (foldOp 1 t xs) := by
  simp only [FoldHolds, foldOp, intBounds_of_isInt ht]
  cases xs with
  | nil => exact ⟨wrapN_lt _ _, fun _ => asInt_wrapN (intRange_le t) le_rfl, fun h => absurd rfl h⟩
  | cons x xs =>
    rw [List.foldl_cons, combine_min_top (hxs x List.mem_cons_self)]
    obtain ⟨hmem, hle⟩ := foldl_select (P := (· < 2 ^ t.width)) (R := fun a b => asInt t a ≤ asInt t b) (f := combine 1 t)
      (fun _ => le_rfl) (fun _ _ _ => le_trans)
      (fun a b ha hb => by rw [combine_min ha hb]; split_ifs with h <;> simp [h, le_of_not_ge]) xs x hxs
    exact ⟨hxs _ hmem, fun h => absurd h (List.cons_ne_nil _ _), fun _ => ⟨hmem, hle⟩⟩

theorem foldHolds_max (ht : t.isInt = true) {xs : List Nat} (hxs : ∀ x ∈ xs, x < 2 ^ t.width) :
    FoldHolds 2 t xs (foldOp 2 t xs) := by
  simp only [FoldHolds, foldOp, intBounds_of_isInt ht]
  cases xs with
  | nil => exact ⟨wrapN_lt _ _, fun _ => asInt_wrapN le_rfl (intRange_le t), fun h => absurd rfl h⟩
  | cons x xs =>
    rw [List.foldl_cons, combine_max_bottom (hxs x List.mem_cons_self)]
    obtain ⟨hmem, hle⟩ := foldl_select (P := (· < 2 ^ t.width)) (R := fun a b => asInt t b ≤ asInt t a) (f := combine 2 t)
      (fun _ => le_rfl) (fun _ _ _ h h' => le_trans h' h)
      (fun a b ha hb => by rw [combine_max ha hb]; split_ifs with h <;> simp [h, le_of_not_ge]) xs x hxs
    exact ⟨hxs _ hmem, fun h => absurd h (List.cons_ne_nil _ _), fun _ => ⟨hmem, hle⟩⟩

/-- The operations of REDUX and SCAN over values of an INT type (R148). -/
theorem foldHolds_foldOp (ht : t.isInt = true) {op : Nat} (hop : op ≤ 5) {xs : List Nat} (hxs : ∀ x ∈ xs, x < 2 ^ t.width) :
    FoldHolds op t xs (foldOp op t xs) := by
  have h0 : 0 < 2 ^ t.width := by positivity
  obtain rfl | rfl | rfl | rfl | rfl | rfl : op = 0 ∨ op = 1 ∨ op = 2 ∨ op = 3 ∨ op = 4 ∨ op = 5 := by omega
  · have hsum : foldOp 0 t xs = xs.sum % 2 ^ t.width :=
      (foldl_combine_add (by rintro rfl; cases ht) xs h0).trans (by rw [zero_add])
    exact ⟨hsum ▸ Nat.mod_lt _ h0, hsum⟩
  · exact foldHolds_min ht hxs
  · exact foldHolds_max ht hxs
  · refine ⟨foldl_combine_lt (by omega) hxs (Nat.sub_lt h0 one_pos), fun k hk => ?_⟩
    exact (testBit_foldl_and xs (2 ^ t.width - 1) k).trans (by simp [Nat.testBit_two_pow_sub_one, hk])
  · refine ⟨foldl_combine_lt (by omega) hxs h0, fun k hk => ?_⟩
    exact (testBit_foldl_or xs 0 k).trans (by simp)
  · refine ⟨foldl_combine_lt (by omega) hxs h0, fun k hk => ?_⟩
    exact (testBit_foldl_xor (t := t) xs 0 k).trans (by simp)

variable {i : Instr} {s : State} {e : Env}

/-- A REDUX: its operation over every active present lane (R148). -/
theorem runsReg_of_redux (h : Issues i s e) {d a : RegCode} {op : Nat} (hop : op ≤ 5) (hx : exec i s = redux i s t a op)
    (hd : (regsOf i).dst = [(d, t.width)]) (hp : (regsOf i).pdst = none) (ht : t.isInt = true) :
    RunsReg i s e d t.width (fun _ v => FoldHolds op t ((presentOf e i).map (fun j => readSet e.g j a t.width)) v) := by
  have hw := wholeSet_of_isInt ht
  have hfold := foldHolds_foldOp ht hop (xs := (presentOf e i).map (fun j => readSet e.g j a t.width))
    (List.forall_mem_map.2 fun _ _ => readSet_lt _ _ _ _ hw.1)
  exact runsReg_of_gather h (fun e ps _ => foldOp op t (ps.map (fun j => readSet e.g j a t.width))) hx hd hp hw
    (fun _ => hfold.1) (fun _ => hfold)

/-- A SCAN: its operation over the lanes up to each lane, or below it (R148). -/
theorem runsReg_of_scan (h : Issues i s e) {d a : RegCode} {op : Nat} {exc : Bool} (hop : op ≤ 5)
    (hx : exec i s = scan i s t exc a op) (hd : (regsOf i).dst = [(d, t.width)]) (hp : (regsOf i).pdst = none)
    (ht : t.isInt = true) : RunsReg i s e d t.width
      (fun l v => FoldHolds op t ((scanLanes e i exc l).map (fun j => readSet e.g j a t.width)) v) := by
  have hw := wholeSet_of_isInt ht
  have hfold := fun l => foldHolds_foldOp ht hop (xs := (scanLanes e i exc l).map (fun j => readSet e.g j a t.width))
    (List.forall_mem_map.2 fun _ _ => readSet_lt _ _ _ _ hw.1)
  exact runsReg_of_gather h (fun e ps l => foldOp op t ((if e.pres.getLsbD l then
      ps.filter (fun j => if exc then decide (j < l) else decide (j ≤ l)) else ps).map (fun j => readSet e.g j a t.width)))
    hx hd hp hw (fun l => (hfold l).1) hfold

end Sys2Proof.Machine
end

section
/-!
PROOF. The statement on lane exchanges and gathers (R147, R148).
-/
open Sys2Proof Sys2Proof.Machine

/-- Settles O1: an exchange reads its source lane; a gather looks through the active present lanes in ascending order. -/
theorem exchangesGatherAndCombine : Obligations.ExchangesGatherAndCombine := by
  refine ⟨fun c ty d a s e => ⟨fun pat h => ?_, fun src h => ?_, fun b h => ?_, fun b h => ?_, fun b h => ?_, fun b h => ?_⟩,
    fun c d pd p s e => ⟨fun h => ?_, fun h => ?_, fun h => ?_, fun h => ?_, fun h => ?_, fun ty a h => ?_, fun h => ?_⟩,
    fun c ty exc d a s e op i => ⟨fun hi h => ?_, fun hi h => ?_⟩⟩
  · exact runsReg_of_exchange h rfl rfl rfl (h.typed rfl) fun l => by rw [exchangeSource, bits_pattern]
  · exact runsReg_of_exchange h rfl rfl rfl (h.typed rfl) fun _ => rfl
  · exact runsReg_of_exchange h rfl rfl rfl (h.typed_and_fits rfl).1 fun l => by rw [exchangeSource, mod_128_eq_and]
  · exact runsReg_of_exchange h rfl rfl rfl (h.typed_and_fits rfl).1 fun _ => rfl
  · exact runsReg_of_exchange h rfl rfl rfl (h.typed_and_fits rfl).1 fun _ => rfl
  · exact runsReg_of_exchange h rfl rfl rfl (h.typed_and_fits rfl).1 fun l => by rw [exchangeSource, mod_128_eq_and]
  · exact runsReg_of_gather h (fun e ps l => ballotWord e ps p (l / 32)) rfl rfl rfl (by unfold WholeSet; decide)
      (fun _ => ballotWord_lt _ _ _ _) fun l => ⟨ballotWord_lt _ _ _ _, fun j hj => by
        rw [presentOf, testBit_ballotWord, and_iff_right hj]⟩
  · exact runsReg_of_gather h (fun e ps _ => ballotAll e ps p) rfl rfl rfl (by unfold WholeSet; decide)
      (fun _ => ballotAll_lt _ _ _) fun l => ⟨ballotAll_lt _ _ _, fun j hj => testBit_ballotAll _ _ _ hj⟩
  · exact runsPred_of_gather h (fun e ps _ => ps.all fun j => readPred e.g j p) rfl rfl rfl fun _ => List.all_eq_true
  · exact runsPred_of_gather h (fun e ps _ => ps.any fun j => readPred e.g j p) rfl rfl rfl fun _ => List.any_eq_true
  · exact runsPred_of_gather h
      (fun e ps _ => ps.all (fun j => readPred e.g j p) || ps.all (fun j => !readPred e.g j p)) rfl rfl rfl
      fun _ => all_or_all_not_iff _ _
  · exact matchAny_runs h
  · exact runsPred_of_gather h (fun _ ps l => ps.head? == some l) rfl rfl rfl fun l => by
      rw [beq_iff_eq, presentOf, head?_lanesOf_eq_some]
  · simp only [List.mem_cons, Prod.mk.injEq, List.not_mem_nil, or_false] at hi
    rcases hi with ⟨rfl, rfl⟩ | ⟨rfl, rfl⟩ | ⟨rfl, rfl⟩ | ⟨rfl, rfl⟩ | ⟨rfl, rfl⟩ | ⟨rfl, rfl⟩ <;>
      exact runsReg_of_redux h (by decide) rfl rfl rfl (h.typed rfl)
  · simp only [List.mem_cons, Prod.mk.injEq, List.not_mem_nil, or_false] at hi
    rcases hi with ⟨rfl, rfl⟩ | ⟨rfl, rfl⟩ | ⟨rfl, rfl⟩ | ⟨rfl, rfl⟩ | ⟨rfl, rfl⟩ | ⟨rfl, rfl⟩ <;>
      exact runsReg_of_scan h (by decide) rfl rfl rfl (h.typed rfl)
end

section
/-!
PROOF. Codes of the floating formats (R65): their fields, and rounded results within the width of their type (R162).
-/
namespace Sys2Proof.Machine

variable {t : Ty} {eb mb : Nat} {bias : Int}

/-! ## Rounded results fit their type -/

theorem Format.width (F : Format t eb mb bias) : if t = .tf32 then t.width = 32 else 1 + eb + mb ≤ t.width := by
  have h := F.fields
  cases t <;> simp only [floatFields, reduceCtorEq, Option.some.injEq, Prod.mk.injEq] at h <;>
    obtain ⟨rfl, rfl, rfl⟩ := h <;> decide

theorem Codes.lt (F : Format t eb mb bias) {neg : Bool} {a : ℝ} {v : Nat} (h : Codes t neg a v) : v < 2 ^ t.width := by
  have hlt := h.1
  have hw := F.width
  simp only [F.fields] at hlt
  split_ifs at hlt hw
  · rw [hw]; exact hlt.1
  · exact hlt.trans_le (Nat.pow_le_pow_right two_pos hw)

theorem infCode_lt (t : Ty) (neg : Bool) : infCode t neg < 2 ^ t.width := by cases t <;> cases neg <;> decide

theorem canonicalNaN_lt (t : Ty) : canonicalNaN t < 2 ^ t.width := by cases t <;> decide

theorem roundFloat_lt (F : Format t eb mb bias) (rm : Rnd) (sat : Bool) (r : Nat) (neg : Bool) (m : Nat) (e : Int) :
    (roundFloat t rm sat r neg m e).1 < 2 ^ t.width := by
  have hq := quantum_eq F m e
  have hn := roundAt_le (p := mb + 1) (q := quantum t m e) (hq ▸ le_max_right _ _) rm neg r
  have htop := (codes_topOf F neg).lt F
  simp only [roundFloat]
  split_ifs with hb
  · exact htop
  · exact infCode_lt t neg
  · exact htop
  · exact (codes_packFloat F neg (hq ▸ le_max_left _ _) hn (not_lt.1 ((beyond_iff _ _ _).not.1 hb))).lt F

theorem roundIEEE_lt (F : Format t eb mb bias) (rm : Rnd) (x : FVal) : roundIEEE t rm x < 2 ^ t.width := by
  cases x with
  | nan => exact canonicalNaN_lt t
  | inf neg => exact infCode_lt t neg
  | fin neg m e => exact roundFloat_lt F rm false 0 neg m e

/-! ## The value of a code, from its fields -/

/-- A code is made of its three fields (R65). -/
theorem floatCode_of_fields {x : Nat} (hx : x < 2 ^ (1 + eb + mb)) :
    floatCode eb mb (x.testBit (eb + mb)) (x / 2 ^ mb % 2 ^ eb) (x % 2 ^ mb) = x := by
  have hsign : b2n (x.testBit (eb + mb)) = x / 2 ^ (eb + mb) := by
    have hlt : x / 2 ^ (eb + mb) < 2 := by
      rw [Nat.div_lt_iff_lt_mul (by positivity), ← pow_succ']
      exact hx.trans_eq (by ring)
    rw [Nat.testBit_eq_decide_div_mod_eq, Nat.mod_eq_of_lt hlt]
    generalize x / 2 ^ (eb + mb) = k at hlt
    interval_cases k <;> rfl
  have hlow : x / 2 ^ mb % 2 ^ eb * 2 ^ mb + x % 2 ^ mb = x % 2 ^ (eb + mb) := by
    rw [add_comm eb mb, pow_add, Nat.mod_mul]; ring
  rw [floatCode, hsign, hlow, Nat.div_add_mod']

/-- The significand of a finite code: subnormals have no leading bit (R65). -/
def significand (mb E M : Nat) : Nat := if E = 0 then M else 2 ^ mb + M

/-- The exponent of a finite code's quantum (R65). -/
def quantumExp (mb : Nat) (bias : Int) (E : Nat) : Int := if E = 0 then 1 - bias - mb else E - bias - mb

/-- The value of a code of a format with infinities, from its fields (R65). -/
theorem floatVal_eq (F : Format t eb mb bias) (hinf : hasInf t = true) (htf : t ≠ .tf32) (x : Nat) :
    floatVal t x =
      if x / 2 ^ mb % 2 ^ eb = 2 ^ eb - 1 then
        (if x % 2 ^ mb = 0 then .inf (x.testBit (eb + mb)) else .nan)
      else .fin (x.testBit (eb + mb)) (significand mb (x / 2 ^ mb % 2 ^ eb) (x % 2 ^ mb))
        (quantumExp mb bias (x / 2 ^ mb % 2 ^ eb)) := by
  have he4 : t ≠ .e4m3 := by rintro rfl; cases hinf
  simp only [floatVal, F.fields, hinf, htf, he4, if_false, false_and, Bool.true_and, beq_iff_eq, significand, quantumExp]
  split_ifs <;> rfl

theorem value_eq_floatVal (F : Format t eb mb bias) {x : Nat} (hx : x < 2 ^ t.width) : value t x = floatVal t x := by
  simp only [value, valueQ, F.fields, Option.isSome_some, if_true, Nat.mod_eq_of_lt hx]

/-- The magnitude of a finite code in units of the format's least quantum. -/
def leastUnits (mb E M : Nat) : Nat := if E = 0 then M else (2 ^ mb + M) * 2 ^ (E - 1)

theorem leastUnits_mul (mb : Nat) (bias : Int) (E M : Nat) :
    (significand mb E M : ℚ) * 2 ^ quantumExp mb bias E = leastUnits mb E M * 2 ^ (1 - bias - mb : Int) := by
  unfold significand quantumExp leastUnits
  split_ifs with h
  · rfl
  · obtain ⟨j, rfl⟩ := Nat.exists_eq_succ_of_ne_zero h
    rw [show ((j.succ : Nat) : Int) - bias - mb = j + (1 - bias - mb) by push_cast; ring, zpow_add₀ two_ne_zero,
      zpow_natCast]
    push_cast
    ring

/-- A larger exponent field means a larger magnitude, whatever the fractions (R65). -/
theorem leastUnits_lt {E E' M M' : Nat} (hM : M < 2 ^ mb) (h : E < E') : leastUnits mb E M < leastUnits mb E' M' := by
  obtain ⟨j, rfl⟩ := Nat.exists_eq_add_of_lt h
  have hhi : 2 ^ mb * 2 ^ (E + j) ≤ leastUnits mb (E + j + 1) M' := by
    rw [leastUnits, if_neg (by omega), Nat.add_sub_cancel]
    exact Nat.mul_le_mul_right _ (Nat.le_add_right _ _)
  refine lt_of_lt_of_le ?_ ((Nat.mul_le_mul_left _ (Nat.pow_le_pow_right two_pos (Nat.le_add_right E j))).trans hhi)
  unfold leastUnits
  split_ifs with h0
  · simpa [h0] using hM
  · obtain ⟨k, rfl⟩ := Nat.exists_eq_succ_of_ne_zero h0
    rw [Nat.succ_sub_one, pow_succ', ← mul_assoc]
    exact Nat.mul_lt_mul_of_pos_right (by omega) (by positivity)

theorem leastUnits_injective {E E' M M' : Nat} (hM : M < 2 ^ mb) (hM' : M' < 2 ^ mb)
    (h : leastUnits mb E M = leastUnits mb E' M') : E = E' ∧ M = M' := by
  rcases lt_trichotomy E E' with hlt | rfl | hlt
  · exact absurd h (leastUnits_lt hM hlt).ne
  · refine ⟨rfl, ?_⟩
    unfold leastUnits at h
    split_ifs at h
    · exact h
    · exact Nat.add_left_cancel (Nat.eq_of_mul_eq_mul_right (by positivity) h)
  · exact absurd h (leastUnits_lt hM' hlt).ne'

theorem leastUnits_eq_zero_iff {E M : Nat} : leastUnits mb E M = 0 ↔ E = 0 ∧ M = 0 := by
  unfold leastUnits
  split_ifs with h <;> simp [h]

end Sys2Proof.Machine
end

section
/-!
PROOF. The order of exact values (R168): `cmpV` decides `Exact.below`, and codes that compare equal are the same code or
two zeros.
-/
namespace Sys2Proof.Machine

theorem scaled_mul_zpow (neg : Bool) (m : Nat) {e b : Int} (h : b ≤ e) :
    (scaled neg m e b : ℚ) * 2 ^ b = ratOf neg m e := by
  obtain ⟨j, rfl⟩ := Int.le.dest h
  rw [scaled, ratOf, add_sub_cancel_left, Int.toNat_natCast, add_comm b, zpow_add₀ two_ne_zero, zpow_natCast]
  cases neg <;> push_cast <;> simp <;> ring

theorem scaled_lt_scaled_iff (s s' : Bool) (m n : Nat) (e f : Int) :
    scaled s m e (min e f) < scaled s' n f (min e f) ↔ ratOf s m e < ratOf s' n f := by
  rw [← scaled_mul_zpow s m (min_le_left e f), ← scaled_mul_zpow s' n (min_le_right e f),
    mul_lt_mul_iff_left₀ (by positivity), Int.cast_lt]

theorem cmpV_eq_lt_iff {u v : FVal} (hv : v ≠ .nan) : cmpV u v = some .lt ↔ (exactOf u).below (exactOf v) := by
  cases u with
  | nan => cases v <;> simp [cmpV, exactOf, Exact.below]
  | inf s => cases v with
    | nan => exact absurd rfl hv
    | inf s' => cases s <;> cases s' <;> simp [cmpV, exactOf, Exact.below]
    | fin s' n f => cases s <;> simp [cmpV, exactOf, Exact.below]
  | fin s m e => cases v with
    | nan => exact absurd rfl hv
    | inf s' => cases s' <;> simp [cmpV, exactOf, Exact.below]
    | fin s' n f => simp [cmpV, exactOf, Exact.below, compare_lt_iff_lt, scaled_lt_scaled_iff]

theorem cmpV_swap (u v : FVal) : cmpV v u = (cmpV u v).map Ordering.swap := by
  cases u with
  | nan => cases v <;> rfl
  | inf s => cases v with
    | nan => rfl
    | inf s' => cases s <;> cases s' <;> rfl
    | fin s' n f => cases s <;> rfl
  | fin s m e => cases v with
    | nan => rfl
    | inf s' => cases s' <;> rfl
    | fin s' n f => simp only [cmpV, Option.map_some, min_comm f e, Std.OrientedOrd.eq_swap (a := scaled s' n f _)]

theorem cmpV_eq_gt_iff {u v : FVal} (hu : u ≠ .nan) : cmpV u v = some .gt ↔ (exactOf v).below (exactOf u) := by
  rw [← cmpV_eq_lt_iff hu, cmpV_swap u v]
  rcases cmpV u v with _ | o
  · simp
  · cases o <;> simp

theorem below_irrefl (x : Exact) : ¬ x.below x := by
  rcases x with _ | s | ⟨s, x⟩
  · exact id
  · cases s <;> simp [Exact.below]
  · exact lt_irrefl x

theorem ne_nan_of_cmpV {u v : FVal} {o : Ordering} (h : cmpV u v = some o) : u ≠ .nan ∧ v ≠ .nan := by
  constructor
  · rintro rfl; cases v <;> cases h
  · rintro rfl; cases u <;> cases h

/-- Numbers that compare equal are the same number. -/
theorem ratOf_eq_of_cmpV {s s' : Bool} {m n : Nat} {e f : Int} (h : cmpV (.fin s m e) (.fin s' n f) = some .eq) :
    ratOf s m e = ratOf s' n f := by
  simp only [cmpV, Option.some.injEq, compare_eq_iff_eq] at h
  rw [← scaled_mul_zpow s m (min_le_left e f), ← scaled_mul_zpow s' n (min_le_right e f), h]

/-- A sign and a natural magnitude are read back from their number, but for the sign of a zero. -/
theorem eq_of_withSign_eq {s s' : Bool} {m n : Nat} (h : withSign s (m : Int) = withSign s' (n : Int)) :
    m = n ∧ (s = s' ∨ m = 0) := by
  cases s <;> cases s' <;> simp [withSign] at h ⊢ <;> omega

variable {t : Ty} {eb mb : Nat} {bias : Int}

theorem ratOf_significand (s : Bool) (E M : Nat) :
    ratOf s (significand mb E M) (quantumExp mb bias E) =
      ((withSign s (leastUnits mb E M : Int) : Int) : ℚ) * 2 ^ (1 - bias - mb : Int) := by
  rw [ratOf, mul_assoc, leastUnits_mul]
  cases s <;> simp [withSign]

/-- Codes of equal numbers have the same fields, but for the sign of a zero (R65, R168). -/
theorem fields_eq_of_cmpV (F : Format t eb mb bias) (hinf : hasInf t = true) (htf : t ≠ .tf32) {x y : Nat}
    (h : cmpV (floatVal t x) (floatVal t y) = some .eq) :
    x / 2 ^ mb % 2 ^ eb = y / 2 ^ mb % 2 ^ eb ∧ x % 2 ^ mb = y % 2 ^ mb ∧
      (x.testBit (eb + mb) = y.testBit (eb + mb) ∨ x / 2 ^ mb % 2 ^ eb = 0 ∧ x % 2 ^ mb = 0) := by
  obtain ⟨hu, hv⟩ := ne_nan_of_cmpV h
  rw [floatVal_eq F hinf htf] at h hu
  rw [floatVal_eq F hinf htf y] at h hv
  have hMx : x % 2 ^ mb < 2 ^ mb := Nat.mod_lt _ (by positivity)
  have hMy : y % 2 ^ mb < 2 ^ mb := Nat.mod_lt _ (by positivity)
  generalize x / 2 ^ mb % 2 ^ eb = E at *
  generalize y / 2 ^ mb % 2 ^ eb = E' at *
  generalize x % 2 ^ mb = M at *
  generalize y % 2 ^ mb = M' at *
  generalize x.testBit (eb + mb) = s at *
  generalize y.testBit (eb + mb) = s' at *
  by_cases hE : E = 2 ^ eb - 1 <;> by_cases hE' : E' = 2 ^ eb - 1 <;>
    simp only [hE, hE', if_true, if_false, ne_eq, ite_eq_right_iff, reduceCtorEq, imp_false, not_not] at h hu hv
  · subst hu hv
    refine ⟨hE.trans hE'.symm, rfl, .inl ?_⟩
    cases s <;> cases s' <;> simp [cmpV] at h ⊢
  · simp only [hu, if_true, cmpV] at h
    cases s <;> simp at h
  · simp only [hv, if_true, cmpV] at h
    cases s' <;> simp at h
  · have hnum := ratOf_eq_of_cmpV h
    rw [ratOf_significand, ratOf_significand, mul_left_inj' (by positivity), Int.cast_inj] at hnum
    obtain ⟨hmag, hsign⟩ := eq_of_withSign_eq hnum
    obtain ⟨rfl, rfl⟩ := leastUnits_injective hMx hMy hmag
    exact ⟨rfl, rfl, hsign.imp_right leastUnits_eq_zero_iff.1⟩

/-- Two F32 codes of equal numbers are the same code, or the two zeros. -/
theorem f32_eq_or_zeros {x y : Nat} (hx : x < 2 ^ 32) (hy : y < 2 ^ 32)
    (h : cmpV (value .f32 x) (value .f32 y) = some .eq) : x = y ∨ (x % 2 ^ 31 = 0 ∧ y % 2 ^ 31 = 0) := by
  have F : Format .f32 8 23 127 := format_of_fields rfl
  rw [value_eq_floatVal F hx, value_eq_floatVal F hy] at h
  obtain ⟨hE, hM, hs | ⟨hE0, hM0⟩⟩ := fields_eq_of_cmpV F rfl (by decide) h
  · refine .inl ?_
    rw [← floatCode_of_fields (eb := 8) (mb := 23) hx, ← floatCode_of_fields (eb := 8) (mb := 23) hy, hs, hE, hM]
  · exact .inr (by omega)

end Sys2Proof.Machine
end

section
/-!
PROOF. Floating instructions at their lanes (R162 to R166): rounded arithmetic, FMIN and FMAX, FCLASS.
-/
namespace Sys2Proof.Machine

variable {i : Instr} {s : State} {e : Env}

/-! ## Rounded arithmetic -/

/-- An instruction whose lanes each round one exact value into its type (R162). -/
theorem runsReg_of_rounded (h : Issues i s e) {t : Ty} {rm : Rnd} {d : RegCode} (x : Env → Nat → FVal)
    (hx : exec i s = perLane i s (fun e l => outD (roundIEEE t rm (x e l)))) (hd : (regsOf i).dst = [(d, t.width)])
    (hp : (regsOf i).pdst = none) (ht : t = .f32 ∨ t = .f64) :
    RunsReg i s e d t.width (fun l v => v = roundIEEE t rm (x e l)) := by
  have hw : WholeSet t.width := by unfold WholeSet; rcases ht with rfl | rfl <;> decide
  have hlt : ∀ y, roundIEEE t rm y < 2 ^ t.width := by
    rcases ht with rfl | rfl
    · exact roundIEEE_lt (format_of_fields rfl) rm
    · exact roundIEEE_lt (format_of_fields rfl) rm
  exact runsReg_of_perLane h (fun e l => roundIEEE t rm (x e l)) hx hd hp hw (fun _ => hlt _) (fun _ => rfl)

/-- A packed instruction: its lanes each round two exact values into the halves of a register (R163). -/
theorem runsReg_of_packed (h : Issues i s e) {t : Ty} {rm : Rnd} {d : RegCode} (f : Env → Nat → Nat → FVal)
    (hx : exec i s = perLane i s (fun e l => packed t rm (f e l))) (hd : (regsOf i).dst = [(d, 32)])
    (hp : (regsOf i).pdst = none) (ht : (t == .f16 || t == .bf16) = true) :
    RunsReg i s e d 32 (fun l v => v = roundIEEE t rm (f e l 0) + roundIEEE t rm (f e l 1) * 2 ^ 16) := by
  have hlt : ∀ y, roundIEEE t rm y < 2 ^ 16 := by
    simp only [Bool.or_eq_true, beq_iff_eq] at ht
    rcases ht with rfl | rfl
    · exact roundIEEE_lt (format_of_fields rfl) rm
    · exact roundIEEE_lt (format_of_fields rfl) rm
  refine runsReg_of_perLane h (fun e l => roundIEEE t rm (f e l 0) + roundIEEE t rm (f e l 1) * 2 ^ 16) hx hd hp
    (by unfold WholeSet; decide) (fun l => ?_) (fun _ => rfl)
  have h0 := hlt (f e l 0)
  have h1 := hlt (f e l 1)
  omega

/-- The types of a packed instruction, whose form also fixes its rounding and literal (R53, R163). -/
theorem Issues.packedType (h : Issues i s e) {f p q r : Bool} (hw : WellFormed i = (f && p && q && r)) : p = true := by
  have hwf := h.wellFormed
  simp only [hw, Bool.and_eq_true] at hwf
  exact hwf.1.1.2

/-! ## FMIN and FMAX -/

section
variable {x y : Nat} {flip : Bool}

/-- What R164 says of the operand chosen from two F32 codes, by FMAX with `flip`. -/
def Chooses (flip : Bool) (x y v : Nat) : Prop :=
  match value .f32 x, value .f32 y with
  | .nan, .nan => v = 0x7FC00000
  | .nan, _ => v = y
  | _, .nan => v = x
  | _, _ => (v = x ∨ v = y) ∧ (∀ z, z = x ∨ z = y →
      ¬ if flip then (exactOf (value .f32 v)).below (exactOf (value .f32 z))
        else (exactOf (value .f32 z)).below (exactOf (value .f32 v))) ∧
      (x % 2 ^ 31 = 0 → y % 2 ^ 31 = 0 → x ≠ y → v = if flip then 0 else 0x80000000)

/-- The choice `fminmax` makes of two numbers by their order. -/
def chosen (flip : Bool) (x y : Nat) : Ordering → Nat
  | .lt => if flip then y else x
  | .gt => if flip then x else y
  | .eq => if flip then x &&& y else x ||| y

theorem fminmax_eq_chosen {o : Ordering} (h : cmpV (value .f32 x) (value .f32 y) = some o) :
    fminmax flip x y = chosen flip x y o := by
  obtain ⟨hu, hv⟩ := ne_nan_of_cmpV h
  unfold fminmax
  split
  · contradiction
  · contradiction
  · contradiction
  · rw [h]; cases o <;> rfl

/-- An F32 code of magnitude zero is one of the two zeros. -/
theorem zero_or_negZero {z : Nat} (hz : z < 2 ^ 32) (h : z % 2 ^ 31 = 0) : z = 0 ∨ z = 0x80000000 := by omega

theorem cmpV_zeros (hx : x < 2 ^ 32) (hy : y < 2 ^ 32) (h : x % 2 ^ 31 = 0) (h' : y % 2 ^ 31 = 0) :
    cmpV (value .f32 x) (value .f32 y) = some .eq := by
  obtain rfl | rfl := zero_or_negZero hx h <;> obtain rfl | rfl := zero_or_negZero hy h' <;> decide

/-- Of two equal numbers the choice is that number, and of unlike zeros the one R164 names. -/
theorem chosen_operand_of_eq (hx : x < 2 ^ 32) (hy : y < 2 ^ 32) (h : cmpV (value .f32 x) (value .f32 y) = some .eq) :
    (chosen flip x y .eq = x ∨ chosen flip x y .eq = y) ∧
      (x % 2 ^ 31 = 0 → y % 2 ^ 31 = 0 → x ≠ y → chosen flip x y .eq = if flip then 0 else 0x80000000) := by
  rcases f32_eq_or_zeros hx hy h with rfl | ⟨hx0, hy0⟩
  · exact ⟨by simp [chosen], fun _ _ hne => absurd rfl hne⟩
  · obtain rfl | rfl := zero_or_negZero hx hx0 <;> obtain rfl | rfl := zero_or_negZero hy hy0 <;>
      cases flip <;> decide

/-- No operand lies beyond the one chosen. -/
theorem chosen_best {o : Ordering} (h : cmpV (value .f32 x) (value .f32 y) = some o)
    (hmem : chosen flip x y o = x ∨ chosen flip x y o = y) {z : Nat} (hz : z = x ∨ z = y) :
    ¬ if flip then (exactOf (value .f32 (chosen flip x y o))).below (exactOf (value .f32 z))
      else (exactOf (value .f32 z)).below (exactOf (value .f32 (chosen flip x y o))) := by
  obtain ⟨hu, hv⟩ := ne_nan_of_cmpV h
  have hlt := cmpV_eq_lt_iff (u := value .f32 x) hv
  have hgt := cmpV_eq_gt_iff (v := value .f32 y) hu
  have hx := below_irrefl (exactOf (value .f32 x))
  have hy := below_irrefl (exactOf (value .f32 y))
  rw [h] at hlt hgt
  cases o with
  | lt =>
    have hyx := hgt.not.1 (by decide)
    cases flip <;> rcases hz with rfl | rfl <;> assumption
  | gt =>
    have hxy := hlt.not.1 (by decide)
    cases flip <;> rcases hz with rfl | rfl <;> assumption
  | eq =>
    have hxy := hlt.not.1 (by decide)
    have hyx := hgt.not.1 (by decide)
    rcases hmem with hm | hm <;> rw [hm] <;> cases flip <;> rcases hz with rfl | rfl <;> assumption

/-- Of two numbers the choice is an operand, and of unlike zeros the one R164 names. -/
theorem chosen_operand {o : Ordering} (hx : x < 2 ^ 32) (hy : y < 2 ^ 32)
    (h : cmpV (value .f32 x) (value .f32 y) = some o) :
    (chosen flip x y o = x ∨ chosen flip x y o = y) ∧
      (x % 2 ^ 31 = 0 → y % 2 ^ 31 = 0 → x ≠ y → chosen flip x y o = if flip then 0 else 0x80000000) := by
  cases o with
  | eq => exact chosen_operand_of_eq hx hy h
  | lt =>
    refine ⟨?_, fun hx0 hy0 => absurd (h.symm.trans (cmpV_zeros hx hy hx0 hy0)) (by decide)⟩
    cases flip
    · exact .inl rfl
    · exact .inr rfl
  | gt =>
    refine ⟨?_, fun hx0 hy0 => absurd (h.symm.trans (cmpV_zeros hx hy hx0 hy0)) (by decide)⟩
    cases flip
    · exact .inr rfl
    · exact .inl rfl

theorem exists_cmpV {u v : FVal} (hu : u ≠ .nan) (hv : v ≠ .nan) : ∃ o, cmpV u v = some o := by
  cases u with
  | nan => contradiction
  | inf s => cases v with
    | nan => contradiction
    | inf s' => exact ⟨_, rfl⟩
    | fin s' n f => exact ⟨_, rfl⟩
  | fin s m e => cases v with
    | nan => contradiction
    | inf s' => exact ⟨_, rfl⟩
    | fin s' n f => exact ⟨_, rfl⟩

/-- FMIN and FMAX choose the operand that R164 names. -/
theorem chooses_fminmax (hx : x < 2 ^ 32) (hy : y < 2 ^ 32) : Chooses flip x y (fminmax flip x y) := by
  unfold Chooses
  split
  next hu hv => simp [fminmax, hu, hv, canonicalNaN]
  next hu _ => simp [fminmax, hu]
  next hv _ => simp [fminmax, hv]
  next hu hv _ =>
    obtain ⟨o, ho⟩ := exists_cmpV hu hv
    obtain ⟨hmem, hzero⟩ := chosen_operand (flip := flip) hx hy ho
    rw [fminmax_eq_chosen ho]
    exact ⟨hmem, fun z => chosen_best ho hmem, hzero⟩

theorem Chooses.lt {v : Nat} (h : Chooses flip x y v) (hx : x < 2 ^ 32) (hy : y < 2 ^ 32) : v < 2 ^ 32 := by
  unfold Chooses at h
  split at h
  · exact h ▸ canonicalNaN_lt .f32
  · exact h ▸ hy
  · exact h ▸ hx
  · rcases h.1 with rfl | rfl
    · exact hx
    · exact hy

end

/-- FMIN and FMAX at their lanes (R164). -/
theorem runsReg_of_fminmax (h : Issues i s e) {flip : Bool} {d a : RegCode} {b : SrcB}
    (hx : exec i s = perLane i s (fun e l => outD (fminmax flip (readSet e.g l a 32) (readB e.g l b 32))))
    (hd : (regsOf i).dst = [(d, 32)]) (hp : (regsOf i).pdst = none) (hb : b.fits 32 = true) :
    RunsReg i s e d 32 (fun l v => Chooses flip (readSet e.g l a 32) (readB e.g l b 32) v) := by
  have ha := fun l => readSet_lt e.g l a 32 le_rfl
  have hb' := fun l => readB_lt e.g l b 32 le_rfl hb
  have hchoice := fun l => chooses_fminmax (flip := flip) (ha l) (hb' l)
  exact runsReg_of_perLane h (fun e l => fminmax flip (readSet e.g l a 32) (readB e.g l b 32)) hx hd hp
    (by unfold WholeSet; decide) (fun l => (hchoice l).lt (ha l) (hb' l)) hchoice

/-! ## FCLASS -/

/-- FCLASS's bit for a value (R166), the exponent field telling normal numbers and the top fraction bit quiet NaNs. -/
def classBit (normal quiet : Bool) : FVal → Nat
  | .nan => if quiet then 2 ^ 9 else 2 ^ 8
  | .inf neg => if neg then 2 ^ 0 else 2 ^ 7
  | .fin neg m _ =>
    if m = 0 then (if neg then 2 ^ 3 else 2 ^ 4)
    else if normal then (if neg then 2 ^ 1 else 2 ^ 6) else if neg then 2 ^ 2 else 2 ^ 5

section
variable {t : Ty} {eb mb : Nat} {bias : Int}

theorem classOf_eq_classBit (F : Format t eb mb bias) (hinf : hasInf t = true) (htf : t ≠ .tf32) (hmb : 0 < mb) (x : Nat) :
    classOf t x = classBit (decide (x / 2 ^ mb % 2 ^ eb ≠ 0)) (x.testBit (mb - 1)) (floatVal t x) := by
  have hquiet : (x % 2 ^ mb).testBit (mb - 1) = x.testBit (mb - 1) := by
    rw [Nat.testBit_mod_two_pow, decide_eq_true (by omega), Bool.true_and]
  have htop : 2 ^ eb - 1 ≠ 0 := by have := Nat.one_lt_two_pow F.exponentBits.ne'; omega
  simp only [classOf, F.fields, floatVal_eq F hinf htf, hquiet]
  generalize x / 2 ^ mb % 2 ^ eb = E
  generalize x % 2 ^ mb = M
  by_cases hE : E = 2 ^ eb - 1
  · by_cases hM : M = 0
    · cases x.testBit (eb + mb) <;> simp [hE, hM, classBit]
    · simp [hE, hM, classBit, apply_ite]
  · by_cases h0 : E = 0
    · by_cases hM : M = 0 <;> cases x.testBit (eb + mb) <;> simp [h0, hM, htop.symm, classBit, significand]
    · cases x.testBit (eb + mb) <;> simp [hE, h0, classBit, significand]

theorem classBit_lt (normal quiet : Bool) (x : FVal) : classBit normal quiet x < 2 ^ 32 := by
  unfold classBit
  split <;> split_ifs <;> decide

/-- FCLASS at its lanes (R166). -/
theorem runsReg_of_fclass {c : Ctl} {d a : RegCode} (h : Issues (.fclass c t d a) s e) (F : Format t eb mb bias)
    (hinf : hasInf t = true) (htf : t ≠ .tf32) (hmb : 0 < mb) (hw : 32 ≤ t.width) :
    RunsReg (.fclass c t d a) s e d 32 (fun l v =>
      let x := readSet e.g l a t.width
      v = classBit (decide (x / 2 ^ mb % 2 ^ eb ≠ 0)) (x.testBit (mb - 1)) (value t x)) := by
  have hbit := fun l => classOf_eq_classBit F hinf htf hmb (readSet e.g l a t.width)
  exact runsReg_of_perLane h (fun e l => classOf t (readSet e.g l a t.width)) rfl rfl rfl (by unfold WholeSet; decide)
    (fun l => (hbit l).trans_lt (classBit_lt _ _ _))
    (fun l => by simp only [hbit l, value_eq_floatVal F (readSet_lt e.g l a t.width hw)])

end

end Sys2Proof.Machine
end

section
/-!
PROOF. The statement on floating instructions (R163, R164, R166).
-/
open Sys2Proof Sys2Proof.Machine

/-- Settles O6: arithmetic rounds one exact value per lane or half, FMIN and FMAX choose by the order of exact values,
FCLASS reads its bit off the code's fields. -/
theorem floatInstructionsRun : Obligations.FloatInstructionsRun := by
  intro c ty rm d a b k s e A B K pair least
  refine ⟨fun i f hi h => ?_, fun h => ?_, fun i f hi h => ?_, fun h => ?_, fun h => ?_, fun h => ?_, fun h => ?_,
    fun h => ?_, fun h => ?_, fun h => ?_, fun h => ?_⟩
  · simp only [List.mem_cons, Prod.mk.injEq, List.not_mem_nil, or_false] at hi
    obtain ⟨rfl, rfl⟩ | ⟨rfl, rfl⟩ := hi
    · exact runsReg_of_rounded h (fun e l => addV rm (srcF e l .f32 a) (srcBF e l .f32 b)) rfl rfl rfl (.inl rfl)
    · exact runsReg_of_rounded h (fun e l => mulV (srcF e l .f32 a) (srcBF e l .f32 b)) rfl rfl rfl (.inl rfl)
  · exact runsReg_of_rounded h (fun e l => addV rm (mulV (srcF e l .f32 a) (srcBF e l .f32 b)) (srcF e l .f32 k))
      rfl rfl rfl (.inl rfl)
  · simp only [List.mem_cons, Prod.mk.injEq, List.not_mem_nil, or_false] at hi
    obtain ⟨rfl, rfl⟩ | ⟨rfl, rfl⟩ := hi
    · exact runsReg_of_rounded h (fun e l => addV rm (srcF e l .f64 a) (srcBF e l .f64 b)) rfl rfl rfl (.inr rfl)
    · exact runsReg_of_rounded h (fun e l => mulV (srcF e l .f64 a) (srcBF e l .f64 b)) rfl rfl rfl (.inr rfl)
  · exact runsReg_of_rounded h (fun e l => addV rm (mulV (srcF e l .f64 a) (srcBF e l .f64 b)) (srcF e l .f64 k))
      rfl rfl rfl (.inr rfl)
  · exact runsReg_of_packed h (fun e l j => addV rm (half ty (readSet e.g l a 32) j) (half ty (readB e.g l b 32) j))
      rfl rfl rfl (h.packedType rfl)
  · exact runsReg_of_packed h (fun e l j => mulV (half ty (readSet e.g l a 32) j) (half ty (readB e.g l b 32) j))
      rfl rfl rfl (h.packedType rfl)
  · exact runsReg_of_packed h (fun e l j => addV rm (mulV (half ty (readSet e.g l a 32) j) (half ty (readB e.g l b 32) j))
      (half ty (readSet e.g l k 32) j)) rfl rfl rfl (h.packedType rfl)
  · exact runsReg_of_rounded h (fun e l => scaleV (clampScale (sgn 32 (readB e.g l b 32))) (srcF e l .f32 a))
      rfl rfl rfl (.inl rfl)
  · exact runsReg_of_fminmax h rfl rfl rfl (h.typed rfl)
  · exact runsReg_of_fminmax h rfl rfl rfl (h.typed rfl)
  · have hty := h.typed rfl
    simp only [Bool.or_eq_true, beq_iff_eq] at hty
    obtain rfl | rfl := hty
    · exact runsReg_of_fclass h (format_of_fields rfl) rfl (by decide) (by decide) (by decide)
    · exact runsReg_of_fclass h (format_of_fields rfl) rfl (by decide) (by decide) (by decide)
end
